-- ==== Sys2Proof/Word.lean ====
section
/-! DEFINITION. Word types and the finite map every sparse structure of the machine uses. -/

namespace Sys2Proof

/-- A scalar register, a far address, a device register (R208, R10). -/
abbrev Word64 := BitVec 64
/-- A lane register, a queue entry, an instruction parcel (R212, R230, R233). -/
abbrev Word32 := BitVec 32
/-- The smallest addressable unit (R6). -/
abbrev Byte := BitVec 8

/-- A finite map from Nat keys, held as pairs in rising key order.
A key that is not listed stands for a default named by the reader. -/
abbrev FMap (α : Type) := List (Nat × α)

/-- The value at key `k`, or `d` when the map does not list `k`. -/
def FMap.look {α : Type} (d : α) : FMap α → Nat → α
  | [], _ => d
  | (j, v) :: m, k => bif j == k then v else FMap.look d m k

/-- Set key `k` to `v`, keeping the keys in rising order. -/
def FMap.put {α : Type} : FMap α → Nat → α → FMap α
  | [], k, v => [(k, v)]
  | (j, w) :: m, k, v =>
    bif j == k then (k, v) :: m
    else bif Nat.blt k j then (k, v) :: (j, w) :: m
    else (j, w) :: FMap.put m k v

/-- Remove key `k`. -/
def FMap.del {α : Type} : FMap α → Nat → FMap α
  | [], _ => []
  | (j, w) :: m, k => bif j == k then FMap.del m k else (j, w) :: FMap.del m k

/-- The value at key `k` when the map lists it. -/
def FMap.find {α : Type} : FMap α → Nat → Option α
  | [], _ => none
  | (j, v) :: m, k => bif j == k then some v else FMap.find m k

/-- The keys are strictly rising. -/
def FMap.sorted {α : Type} : FMap α → Bool
  | [] => true
  | [_] => true
  | (j, _) :: (k, w) :: m => Nat.blt j k && FMap.sorted ((k, w) :: m)

end Sys2Proof
end

