-- ==== Sys2Proof/Syntax.lean ====
section
/-! DEFINITION. The instructions and steps of the part: one constructor per row of the opcode table. -/

namespace Sys2Proof

/-- Who acts: a team of a vector core (R208), a matrix program (R345), a firmware hart (R436),
or the device outside every stream. -/
inductive Agent where
  | team (core slot : Nat)
  | prog (cluster slot : Nat)
  | hart (h : Nat)
  | device
  deriving DecidableEq, Repr

/-- The two directions of a Gorot link (R189): package to module, module to package. -/
inductive LinkDir where
  | out
  | back
  deriving DecidableEq, Repr

/-- How an update changes a signal: SOP of a bundle (R364), a store or AMO, a kick (R430). -/
inductive SignalOp where
  | set
  | add
  | sub
  deriving DecidableEq, Repr

/-- The prefix parcel of a lane instruction (R243), less its reserved bits. -/
structure LanePfx where
  mask : BitVec 3
  rnd : BitVec 3
  pol : BitVec 1
  den : BitVec 1
  dea : BitVec 1
  dcode : BitVec 8
  deriving DecidableEq, Repr

/-- The fields of a lane word L0, L1, L2 beside its opcode (R233), and its prefix if it has one. -/
structure LaneWord where
  pfx : Option LanePfx
  fmt : BitVec 4
  sub : BitVec 4
  gcc : BitVec 2
  gcond : BitVec 4
  ccd : BitVec 3
  litsel : BitVec 2
  ea : BitVec 3
  dst : BitVec 8
  srcA : BitVec 8
  srcB : BitVec 8
  srcC : BitVec 8
  aux : BitVec 32
  deriving DecidableEq, Repr

/-- One constructor per row of spec/opcode_table.json. -/
inductive Instr where
  -- Scalar stream instructions (R253 to R257).
  /-- ADD Scalar 64-bit add of ga and gb into gd. (R266) -/
  | add (d a b : BitVec 5)
  /-- SUB Scalar 64-bit subtract ga minus gb into gd. (R266) -/
  | sub (d a b : BitVec 5)
  /-- AND Scalar bitwise AND of ga and gb. (R266) -/
  | and (d a b : BitVec 5)
  /-- OR Scalar bitwise OR of ga and gb. (R266) -/
  | or (d a b : BitVec 5)
  /-- XOR Scalar bitwise XOR of ga and gb. (R266) -/
  | xor (d a b : BitVec 5)
  /-- ANDN Scalar ga AND NOT gb. (R266) -/
  | andn (d a b : BitVec 5)
  /-- SLL Scalar logical left shift of ga by gb[5:0]. (R266) -/
  | sll (d a b : BitVec 5)
  /-- SRL Scalar logical right shift of ga by gb[5:0]. (R266) -/
  | srl (d a b : BitVec 5)
  /-- SRA Scalar arithmetic right shift of ga by gb[5:0]. (R266) -/
  | sra (d a b : BitVec 5)
  /-- MUL Low 64 bits of ga times gb. (R266) -/
  | mul (d a b : BitVec 5)
  /-- MULHS High 64 bits of the signed 128-bit product. (R266) -/
  | mulhs (d a b : BitVec 5)
  /-- MULHN High 64 bits of the unsigned 128-bit product. (R266) -/
  | mulhn (d a b : BitVec 5)
  /-- DIV Signed quotient rounded toward zero, never trapping. (R267) -/
  | div (d a b : BitVec 5)
  /-- DIVN Unsigned quotient, never trapping. (R267) -/
  | divn (d a b : BitVec 5)
  /-- REM Signed remainder with the dividend's sign. (R267) -/
  | rem (d a b : BitVec 5)
  /-- REMN Unsigned remainder. (R267) -/
  | remn (d a b : BitVec 5)
  /-- MIN Signed minimum of ga and gb. (R266) -/
  | min (d a b : BitVec 5)
  /-- MAX Signed maximum of ga and gb. (R266) -/
  | max (d a b : BitVec 5)
  /-- MINN Unsigned minimum of ga and gb. (R266) -/
  | minn (d a b : BitVec 5)
  /-- MAXN Unsigned maximum of ga and gb. (R266) -/
  | maxn (d a b : BitVec 5)
  /-- SLT 1 when ga is less than gb signed. (R266) -/
  | slt (d a b : BitVec 5)
  /-- SLTN 1 when ga is less than gb unsigned. (R266) -/
  | sltn (d a b : BitVec 5)
  /-- CLZ Count of leading zero bits of ga. (R266) -/
  | clz (d a : BitVec 5)
  /-- CTZ Count of trailing zero bits of ga. (R266) -/
  | ctz (d a : BitVec 5)
  /-- POPC Count of one bits of ga. (R266) -/
  | popc (d a : BitVec 5)
  /-- SEQ 1 when ga equals gb. (R266) -/
  | seq (d a b : BitVec 5)
  /-- ADDI ga plus sign-extended immediate. (R268) -/
  | addi (d a : BitVec 5) (i : BitVec 16)
  /-- ANDI ga AND zero-extended immediate. (R268) -/
  | andi (d a : BitVec 5) (i : BitVec 16)
  /-- ORI ga OR zero-extended immediate. (R268) -/
  | ori (d a : BitVec 5) (i : BitVec 16)
  /-- XORI ga XOR zero-extended immediate. (R268) -/
  | xori (d a : BitVec 5) (i : BitVec 16)
  /-- SLLI Immediate logical left shift. (R268) -/
  | slli (d a : BitVec 5) (n : BitVec 6)
  /-- SRLI Immediate logical right shift. (R268) -/
  | srli (d a : BitVec 5) (n : BitVec 6)
  /-- SRAI Immediate arithmetic right shift. (R268) -/
  | srai (d a : BitVec 5) (n : BitVec 6)
  /-- GHI Sign-extended immediate shifted left 16 into gd. (R268) -/
  | ghi (d : BitVec 5) (i : BitVec 16)
  /-- GSH ga shifted left 16 ORed with the zero-extended immediate. (R268) -/
  | gsh (d a : BitVec 5) (i : BitVec 16)
  /-- SLTI 1 when ga is less than the sign-extended immediate, signed. (R268) -/
  | slti (d a : BitVec 5) (i : BitVec 16)
  /-- SLTIN 1 when ga is less than the sign-extended immediate, unsigned. (R268) -/
  | sltin (d a : BitVec 5) (i : BitVec 16)
  /-- BEQ Branch when ga equals gb. (R269) -/
  | beq (a b : BitVec 5) (o : BitVec 16)
  /-- BNE Branch when ga differs from gb. (R269) -/
  | bne (a b : BitVec 5) (o : BitVec 16)
  /-- BLT Branch when ga is less than gb, signed. (R269) -/
  | blt (a b : BitVec 5) (o : BitVec 16)
  /-- BGE Branch when ga is at least gb, signed. (R269) -/
  | bge (a b : BitVec 5) (o : BitVec 16)
  /-- BLTN Branch when ga is less than gb, unsigned. (R269) -/
  | bltn (a b : BitVec 5) (o : BitVec 16)
  /-- BGEN Branch when ga is at least gb, unsigned. (R269) -/
  | bgen (a b : BitVec 5) (o : BitVec 16)
  /-- JAL Jump by a 26-bit word offset, linking into g31. (R270) -/
  | jal (o : BitVec 26)
  /-- JALR Jump to ga plus byte offset, linking into g31. (R270) -/
  | jalr (a : BitVec 5) (i : BitVec 16)
  /-- BK_ANY Branch when any live lane is set in the mask. (R271) -/
  | bkAny (k : BitVec 3) (o : BitVec 16)
  /-- BK_NONE Branch when no live lane is set in the mask. (R271) -/
  | bkNone (k : BitVec 3) (o : BitVec 16)
  /-- BK_ALL Branch when every live lane is set in the mask. (R271) -/
  | bkAll (k : BitVec 3) (o : BitVec 16)
  /-- VRUN Fetch, check and enqueue lane instructions from LPC, capturing g values and TMODE. (R272) -/
  | vrun (n : BitVec 16)
  /-- VJMP Set LPC to the lane code base plus ga plus 4 times the immediate. (R273) -/
  | vjmp (a : BitVec 5) (i : BitVec 16)
  /-- VSYNC Block the scalar stream until enqueued lane instructions complete their passes and accesses. (R274) -/
  | vsync 
  /-- KAND Mask kd = ka AND kb. (R275) -/
  | kand (d a b : BitVec 3)
  /-- KOR Mask kd = ka OR kb. (R275) -/
  | kor (d a b : BitVec 3)
  /-- KXOR Mask kd = ka XOR kb. (R275) -/
  | kxor (d a b : BitVec 3)
  /-- KANDN Mask kd = ka AND NOT kb. (R275) -/
  | kandn (d a b : BitVec 3)
  /-- KNOT Mask kd = NOT ka over launched lanes. (R275) -/
  | knot (d a : BitVec 3)
  /-- KMOV Mask kd = ka. (R275) -/
  | kmov (d a : BitVec 3)
  /-- KALL Mask kd = every launched lane. (R275) -/
  | kall (d : BitVec 3)
  /-- KCLR Mask kd = 0. (R275) -/
  | kclr (d : BitVec 3)
  /-- KCNT Count the lanes set in a mask ANDed with k0. (R276) -/
  | kcnt (d : BitVec 5) (k : BitVec 3)
  /-- KFST Lowest lane index set in a mask ANDed with k0. (R276) -/
  | kfst (d : BitVec 5) (k : BitVec 3)
  /-- KRDW Read one 32-bit word of a mask into gd. (R277) -/
  | krdw (d a : BitVec 5) (k : BitVec 3)
  /-- KWRW Write one 32-bit word of a mask from gb. (R277) -/
  | kwrw (a b : BitVec 5) (k : BitVec 3)
  /-- GLD Scalar load from the unit scratchpad. (R278) -/
  | gld (d a : BitVec 5) (s : BitVec 3) (i : BitVec 13)
  /-- GST Scalar store to the unit scratchpad. (R278) -/
  | gst (d a : BitVec 5) (s : BitVec 3) (i : BitVec 13)
  /-- GATM Scalar 64-bit atomic on the unit scratchpad at unit scope. (R279) -/
  | gatm (d a b c : BitVec 5) (r : BitVec 2) (o : BitVec 4)
  /-- FPOST Post a tile fetch into a fetch window, taking a peg and arming a slot. (R61) -/
  | fpost (d a b : BitVec 5) (s : BitVec 3) (q : BitVec 1)
  /-- WPOST Write one tile of a far tensor from a scratchpad tensor under a tag. (R332) -/
  | wpost (a b : BitVec 5) (s : BitVec 3) (l : BitVec 1)
  /-- CPY Copy one tile between tensors under a tag. (R334) -/
  | cpy (a b c : BitVec 5) (s : BitVec 3) (l q : BitVec 1)
  /-- RATM Perform one atomic at the module and land the old value in scratchpad. (R337) -/
  | ratm (d a b c : BitVec 5) (l z : BitVec 1) (o : BitVec 4)
  /-- CSR_RD Read a team control register into gd. (R280) -/
  | csrRd (d : BitVec 5) (n : BitVec 14)
  /-- CSR_WR Write ga to a team control register, returning the old value. (R280) -/
  | csrWr (d a : BitVec 5) (n : BitVec 14)
  /-- CSR_SET Set the bits of ga in a team control register. (R280) -/
  | csrSet (d a : BitVec 5) (n : BitVec 14)
  /-- CSR_CLR Clear the bits of ga in a team control register. (R280) -/
  | csrClr (d a : BitVec 5) (n : BitVec 14)
  /-- SFQ_READ A CSR read of SFQ returns the next word of the oldest store-fault record and removes it after word 3. (R401) -/
  | sfqRead (d : BitVec 5)
  /-- TRAP_RESUME A CSR write leaving TCAUSE.RET set resumes the team at TEPC with its held lane entries. (R395) -/
  | trapResume 
  /-- SYSC Make a system call: wait, park the team and post the call record. (R284) -/
  | sysc (i : BitVec 16)
  /-- YIELD Report point that makes the cooperative save when PREQ is set, or reorders the team. (R288) -/
  | yield (l : BitVec 8) (w : BitVec 1)
  /-- EXIT End the team with a status after its earlier work completes. (R287) -/
  | exit (s : BitVec 16)
  /-- TRAP Trap the team with cause USER. (R289) -/
  | trap (i : BitVec 16)
  /-- IRQ Raise a device interrupt with a 64-bit payload. (R285) -/
  | irq (a : BitVec 5) (v : BitVec 11)
  /-- LVL_RD Read the completion counter of a level instance. (R290) -/
  | lvlRd (d : BitVec 5) (l : BitVec 3)
  /-- LVL_CANCEL Cancel the level instance that holds the team. (R206) -/
  | lvlCancel (d : BitVec 5) (l : BitVec 3)
  /-- FENCE Order the team's scalar and lane accesses at a scope. (R151) -/
  | fence (k : BitVec 2) (s : BitVec 3)
  /-- DRAIN Wait until earlier engine commands pass translation, then act as a report point. (R283) -/
  | drain 
  /-- TIME Read the package time base into gd. (R286) -/
  | time (d : BitVec 5)
  /-- BAR_ARRIVE Arrive at a named barrier as a release. (R340) -/
  | barArrive (a : BitVec 5)
  /-- BAR_WAIT Wait until a barrier leaves the named phase. (R94) -/
  | barWait (a : BitVec 5)
  /-- BAR_ARRWAIT Arrive at a barrier and wait for its phase to flip. (R94) -/
  | barArrwait (a : BitVec 5)
  /-- BAR_INIT Set a team barrier's expected count. (R94) -/
  | barInit (a b : BitVec 5)
  /-- BAR_QUERY Return a barrier's counts and phase. (R95) -/
  | barQuery (d a : BitVec 5)
  /-- TAG_WALL Wait until every tag of the mask is ready. (R342) -/
  | tagWall (a : BitVec 5)
  /-- TAG_WANY Wait for any ready tag of the mask, return and clear it. (R342) -/
  | tagWany (d a : BitVec 5)
  /-- TAG_FFR Return the lowest ready tag of the mask or -1 without waiting. (R342) -/
  | tagFfr (d a : BitVec 5)
  /-- TAG_CLR Clear the tags of the mask when none is outstanding. (R342) -/
  | tagClr (a : BitVec 5)
  /-- TAG_READ Return the status word of one tag. (R342) -/
  | tagRead (d a : BitVec 5)
  /-- WIN_CFG Configure or deconfigure a fetch window from a configuration word. (R56) -/
  | winCfg (a b : BitVec 5)
  /-- WIN_REL Release a window slot once LANDED, returning a peg. (R69) -/
  | winRel (a b : BitVec 5)
  /-- WIN_QRY Return a window's status word. (R70) -/
  | winQry (d a : BitVec 5)
  /-- WIN_WAITA Wait until every peg of a window is home. (R71) -/
  | winWaita (a : BitVec 5)
  /-- TID_BINDS Bind a tensor identifier from a descriptor in scratchpad. (R344) -/
  | tidBinds (a b : BitVec 5)
  /-- TID_BINDF Bind a tensor identifier from a descriptor in far memory. (R344) -/
  | tidBindf (a b : BitVec 5)
  /-- TID_INV Unbind a tensor identifier once nothing holds it. (R344) -/
  | tidInv (a : BitVec 5)
  /-- TID_QRY Return the status of a tensor identifier. (R108) -/
  | tidQry (d a : BitVec 5)
  /-- MX_MUL Check and enqueue a matrix multiply-accumulate of KC lines into a tile. (R358) -/
  | mxMul (a b c : BitVec 5)
  /-- MX_ZERO Enqueue zeroing of an accumulator tile. (R359) -/
  | mxZero (a : BitVec 5)
  /-- MX_DRAIN Enqueue draining of a tile into p2. (R360) -/
  | mxDrain (a : BitVec 5)
  /-- MX_STORE Enqueue a narrowing store of a tile into a scratchpad tensor of the bound unit. (R361) -/
  | mxStore (a b c : BitVec 5)
  /-- MX_ALLOC Choose the lowest FREE accumulator bank and start zeroing it. (R362) -/
  | mxAlloc (d : BitVec 5)
  /-- MX_FREE Retire an accumulator bank, returning when its last operation retires. (R362) -/
  | mxFree (a : BitVec 5)
  /-- MX_WAIT Wait on a barrier of the bound unit to leave the named phase. (R362) -/
  | mxWait (a : BitVec 5)
  /-- MX_CFG Bind or unbind the ports and a unit to the matrix program. (R351) -/
  | mxCfg (a : BitVec 5)
  /-- MRED Read and check a chain block and send a module reduce chain. (R200) -/
  | mred (a : BitVec 5)
  /-- MFILL Read and check a chain block and send a module fill chain. (R200) -/
  | mfill (a : BitVec 5)
  -- Lane instructions (R258 to R261); the word is R233, R243.
  /-- MOV Lane move of the 32 bits of A. (R296) -/
  | mov (w : LaneWord)
  /-- IADD Lane integer add, wrapping or saturating. (R296) -/
  | iadd (w : LaneWord)
  /-- ISUB Lane integer subtract, wrapping or saturating. (R296) -/
  | isub (w : LaneWord)
  /-- IADC Lane add with carry from a condition register. (R296) -/
  | iadc (w : LaneWord)
  /-- ISBB Lane subtract with borrow from a condition register. (R296) -/
  | isbb (w : LaneWord)
  /-- IMUL Lane low-half integer multiply. (R296) -/
  | imul (w : LaneWord)
  /-- IMULH Lane high 32 bits of the product. (R296) -/
  | imulh (w : LaneWord)
  /-- IMAD Lane low 32 bits of A times B plus C. (R296) -/
  | imad (w : LaneWord)
  /-- IMIN Lane integer minimum. (R296) -/
  | imin (w : LaneWord)
  /-- IMAX Lane integer maximum. (R296) -/
  | imax (w : LaneWord)
  /-- IABS Lane integer absolute value. (R296) -/
  | iabs (w : LaneWord)
  /-- INEG Lane integer negation. (R296) -/
  | ineg (w : LaneWord)
  /-- AND_LANE Lane bitwise AND. (R296) -/
  | andLane (w : LaneWord)
  /-- OR_LANE Lane bitwise OR. (R296) -/
  | orLane (w : LaneWord)
  /-- XOR_LANE Lane bitwise XOR. (R296) -/
  | xorLane (w : LaneWord)
  /-- ANDN_LANE Lane A AND NOT B. (R296) -/
  | andnLane (w : LaneWord)
  /-- NOT Lane bitwise NOT. (R296) -/
  | not (w : LaneWord)
  /-- SHL Lane left shift. (R296) -/
  | shl (w : LaneWord)
  /-- SHR Lane logical right shift. (R296) -/
  | shr (w : LaneWord)
  /-- SAR Lane arithmetic right shift. (R296) -/
  | sar (w : LaneWord)
  /-- ROTL Lane rotate left. (R296) -/
  | rotl (w : LaneWord)
  /-- CLZ_LANE Lane count of leading zeros. (R296) -/
  | clzLane (w : LaneWord)
  /-- POPC_LANE Lane count of one bits. (R296) -/
  | popcLane (w : LaneWord)
  /-- BREV Lane bit reversal. (R296) -/
  | brev (w : LaneWord)
  /-- BFX Lane bit-field extract. (R296) -/
  | bfx (w : LaneWord)
  /-- BFI Lane bit-field insert. (R296) -/
  | bfi (w : LaneWord)
  /-- PERM Lane byte permute of B:A. (R296) -/
  | perm (w : LaneWord)
  /-- ICMP Lane integer compare writing condition codes. (R293) -/
  | icmp (w : LaneWord)
  /-- SEL Lane select of A or B on a condition. (R296) -/
  | sel (w : LaneWord)
  /-- IDOT4 Lane four-element 8-bit dot product plus C. (R296) -/
  | idot4 (w : LaneWord)
  /-- IDIV Lane long-class integer division. (R297) -/
  | idiv (w : LaneWord)
  /-- IREM Lane long-class integer remainder. (R297) -/
  | irem (w : LaneWord)
  /-- FADD Lane floating or q32 addition. (R298) -/
  | fadd (w : LaneWord)
  /-- FSUB Lane floating or q32 subtraction. (R298) -/
  | fsub (w : LaneWord)
  /-- FMUL Lane floating or q32 multiplication. (R298) -/
  | fmul (w : LaneWord)
  /-- FFMA Lane fused multiply-add rounded once. (R298) -/
  | ffma (w : LaneWord)
  /-- FMIN Lane floating minimum. (R299) -/
  | fmin (w : LaneWord)
  /-- FMAX Lane floating maximum. (R299) -/
  | fmax (w : LaneWord)
  /-- FABS Lane sign-bit clear. (R301) -/
  | fabs (w : LaneWord)
  /-- FNEG Lane sign-bit flip. (R301) -/
  | fneg (w : LaneWord)
  /-- FCMP Lane floating or q32 compare into condition codes. (R301) -/
  | fcmp (w : LaneWord)
  /-- FDIV Lane long-class correctly rounded division. (R298) -/
  | fdiv (w : LaneWord)
  /-- FDOT2 Lane two-element 16-bit dot product into f32. (R300) -/
  | fdot2 (w : LaneWord)
  /-- FDOT4 Lane four-element narrow dot product into f32. (R300) -/
  | fdot4 (w : LaneWord)
  /-- FRND Lane round to integral value. (R301) -/
  | frnd (w : LaneWord)
  /-- FSGN Lane copy of B's sign onto A. (R301) -/
  | fsgn (w : LaneWord)
  /-- FSAT Lane clamp to +0 through 1.0. (R301) -/
  | fsat (w : LaneWord)
  /-- FCLASS Lane f32 classification bits. (R301) -/
  | fclass (w : LaneWord)
  /-- QNUM Lane numerator of a q32 value. (R304) -/
  | qnum (w : LaneWord)
  /-- QDEN Lane denominator of a q32 value. (R304) -/
  | qden (w : LaneWord)
  /-- QMAKE Lane q32 fraction A over B. (R305) -/
  | qmake (w : LaneWord)
  /-- QLIM Lane rounding of a q32 value to a denominator limit. (R306) -/
  | qlim (w : LaneWord)
  /-- QMED Lane mediant of two q32 values. (R307) -/
  | qmed (w : LaneWord)
  /-- CVT Lane format conversion with packing and options. (R308) -/
  | cvt (w : LaneWord)
  /-- CVTSR Lane stochastic-rounding conversion. (R309) -/
  | cvtsr (w : LaneWord)
  /-- MXSCL Lane choice of a warp block's MX scale. (R310) -/
  | mxscl (w : LaneWord)
  /-- MXQ Lane quantisation of f32 by an MX scale. (R311) -/
  | mxq (w : LaneWord)
  /-- MXDQ Lane dequantisation of an MX element to f32. (R312) -/
  | mxdq (w : LaneWord)
  /-- EXP2 Lane base-2 exponential. (R313) -/
  | exp2 (w : LaneWord)
  /-- LOG2 Lane base-2 logarithm. (R313) -/
  | log2 (w : LaneWord)
  /-- RCP Lane reciprocal. (R313) -/
  | rcp (w : LaneWord)
  /-- RSQ Lane reciprocal square root. (R313) -/
  | rsq (w : LaneWord)
  /-- SQRT Lane square root. (R313) -/
  | sqrt (w : LaneWord)
  /-- SINPI Lane sine of pi times A. (R313) -/
  | sinpi (w : LaneWord)
  /-- COSPI Lane cosine of pi times A. (R313) -/
  | cospi (w : LaneWord)
  /-- TANH Lane hyperbolic tangent. (R313) -/
  | tanh (w : LaneWord)
  /-- SHFL Lane shuffle within a warp. (R315) -/
  | shfl (w : LaneWord)
  /-- VOTE Team vote ANY, ALL or COUNT. (R316) -/
  | vote (w : LaneWord)
  /-- REDW Warp reduction. (R317) -/
  | redw (w : LaneWord)
  /-- REDT Team reduction. (R317) -/
  | redt (w : LaneWord)
  /-- SCANW Warp scan, inclusive or exclusive. (R318) -/
  | scanw (w : LaneWord)
  /-- SCANT Team scan, inclusive or exclusive. (R318) -/
  | scant (w : LaneWord)
  /-- KSET Lane write of a predicate bit into a mask. (R320) -/
  | kset (w : LaneWord)
  /-- KGET Lane read of its bit in a mask. (R320) -/
  | kget (w : LaneWord)
  /-- RNG Lane Philox4x32-10 random words. (R321) -/
  | rng (w : LaneWord)
  /-- LDS Lane load from the unit scratchpad. (R324) -/
  | lds (w : LaneWord)
  /-- STS Lane store to the unit scratchpad. (R324) -/
  | sts (w : LaneWord)
  /-- ATOMS Lane 32-bit atomic on the unit scratchpad. (R324) -/
  | atoms (w : LaneWord)
  /-- LDG Lane load through the gang path. (R326) -/
  | ldg (w : LaneWord)
  /-- STG Lane store through the gang path. (R326) -/
  | stg (w : LaneWord)
  /-- ATOMG Lane atomic through the gang path. (R326) -/
  | atomg (w : LaneWord)
  -- Firmware dispatch extension (R262).
  /-- RFETCH Firmware atomic fetch of the next ring entry. (R436) -/
  | rfetch (d s : BitVec 5)
  /-- FW_BFX Firmware bit-field extract. (R436) -/
  | fwBfx (d s t : BitVec 5)
  /-- SWAIT Firmware wait on a signal condition, parking the hart. (R436) -/
  | swait (d s t : BitVec 5)
  /-- DISP Firmware injection of a bundle into a slot. (R436) -/
  | disp (s t : BitVec 5)
  /-- QMAP Firmware map of a queue control block onto a slot. (R436) -/
  | qmap (s t : BitVec 5)
  /-- QUNMAP Firmware unmap of a slot, saving its state to the QCB. (R436) -/
  | qunmap (d s : BitVec 5)
  -- Steps that a register write or a turn leads to (95_what_each_step_holds.md).
  /-- TRAP_ENTRY A pending trap is taken at the team's instruction boundary and the handler entered. (R392) -/
  | trapEntry (a : Agent)
  /-- AGEING_CAP_DEMOTE After 4,096 consecutive cycles a team is demoted or swapped with the oldest waiting team. (R379) -/
  | ageingCapDemote (core slot : Nat)
  /-- INVALIDATE_JOB XINVC SCOPE 1 invalidates every TLB entry of a job. (R20) -/
  | invalidateJob (die : Nat) (job : BitVec 6) (size : BitVec 2)
  /-- INVALIDATE_ADDRESS XINVC SCOPE 2 invalidates a job's entries covering XINVA. (R20) -/
  | invalidateAddress (die : Nat) (job : BitVec 6) (size : BitVec 2)
  /-- INVALIDATE_ALL XINVC SCOPE 3 invalidates every entry of every job. (R20) -/
  | invalidateAll (die : Nat) (job : BitVec 6) (size : BitVec 2)
  /-- REPLAY An XRPL write re-walks every parked request of a job. (R28) -/
  | replay (die : Nat) (job : BitVec 6)
  /-- FAULT_BUFFER_CONSUME Advancing XFBC consumes records and frees held walkers. (R27) -/
  | faultBufferConsume (die : Nat) (w : BitVec 11)
  /-- EXTCOMMIT A write to EXTCOMMIT publishes the staged extent and route tables. (R36) -/
  | extcommit 
  /-- CODE_INVALIDATE A write of CINV empties every code cache of the package. (R47) -/
  | codeInvalidate 
  /-- TUNE LCTL CMD 1 tunes a DOWN link to a module. (R187) -/
  | tune (link : Nat) (module : BitVec 8)
  /-- LCTL_RETRAIN LCTL CMD 2 starts a full retrain. (R185) -/
  | lctlRetrain (link : Nat) (module : BitVec 8)
  /-- TAKE_DOWN LCTL CMD 3 takes a link down. (R187) -/
  | takeDown (link : Nat) (module : BitVec 8)
  /-- LTEST_WRITE A write of LTEST arms or disarms lane-failure injection. (R186) -/
  | ltestWrite (link : Nat) (w : Word64)
  /-- PCMD_REQUEST PCMD CMD 1 requests pre-emption of a unit. (R408) -/
  | pcmdRequest (core : Nat) (slot : BitVec 5)
  /-- PCMD_FORCE PCMD CMD 2 forces an instruction-level save of a unit. (R408) -/
  | pcmdForce (core : Nat) (slot : BitVec 5)
  /-- PCMD_RESUME PCMD CMD 3 resumes a saved unit on a core. (R463) -/
  | pcmdResume (core : Nat) (slot : BitVec 5)
  /-- QKICK_WRITE A doorbell write kicks a mapped or unmapped queue. (R427) -/
  | qkickWrite (q : Nat) (w : Word32)
  /-- SIGNAL_UPDATE A signal update walks the waiters and wakes those whose condition holds. (R430) -/
  | signalUpdate (sig : Nat) (op : SignalOp) (value : Word64)
  /-- CASTLING_START CCMD CMD 1 starts castling of a role. (R440) -/
  | castlingStart (role : Nat)
  /-- HAND_OVER_WRITTEN CCMD CMD 2 freezes the outgoing image and starts verification. (R440) -/
  | handOverWritten (role : Nat)
  /-- HBEAT A heartbeat write during probation. (R440) -/
  | hbeat (role : Nat)
  /-- CAPTURE_OFF CAPCTL MODE 0 stops capture and replay. (R441) -/
  | captureOff 
  /-- CAPTURE CAPCTL MODE 1 starts recording decisions and tile digests. (R442) -/
  | capture 
  /-- REPLAY_MODE CAPCTL MODE 2 makes the device follow recorded decisions. (R442) -/
  | replayMode 
  /-- ANSWER An ANSWER write delivers a system-call result to its parked caller. (R453) -/
  | answer (ctag : Nat) (w : Word64)
  /-- CECNT_WRITE A write clears a core's corrected-error count. (R456) -/
  | cecntWrite (core : Nat)
  /-- REGISTER_WRITE A write to a device register that has no behaviour row of its own. (R7) -/
  | registerWrite (fw : Bool) (addr : Nat) (w : Word64)
  -- Steps of the part that no instruction word names (95_what_each_step_holds.md).
  /-- LONG_RESULT_ARRIVAL A pending long-class, gang or port result arrives and fills its register or queue entry. (R214) -/
  | longResultArrival (core slot id : Nat)
  /-- GANG_ACCESS_AT_TARGET A gang access is performed at the target member's bank or refused as armed. (R326) -/
  | gangAccessAtTarget (id : Nat)
  /-- GANG_BARRIER_ARRIVAL A gang arrival reaches member 0's barrier through the network and counts. (R340) -/
  | gangBarrierArrival (id : Nat)
  /-- TIMER The time base reaches TCMP and TIMER becomes pending. (R450) -/
  | timer (a : Agent)
  /-- CODE_CACHE_FILL A code-cache miss fill returns and is installed or traps. (R47) -/
  | codeCacheFill (id : Nat)
  /-- PAGE_TABLE_WALK A walker reads a page table entry and installs, faults or walks on. (R12) -/
  | pageTableWalk (id : Nat)
  /-- REQUEST_TRANSLATE An engine request is translated and checked through TLB, permissions and extent lookup. (R18) -/
  | requestTranslate (id : Nat)
  /-- INVALIDATION_DONE BUSY of XINVC clears once its three conditions hold. (R21) -/
  | invalidationDone (die : Nat)
  /-- EXTCOMMIT_DONE EXTCOMMIT BUSY clears after every die switches to the new tables. (R36) -/
  | extcommitDone 
  /-- LANDING Landed bytes are performed in scratchpad, or diverted or forwarded, and counted. (R64) -/
  | landing (id : Nat)
  /-- FPOST_ARM A blocked FPOST takes its peg and entry and arms a slot once its waits end. (R61) -/
  | fpostArm (core slot : Nat)
  /-- WRITE_ACK_RECEIVE A write acknowledgement arrives, counting bytes and completing commands under their tag. (R89) -/
  | writeAckReceive (id : Nat)
  /-- READ_REQUEST A module receives a read request and returns data or poison. (R190) -/
  | readRequest (id : Nat)
  /-- WRITE_PACKET A module receives a write packet and performs its bytes. (R386) -/
  | writePacket (id : Nat)
  /-- ATOMIC_REQUEST A module performs a RATM atomic in arrival order. (R337) -/
  | atomicRequest (id : Nat)
  /-- CHAIN_HOP A module performs one hop of a reduce or fill chain and forwards it. (R201) -/
  | chainHop (id : Nat)
  /-- CHAIN_COMPLETION The issuing package receives a chain completion and completes the tag. (R201) -/
  | chainCompletion (id : Nat)
  /-- MODULE_REVOKE A module receives a revoke for a module extent. (R202) -/
  | moduleRevoke (module mext : Nat)
  /-- MODULE_FATAL_ERROR A module reports a fatal controller error. (R203) -/
  | moduleFatalError (module : Nat)
  /-- COPY_COMMAND_ISSUE The front end reads and issues one command of a copy list. (R366) -/
  | copyCommandIssue (id : Nat)
  /-- PACKET_SEND A packet is sent as consecutive DATA flits on its link. (R190) -/
  | packetSend (link : Nat) (dir : LinkDir) (id : Nat)
  /-- DATA_FLIT_RECEIVE A receiver accepts or drops a DATA flit, sending a NAK on loss. (R191) -/
  | dataFlitReceive (link : Nat) (dir : LinkDir) (noise : BitVec 2048)
  /-- IDLE_FLIT_RECEIVE An IDLE flit delivers acknowledgement and credits. (R192) -/
  | idleFlitReceive (link : Nat) (dir : LinkDir) (noise : BitVec 2048)
  /-- NAK_RECEIVE A NAK arrives and the sender replays from the named flit. (R193) -/
  | nakReceive (link : Nat) (dir : LinkDir) (noise : BitVec 2048)
  /-- NAK_TIMEOUT 2 µs without the replayed flit makes the receiver NAK again. (R191) -/
  | nakTimeout (link : Nat) (dir : LinkDir)
  /-- TELEMETRY_SEND After 4,096 DATA flits an end sends a TELEMETRY flit. (R196) -/
  | telemetrySend (link : Nat) (dir : LinkDir) (readings : List Word64)
  /-- TELEMETRY_RECEIVE A TELEMETRY flit reports far-end margins to the transmitter. (R196) -/
  | telemetryReceive (link : Nat) (dir : LinkDir) (noise : BitVec 2048)
  /-- AUDIT_SEND After 1,024 DATA flits received the receiver sends an AUDIT flit. (R197) -/
  | auditSend (link : Nat) (dir : LinkDir)
  /-- AUDIT_RECEIVE The sender recomputes credits from an AUDIT flit and corrects them. (R197) -/
  | auditReceive (link : Nat) (dir : LinkDir) (noise : BitVec 2048)
  /-- MAP_FLIT_RECEIVE A MAP flit switches the lane map from a named SEQ. (R194) -/
  | mapFlitReceive (link : Nat) (dir : LinkDir) (noise : BitVec 2048)
  /-- WAVELENGTH_LOSS Loss of light or lock on an active lane starts a retrain to a narrower set. (R194) -/
  | wavelengthLoss (link lane : Nat)
  /-- INACTIVE_LANE_LOSS Loss on a healthy inactive lane clears its HEALTHY bit and writes LOSS. (R194) -/
  | inactiveLaneLoss (link lane : Nat)
  /-- SPARE_IN A spare finishes background training and takes a lost or ageing lane's position. (R194) -/
  | spareIn (link lane : Nat)
  /-- FULL_RETRAIN A full retrain of every lane starts on its trigger. (R194) -/
  | fullRetrain (link : Nat)
  /-- RETRAIN_COMPLETE A retrain ends with a new active set and replay, or the link goes DOWN. (R194) -/
  | retrainComplete (link : Nat) (healthy : BitVec 18)
  /-- TUNE_COMPLETE A tune ends, setting ACTIVE and EPOCH or leaving the link DOWN. (R187) -/
  | tuneComplete (link : Nat) (healthy : BitVec 18)
  /-- LINK_WIDTH_HALVE A send queue under 64 flits for 10 µs halves a gated link's width. (R458) -/
  | linkWidthHalve (link : Nat)
  /-- LINK_WIDTH_DOUBLE A send queue at 256 flits or more doubles a gated link's width. (R458) -/
  | linkWidthDouble (link : Nat)
  /-- WIDENING_LIT Newly lit lanes join by a MAP flit after lighting. (R458) -/
  | wideningLit (link : Nat)
  /-- ZERO_FILL_DONE A new unit's allocation finishes zero fill and its teams may issue. (R78) -/
  | zeroFillDone (unit : Nat)
  /-- BANK_ZEROED A ZEROING bank becomes HELD after 256 cycles and MX ALLOC returns. (R84) -/
  | bankZeroed (cluster bank : Nat)
  /-- MX_MUL_LINE A K line with its operands enters the matrix array. (R358) -/
  | mxMulLine (cluster : Nat)
  /-- MX_MUL_RETIRE A MUL's tile is updated and the MUL retires. (R363) -/
  | mxMulRetire (cluster : Nat)
  /-- MX_ZERO_EXECUTE The matrix unit zeroes a tile and retires the ZERO. (R359) -/
  | mxZeroExecute (cluster : Nat)
  /-- MX_DRAIN_PUSH The matrix unit pushes tile elements into p2 as room allows. (R360) -/
  | mxDrainPush (cluster n : Nat)
  /-- MX_STORE_EXECUTE The matrix unit narrows and writes a tile and arrives at its barrier. (R361) -/
  | mxStoreExecute (cluster : Nat)
  /-- MATRIX_PROGRAM_RESIDENT A waiting matrix program becomes resident when a slot and identifiers free. (R345) -/
  | matrixProgramResident (id : Nat)
  /-- BUNDLE_TAKE The front end takes a bundle from its slot and checks its records. (R368) -/
  | bundleTake (slot : Nat)
  /-- SLOT_TICK Each microsecond tick re-aligns core clocks and starts waiting time-triggered work. (R372) -/
  | slotTick (skews : List (Nat × Int))
  /-- BUNDLE_COMPLETE A completed bundle writes its record, signal update and completion queue entry. (R368) -/
  | bundleComplete (launch : Nat)
  /-- UNIT_DISPATCH A die dispatcher places a unit into a core's unit queue. (R373) -/
  | unitDispatch (die : Nat)
  /-- GANG_PLACE A die dispatcher places a whole gang on one cluster. (R374) -/
  | gangPlace (die : Nat)
  /-- UNIT_RESIDENT A core makes its head unit resident, assigning ORD index when needed. (R373) -/
  | unitResident (core : Nat)
  /-- STEAL A dry core sends a steal request to a victim's queue engine. (R375) -/
  | steal (core : Nat)
  /-- STEAL_REPLY A victim's queue engine gives its tail unit or refuses. (R375) -/
  | stealReply (core : Nat)
  /-- STEAL_RETRY 64 cycles after a refusal the dry core steals again. (R375) -/
  | stealRetry (core : Nat)
  /-- PREEMPT_DEADLINE PDEADLINE cycles elapse and remaining teams take the instruction-level save. (R408) -/
  | preemptDeadline (unit : Nat)
  /-- DARNING_COPY_DONE The image copy to the shadow ends and the entry enters DIVERT. (R415) -/
  | darningCopyDone (die entry : Nat)
  /-- RESUME_LOAD_DONE A resume finishes loading and applies the event records. (R417) -/
  | resumeLoadDone (die entry : Nat)
  /-- CPRI_AGEING Every 250 µs a slot's current priority ages or its AGE resets. (R429) -/
  | cpriAgeing (slot : Nat)
  /-- CQ_COALESCE_TIMEOUT TMO µs after the oldest unannounced entry the completion MSI is written. (R433) -/
  | cqCoalesceTimeout (cq : Nat)
  /-- CASTLING_VERIFY_DONE Verification ends by starting the new image or resuming the old. (R440) -/
  | castlingVerifyDone (role : Nat)
  /-- PROBATION_TIMEOUT 1 ms without a heartbeat reverts castling. (R440) -/
  | probationTimeout (role : Nat)
  /-- PROBATION_END 500 ms from probation start the role returns to IDLE. (R440) -/
  | probationEnd (role : Nat)
  /-- IRQ_MESSAGE_MOVE The oldest interrupt message moves into the ring and its MSI is sent. (R448) -/
  | irqMessageMove 
  /-- GOVERNOR_SETTLE Every 20 µs the power governor sets laser power and die clocks. (R457) -/
  | governorSettle 
  /-- PCIE_INBOUND_WRITE An inbound endpoint write passes the IOMMU to its target. (R447) -/
  | pcieInboundWrite (port addr : Nat) (bytes : List Byte) (poison : Bool)
  /-- PCIE_INBOUND_READ An inbound endpoint read passes the IOMMU and completes. (R447) -/
  | pcieInboundRead (port addr len : Nat)
  /-- PACKAGE_RESET Reset starts bring-up through self-test, boot, links and control cores. (R459) -/
  | packageReset 
  /-- READ_RESPONSE A read response arrives at the package for a TID BINDF descriptor, a bundle header or record, or a copy list. It completes that read: the bind's checks and snapshot, or the front end's record checks. (R344) -/
  | readResponse (id : Nat)
  /-- IOERR A root port detects a PCI Express error (AER or DPC), for example a failed control-core access completion. It records the error and writes an IOERR record to the package error ring. (R454) -/
  | ioerr (port : Nat) (info : Word64)
  deriving DecidableEq, Repr

end Sys2Proof
end

