-- ==== Sys2Proof/Machine/Checks.lean ====
section
/-! DEFINITION. The field checks of scalar words (R231, R255, R265) and of lane words (R245, R258 to R261). -/

namespace Sys2Proof.Machine

/-- A cause for which a word is refused: its code (R245, R265) and the parcel it concerns
(0 scalar word, 1 the parcel before L0, 2 L0, 3 L1, 4 L2). -/
structure Bad where
  code : Nat
  parcel : Nat
  deriving DecidableEq, Repr

/-- Keep a cause when its test holds. -/
def Bad.when (b : Bool) (code parcel : Nat) : List Bad := if b then [⟨code, parcel⟩] else []

/-- The cause that is reported: the lowest code (R245), and of one code the lowest parcel (DEDUCED, log 8). -/
def Bad.lowest : List Bad → Option Bad
  | [] => none
  | b :: bs =>
    match Bad.lowest bs with
    | none => some b
    | some c => if c.code * 8 + c.parcel < b.code * 8 + b.parcel then some c else some b

/-! ### Scalar words -/

/-- Scope codes 5 to 7 are reserved (R52). -/
def scopeBad (s : BitVec 3) : List Bad := Bad.when (4 < s.toNat) 0x17 0

/-- The control registers of a team (R224). -/
def csrTeamKnown (n : Nat) : Bool := n ≤ 0x10 || (0x40 ≤ n && n ≤ 0x5F)
/-- The read-only control registers of a team (R224). -/
def csrTeamReadOnly (n : Nat) : Bool :=
  n == 0 || n == 9 || n == 0xA || n == 0xD || (0x40 ≤ n && n ≤ 0x5F)
/-- The control registers of a matrix program (R347). -/
def csrProgKnown (n : Nat) : Bool := [0, 4, 5, 6, 8, 0xD, 0xE, 0x20].contains n
/-- The read-only control registers of a matrix program (R347). -/
def csrProgReadOnly (n : Nat) : Bool := [0, 0xD, 0x20].contains n

/-- An undefined number, or a write to a read-only register, reports OPCODE (R224, R255, R280, R347). -/
def csrBad (mcc wr : Bool) (n : BitVec 14) : List Bad :=
  if mcc then Bad.when (!csrProgKnown n.toNat || (wr && csrProgReadOnly n.toNat)) 0x10 0
  else Bad.when (!csrTeamKnown n.toNat || (wr && csrTeamReadOnly n.toNat)) 0x10 0

/-- Atomic operation codes: 0xA CAS, 0xB FADD, 0xC LD, 0xD ST, 0xE and 0xF reserved (R256). -/
def atomReserved (o : BitVec 4) : Bool := 0xE ≤ o.toNat

/-- Field values that make a scalar word ILLEGAL although its fields are in their places
(R52, R149, R220, R255, R256, R275 to R279, R288, R290). `mcc` is the matrix control core. -/
def scalarBad (mcc : Bool) : Instr → List Bad
  | .kand d _ _ | .kor d _ _ | .kxor d _ _ | .kandn d _ _ => Bad.when (d == 0) 0x12 0
  | .knot d _ | .kmov d _ => Bad.when (d == 0) 0x12 0
  | .kall d | .kclr d => Bad.when (d == 0) 0x12 0
  | .kwrw _ _ k => Bad.when (k == 0) 0x12 0
  | .gld _ _ s _ => Bad.when (s == 7) 0x17 0
  | .gst _ _ s _ => Bad.when (s.toNat % 2 == 1) 0x17 0
  | .gatm _ _ b c r o =>
    Bad.when (atomReserved o || o == 0xB) 0x10 0 ++
    Bad.when ((c != 0 && o != 0xA) || (b != 0 && o == 0xC)) 0x11 0 ++
    Bad.when ((o == 0xC && 2 ≤ r.toNat) || (o == 0xD && r.toNat % 2 == 1)) 0x17 0
  | .ratm _ _ b c _ z o =>
    Bad.when (atomReserved o || (o == 0xB && z == 1)) 0x10 0 ++
    Bad.when ((c != 0 && o != 0xA) || (b != 0 && o == 0xC)) 0x11 0
  | .fpost _ _ _ s _ => scopeBad s
  | .wpost _ _ s _ => scopeBad s
  | .cpy _ _ _ s _ _ => scopeBad s
  | .fence _ s => scopeBad s
  | .csrRd _ n => csrBad mcc false n
  | .csrWr _ _ n | .csrSet _ _ n | .csrClr _ _ n => csrBad mcc true n
  | .yield l _ => Bad.when (!mcc && 64 < l.toNat) 0x11 0
  | .lvlRd _ l | .lvlCancel _ l => Bad.when (4 < l.toNat || (mcc && l == 0)) 0x10 0
  | _ => []

/-! ### Lane words -/

/-- Latency class of a lane opcode (R210, R259). -/
inductive LaneClass where
  | pipelined
  | scratchpad
  | long
  deriving DecidableEq, Repr

/-- Where a lane opcode may deliver its value (R259). -/
inductive DestKind where
  | value   -- a lane destination
  | noDest  -- dst is 0xFF
  | team    -- a lane destination or a g register
  deriving DecidableEq, Repr

/-- One row of the index R259. `qLong` marks "P; L for q32". -/
structure LaneRow where
  fmts : List Nat
  subs : List Nat
  reads : Nat
  cls : LaneClass
  qLong : Bool
  rnd : Bool
  dest : DestKind
  deriving DecidableEq, Repr

def fmtAll : List Nat := List.range 15
def fmtMx : List Nat := [6, 8, 9, 0xA, 0xB, 0xC]

/-- A row without q32 form, without rounding field, delivering to lanes. -/
def LaneRow.plain (fmts subs : List Nat) (reads : Nat) (cls : LaneClass) : LaneRow :=
  ⟨fmts, subs, reads, cls, false, false, .value⟩

/-- The index R259; none marks a reserved opcode (R258). -/
def laneRow : Nat → Option LaneRow
  | 0x00 => some (.plain fmtAll [0] 1 .pipelined)
  | 0x01 | 0x02 => some (.plain [0, 1, 5, 6, 7] [0, 1] 2 .pipelined)
  | 0x03 | 0x04 => some (.plain [0, 1] [0] 3 .pipelined)
  | 0x05 => some (.plain [0, 1, 5] [0] 2 .pipelined)
  | 0x06 => some (.plain [0, 1] [0] 2 .pipelined)
  | 0x07 => some (.plain [0, 1] [0] 3 .pipelined)
  | 0x08 | 0x09 => some (.plain [0, 1, 5, 6, 7] [0] 2 .pipelined)
  | 0x0A | 0x0B => some (.plain [0, 5, 6] [0, 1] 1 .pipelined)
  | 0x0C | 0x0D | 0x0E | 0x0F => some (.plain [0xD] [0] 2 .pipelined)
  | 0x10 => some (.plain [0xD] [0] 1 .pipelined)
  | 0x11 | 0x12 | 0x14 => some (.plain [0xD] [0] 2 .pipelined)
  | 0x13 => some (.plain [0] [0] 2 .pipelined)
  | 0x15 | 0x16 | 0x17 => some (.plain [0xD] [0] 1 .pipelined)
  | 0x18 => some (.plain [0, 1] [0] 2 .pipelined)
  | 0x19 | 0x1A => some (.plain [0xD] [0] 3 .pipelined)
  | 0x1B => some ⟨[0, 1], [0], 2, .pipelined, false, false, .noDest⟩
  | 0x1C => some (.plain fmtAll (List.range 16) 3 .pipelined)
  | 0x1D => some (.plain [6, 7] [0] 3 .pipelined)
  | 0x1E | 0x1F => some (.plain [0, 1] [0] 2 .long)
  | 0x20 | 0x21 | 0x22 => some ⟨[2, 3, 4, 0xE], [0], 2, .pipelined, true, true, .value⟩
  | 0x23 => some ⟨[2, 3, 4, 0xE], [0], 3, .pipelined, true, true, .value⟩
  | 0x24 | 0x25 => some ⟨[2, 3, 4, 0xE], [0], 2, .pipelined, true, false, .value⟩
  | 0x26 | 0x27 => some ⟨[2, 3, 4, 0xE], [0], 1, .pipelined, true, false, .value⟩
  | 0x28 => some ⟨[2, 0xE], [0], 2, .pipelined, true, false, .noDest⟩
  | 0x29 => some ⟨[2, 0xE], [0], 2, .long, true, true, .value⟩
  | 0x2A => some ⟨[3, 4], [0], 3, .pipelined, false, true, .value⟩
  | 0x2B => some ⟨[8, 9, 0xA, 0xB], [0], 3, .pipelined, false, true, .value⟩
  | 0x2C => some ⟨[2, 3, 4], [0], 1, .pipelined, false, true, .value⟩
  | 0x2D => some (.plain [2, 3, 4] [0] 2 .pipelined)
  | 0x2E => some (.plain [2, 3, 4] [0] 1 .pipelined)
  | 0x2F => some (.plain [2] [0] 1 .pipelined)
  | 0x30 | 0x31 => some (.plain [0xE] [0] 1 .long)
  | 0x32 | 0x33 | 0x34 => some ⟨[0xE], [0], 2, .long, true, true, .value⟩
  | 0x40 => some ⟨[0, 1, 2, 3, 4, 5, 6, 7, 8, 9, 0xA, 0xB, 0xC, 0xE],
      [0, 1, 2, 3, 4, 5, 6, 7, 8, 9, 0xA, 0xB, 0xC, 0xE], 1, .pipelined, true, true, .value⟩
  | 0x41 => some (.plain [3, 4, 8, 9, 0xA, 0xB] [2, 3, 4] 3 .pipelined)
  | 0x42 => some (.plain fmtMx [0] 1 .pipelined)
  | 0x43 | 0x44 => some (.plain fmtMx [0] 2 .pipelined)
  | 0x50 | 0x51 | 0x52 | 0x53 | 0x54 | 0x55 | 0x56 | 0x57 => some (.plain [2] [0] 1 .long)
  | 0x60 => some (.plain fmtAll [0, 1, 2, 3] 2 .pipelined)
  | 0x61 => some ⟨[0xD], [0, 1, 2], 1, .long, false, false, .team⟩
  | 0x62 | 0x64 => some ⟨[0, 1, 2, 0xD, 0xE], List.range 12, 1, .pipelined, true, true, .value⟩
  | 0x63 => some ⟨[0, 1, 2, 0xD, 0xE], List.range 12, 1, .long, true, true, .team⟩
  | 0x65 => some ⟨[0, 1, 2, 0xD, 0xE], List.range 12, 1, .long, true, true, .value⟩
  | 0x66 => some ⟨[0xD], List.range 8, 1, .pipelined, false, false, .noDest⟩
  | 0x67 => some (.plain [0xD] (List.range 8) 0 .pipelined)
  | 0x70 => some (.plain [1] [0] 3 .pipelined)
  | 0x80 => some (.plain [0xD] [0, 1, 2, 3, 4, 8, 9] 1 .scratchpad)
  | 0x81 => some ⟨[0xD], [0, 1, 2, 3, 4], 2, .scratchpad, false, false, .noDest⟩
  | 0x82 => some (.plain [0xD] (List.range 14) 2 .scratchpad)
  | 0x83 => some (.plain [0xD] [0, 1, 2, 3, 4, 8, 9] 1 .long)
  | 0x84 => some ⟨[0xD], [0, 1, 2, 3, 4], 2, .long, false, false, .noDest⟩
  | 0x85 => some (.plain [0xD] (List.range 14) 2 .long)
  | _ => none

/-- Elements per 32-bit word of a lane format (R118). -/
def fmtElems : Nat → Nat
  | 3 | 4 | 5 => 2
  | 6 | 7 | 8 | 9 | 0xA | 0xB => 4
  | 0xC => 8
  | _ => 1

/-- Source words a CVT reads from format `sub` to format `fmt` (R260). -/
def cvtReads (fmt sub : Nat) : Nat :=
  if fmtElems sub < fmtElems fmt then fmtElems fmt / fmtElems sub else 1

def isMemOp (op : Nat) : Bool := 0x80 ≤ op && op ≤ 0x85
def isReduceOp (op : Nat) : Bool := 0x62 ≤ op && op ≤ 0x65

/-- A q32 operation: fmt q32, or an f32 float operation 0x20 to 0x29 with TMODE.QM = 1 (R126, R259, R298). -/
def isQ32 (qm : Bool) (op fmt : Nat) : Bool :=
  fmt == 0xE || (fmt == 2 && qm && 0x20 ≤ op && op ≤ 0x29)

/-- Sources the word reads, from A on (R234, R259, R322). -/
def laneReads (op fmt sub : Nat) : Nat :=
  match laneRow op with
  | none => 0
  | some r =>
    if op == 0x40 then min (cvtReads fmt sub) 4
    else if op == 0x82 || op == 0x85 then (if sub == 0xC then 1 else if sub == 0xA then 3 else 2)
    else r.reads

/-- Latency class of the word under the captured QM (R210, R236, R259, R308).
The mere word is judged here; `src` are the codes it reads. -/
def laneClass (qm : Bool) (op fmt sub : Nat) (src : List Nat) : LaneClass :=
  match laneRow op with
  | none => .pipelined
  | some r =>
    if src.any (fun c => 0x80 ≤ c && c ≤ 0x8F) then .long
    else if r.qLong && op != 0 && op != 0x60 && (isQ32 qm op fmt || (op == 0x40 && sub == 0xE)) then .long
    else r.cls

/-- The format each reduction operation takes (R260). -/
def reduceFmts : Nat → List Nat
  | 0 => [0, 1]
  | 1 | 2 => [0]
  | 3 | 4 => [1]
  | 5 | 6 | 7 => [0xD]
  | 8 | 9 | 0xA => [2]
  | 0xB => [0xE]
  | _ => []

def codeIsV (c : Nat) : Bool := c < 0x40
def codeIsQ (c : Nat) : Bool := 0x40 ≤ c && c < 0x50
def codeIsG (c : Nat) : Bool := 0x50 ≤ c && c < 0x70
def codeIsPort (c : Nat) : Bool := 0x80 ≤ c && c < 0x90
def codeIsCc (c : Nat) : Bool := 0x90 ≤ c && c < 0x94

/-- A code that names something a lane may read (R235); 0xFE is the literal. -/
def sourceCodeOk (c : Nat) : Bool :=
  c ≤ 0x7A || (0x80 ≤ c && c < 0x88) || codeIsCc c || c == 0xFE

/-- The orders R149 accepts: loads, stores, atomics with LD and ST among them. -/
def orderOk (op sub order : Nat) : Bool :=
  if op == 0x80 || op == 0x83 || ((op == 0x82 || op == 0x85) && sub == 0xC) then [0, 1, 4].contains order
  else if op == 0x81 || op == 0x84 || ((op == 0x82 || op == 0x85) && sub == 0xD) then [0, 2, 4].contains order
  else order ≤ 4

/-- Fields of aux for opcodes 0x00 to 0x70 (R239). -/
def auxXsrc (aux : BitVec 32) : Nat := (aux.extractLsb' 30 2).toNat
def auxXmod (aux : BitVec 32) : Nat := (aux.extractLsb' 27 3).toNat
def auxXarg (aux : BitVec 32) : Nat := (aux.extractLsb' 21 6).toNat
def auxImm (aux : BitVec 32) : Nat := (aux.extractLsb' 0 21).toNat
/-- Fields of aux for memory instructions (R241). -/
def auxOrder (aux : BitVec 32) : Nat := (aux.extractLsb' 29 3).toNat
def auxScope (aux : BitVec 32) : Nat := (aux.extractLsb' 26 3).toNat
def auxDisp (aux : BitVec 32) : BitVec 32 := (aux.extractLsb' 0 24).signExtend 32

/-- Bytes of a memory access by its sub field (R260). -/
def memBytes (sub : Nat) : Nat := 2 ^ (sub % 8)

/-- The float and q32 source codes that TRUNC goes with, and the integer destinations (R260). -/
def cvtTruncOk (fmt sub : Nat) : Bool :=
  [2, 3, 4, 8, 9, 0xA, 0xB, 0xC, 0xE].contains sub && [0, 1, 5, 6, 7].contains fmt

/-- IMM values refused with FORMAT (R260, R311, R312). -/
def immBad (op fmt sub imm : Nat) : Bool :=
  if op == 0x40 then
    let esc := imm % 2 == 1
    let trunc := imm / 2 % 2 == 1
    let grp := imm / 4 % 8
    let groups := if fmtElems fmt ≤ fmtElems sub then fmtElems sub / fmtElems fmt else 1
    32 ≤ imm || (esc && sub != 0xC) || (trunc && !cvtTruncOk fmt sub) || groups ≤ grp
  else if op == 0x43 || op == 0x44 then fmtElems fmt ≤ imm
  else if op == 0x64 || op == 0x65 then 2 ≤ imm
  else false

/-- Whether the opcode has a use for IMM (R239, R260, R311). -/
def immUsed (op : Nat) : Bool := op == 0x40 || op == 0x43 || op == 0x44 || op == 0x64 || op == 0x65

/-- The literal selector as a source position, A = 0 (R233). -/
def litPos (w : LaneWord) : Option Nat := if w.litsel == 0 then none else some (w.litsel.toNat - 1)

/-- The source codes A, B, C and, with DEN, D. -/
def laneCodes (w : LaneWord) : List Nat :=
  [w.srcA.toNat, w.srcB.toNat, w.srcC.toNat] ++
  match w.pfx with
  | some p => if p.den == 1 then [p.dcode.toNat] else []
  | none => []

/-- The empty-action bit of source `i` (R216). -/
def laneEa (w : LaneWord) (i : Nat) : Bool :=
  if i == 3 then (match w.pfx with | some p => p.dea == 1 | none => false)
  else w.ea.getLsbD (2 - i)

/-- Checks of source `i` (R234 to R238): an unread field holds 0xFF and its ea bit 0. A fourth source that no prefix
supplies is a breach of L1, which operandBad reports (R260). A field that a refused pair or a refused DEN leaves
without a use is held to the codes of R235 and to R238 alone (log 8). -/
def sourceBad (op fmt sub : Nat) (w : LaneWord) (i : Nat) : List Bad :=
  let c := ((laneCodes w)[i]?).getD 0xFF
  let at_ := if i == 3 then 1 else 3
  let eaAt := if i == 3 then 1 else 2
  let pairPack := op == 0x40 && 4 < cvtReads fmt sub
  if pairPack || (i == 3 && laneReads op fmt sub < 4) then
    Bad.when (c != 0xFF && !sourceCodeOk c) 0x12 at_ ++
    Bad.when (c == 0xFE && litPos w != some i) 0x14 at_ ++
    Bad.when (laneEa w i && !(codeIsV c || codeIsQ c)) 0x12 eaAt
  else if i < laneReads op fmt sub then
    Bad.when (!sourceCodeOk c && (i != 3 || w.pfx.isSome)) 0x12 at_ ++
    Bad.when (c == 0xFE && litPos w != some i) 0x14 at_ ++
    Bad.when (laneEa w i && !(codeIsV c || codeIsQ c)) 0x12 eaAt
  else
    Bad.when (c != 0xFF) 0x12 at_ ++
    Bad.when (laneEa w i) 0x12 eaAt

/-- Whether the instruction writes several 32-bit values per lane (R213). -/
def manyValues (op sub : Nat) : Bool :=
  op == 0x70 || ((op == 0x80 || op == 0x83) && (sub == 3 || sub == 4))

/-- Checks of the destination code (R213, R235, R236, R259, R321, R323, R328). -/
def destBad (qm : Bool) (op fmt sub : Nat) (w : LaneWord) : Bool :=
  let d := w.dst.toNat
  let reads := (laneCodes w).take (laneReads op fmt sub)
  match laneRow op with
  | none => false
  | some r =>
    if r.dest == .noDest then d != 0xFF
    else if codeIsV d then
      (op == 0x70 && d % 4 != 0) || ((op == 0x80 || op == 0x83) && sub == 3 && d % 2 != 0) ||
      ((op == 0x80 || op == 0x83) && sub == 4 && d % 4 != 0)
    else if codeIsQ d then d != 0x40 || manyValues op sub
    else if codeIsG d then r.dest != .team
    else if codeIsPort d then
      0x88 ≤ d || laneClass qm op fmt sub reads == .long || reads.any codeIsPort ||
      (isMemOp op && !(op == 0x80 && sub == 2)) || op == 0x70
    else if d == 0xFF then op == 0x70
    else true

/-- Checks that concern ports, pairs and the condition-code source (R235, R236, R296, R323, R328). -/
def operandBad (op fmt sub : Nat) (w : LaneWord) : List Bad :=
  let reads := (laneCodes w).take (laneReads op fmt sub)
  let ports := reads.filter codeIsPort
  let b := w.srcB.toNat
  Bad.when (1 < ports.length) 0x12 3 ++
  Bad.when ((op == 3 || op == 4 || op == 0x1C) && !codeIsCc w.srcC.toNat) 0x12 3 ++
  Bad.when (isMemOp op && reads.any codeIsPort &&
    !((op == 0x81 || op == 0x84) && sub == 2 && !codeIsPort w.srcA.toNat)) 0x12 3 ++
  Bad.when ((op == 0x81 || op == 0x84) && sub == 3 &&
    !(b == 0x70 || codeIsG b || (codeIsV b && b % 2 == 0))) 0x12 3 ++
  Bad.when ((op == 0x81 || op == 0x84) && sub == 4 &&
    !(b == 0x70 || (codeIsV b && b % 4 == 0))) 0x12 3 ++
  Bad.when (op == 0x66 && sub % 8 == 0) 0x12 2 ++
  Bad.when (op == 0x40 && cvtReads fmt sub == 4 &&
    !(match w.pfx with | some p => p.den == 1 | none => false)) 0x12 3

/-- Checks of the parcel before L0 (R243, R244, R261). -/
def pfxBad (qm : Bool) (op fmt sub : Nat) (w : LaneWord) : List Bad :=
  match w.pfx, laneRow op with
  | some p, some r =>
    let q := isQ32 qm op fmt
    let rndTaken := r.rnd && (!isReduceOp op || sub == 8 || sub == 0xB)
    Bad.when (p.rnd == 7) 0x13 1 ++
    Bad.when (p.rnd != 0 && !rndTaken) 0x13 1 ++
    Bad.when ((p.rnd == 5 && q) || (p.rnd == 6 && !q)) 0x13 1 ++
    Bad.when (p.pol == 1 && w.dst == 0xFF) 0x13 1 ++
    Bad.when (p.den == 0 && (p.dea != 0 || p.dcode != 0)) 0x11 1 ++
    Bad.when (p.den == 1 && !(op == 0x40 && cvtReads fmt sub == 4)) 0x13 1
  | _, _ => []

/-- Checks of fmt, sub and ccd (R219, R256, R259, R260, R293). -/
def formatBad (op fmt sub : Nat) (w : LaneWord) : List Bad :=
  match laneRow op with
  | none => [⟨0x10, 2⟩]
  | some r =>
    let ccd := w.ccd.toNat
    let atom := op == 0x82 || op == 0x85
    Bad.when (!r.fmts.contains fmt) 0x17 2 ++
    Bad.when (atom && 0xE ≤ sub) 0x10 2 ++
    Bad.when (!atom && !r.subs.contains sub) 0x17 2 ++
    Bad.when (isReduceOp op && !(reduceFmts sub).contains fmt) 0x17 2 ++
    Bad.when (op == 0x41 && !((sub == 2 && (fmt == 3 || fmt == 4)) ||
      ((sub == 3 || sub == 4) && 8 ≤ fmt && fmt ≤ 0xB))) 0x17 2 ++
    Bad.when (op == 0x40 && 4 < cvtReads fmt sub) 0x17 2 ++
    Bad.when (1 ≤ ccd && ccd ≤ 3) 0x12 2 ++
    Bad.when (4 ≤ ccd && (0x34 < op || !([0, 1, 2, 0xD, 0xE].contains fmt))) 0x17 2 ++
    Bad.when (ccd == 0 && (op == 0x1B || op == 0x28)) 0x17 2

/-- Checks of the literal selector (R238, R323). -/
def literalBad (op fmt sub : Nat) (w : LaneWord) : List Bad :=
  match litPos w with
  | none => []
  | some i =>
    Bad.when (laneReads op fmt sub ≤ i || ((laneCodes w)[i]?).getD 0xFF != 0xFE) 0x14 2 ++
    Bad.when (isMemOp op) 0x12 2

/-- Checks of aux (R149, R236, R239 to R241, R260). -/
def auxBad (op fmt sub : Nat) (w : LaneWord) : List Bad :=
  if w.litsel != 0 then []
  else if isMemOp op then
    Bad.when (w.aux.extractLsb' 24 2 != 0) 0x11 4 ++
    Bad.when (4 < auxScope w.aux || !orderOk op sub (auxOrder w.aux)) 0x17 4
  else
    let xmod := auxXmod w.aux
    let xsrc := auxXsrc w.aux
    let xarg := auxXarg w.aux
    let code := ((laneCodes w)[xsrc]?).getD 0xFF
    Bad.when (xmod == 0 && (xsrc != 0 || xarg != 0)) 0x11 4 ++
    Bad.when (xmod != 0 && xsrc < laneReads op fmt sub && codeIsPort code) 0x12 4 ++
    Bad.when (xmod != 0 && (4 < xmod || xsrc == 3 || 31 < xarg || (xmod ≤ 2 && xarg == 0) ||
      laneReads op fmt sub ≤ xsrc || !(codeIsV code || codeIsQ code))) 0x15 4 ++
    Bad.when (!immUsed op && auxImm w.aux != 0) 0x11 4 ++
    Bad.when (immBad op fmt sub (auxImm w.aux)) 0x17 4

/-- Every cause for which VRUN refuses a lane word with opcode `op`, captured QM `qm` (R245). -/
def laneBad (qm : Bool) (op : Nat) (w : LaneWord) : List Bad :=
  let fmt := w.fmt.toNat
  let sub := w.sub.toNat
  match laneRow op with
  | none => [⟨0x10, 2⟩]
  | some _ =>
    formatBad op fmt sub w ++ operandBad op fmt sub w ++
    sourceBad op fmt sub w 0 ++ sourceBad op fmt sub w 1 ++ sourceBad op fmt sub w 2 ++
    sourceBad op fmt sub w 3 ++
    Bad.when (destBad qm op fmt sub w) 0x12 3 ++
    pfxBad qm op fmt sub w ++ literalBad op fmt sub w ++ auxBad op fmt sub w

end Sys2Proof.Machine
end

