-- ==== Sys2Proof/WellFormed.lean ====
section
/-! DEFINITION. Which instructions are well formed: those some core's decoder accepts, and occasions whose
indexes exist. -/

namespace Sys2Proof
open Sys2Proof.Machine

/-- The matrix instructions, which a vector core refuses (R257). -/
def isMatrixInstr : Instr → Bool
  | .mxMul .. | .mxZero .. | .mxDrain .. | .mxStore .. | .mxAlloc .. | .mxFree .. | .mxWait .. | .mxCfg .. => true
  | _ => false

/-- The scalar instructions that only a vector core accepts (R257). -/
def isVectorInstr : Instr → Bool
  | .bkAny .. | .bkNone .. | .bkAll .. | .vrun .. | .vjmp .. | .vsync => true
  | .kand .. | .kor .. | .kxor .. | .kandn .. | .knot .. | .kmov .. | .kall .. | .kclr .. => true
  | .kcnt .. | .kfst .. | .krdw .. | .kwrw .. | .gld .. | .gst .. | .gatm .. => true
  | .fpost .. | .wpost .. | .cpy .. | .ratm .. | .sysc .. | .irq .. | .drain => true
  | .barArrive .. | .barWait .. | .barArrwait .. | .barInit .. | .barQuery .. => true
  | .tagWall .. | .tagWany .. | .tagFfr .. | .tagClr .. | .tagRead .. => true
  | .winCfg .. | .winRel .. | .winQry .. | .winWaita .. | .mred .. | .mfill .. => true
  | _ => false

/-- Whether the core (`mcc`: the matrix control core) accepts the opcode (R257). -/
def coreAccepts (mcc : Bool) (i : Instr) : Bool := if mcc then !isVectorInstr i else !isMatrixInstr i

/-- The lane opcode and word of a lane instruction (R258). -/
def laneOf : Instr → Option (Nat × LaneWord)
  | .mov w => some (0x00, w)
  | .iadd w => some (0x01, w)
  | .isub w => some (0x02, w)
  | .iadc w => some (0x03, w)
  | .isbb w => some (0x04, w)
  | .imul w => some (0x05, w)
  | .imulh w => some (0x06, w)
  | .imad w => some (0x07, w)
  | .imin w => some (0x08, w)
  | .imax w => some (0x09, w)
  | .iabs w => some (0x0A, w)
  | .ineg w => some (0x0B, w)
  | .andLane w => some (0x0C, w)
  | .orLane w => some (0x0D, w)
  | .xorLane w => some (0x0E, w)
  | .andnLane w => some (0x0F, w)
  | .not w => some (0x10, w)
  | .shl w => some (0x11, w)
  | .shr w => some (0x12, w)
  | .sar w => some (0x13, w)
  | .rotl w => some (0x14, w)
  | .clzLane w => some (0x15, w)
  | .popcLane w => some (0x16, w)
  | .brev w => some (0x17, w)
  | .bfx w => some (0x18, w)
  | .bfi w => some (0x19, w)
  | .perm w => some (0x1A, w)
  | .icmp w => some (0x1B, w)
  | .sel w => some (0x1C, w)
  | .idot4 w => some (0x1D, w)
  | .idiv w => some (0x1E, w)
  | .irem w => some (0x1F, w)
  | .fadd w => some (0x20, w)
  | .fsub w => some (0x21, w)
  | .fmul w => some (0x22, w)
  | .ffma w => some (0x23, w)
  | .fmin w => some (0x24, w)
  | .fmax w => some (0x25, w)
  | .fabs w => some (0x26, w)
  | .fneg w => some (0x27, w)
  | .fcmp w => some (0x28, w)
  | .fdiv w => some (0x29, w)
  | .fdot2 w => some (0x2A, w)
  | .fdot4 w => some (0x2B, w)
  | .frnd w => some (0x2C, w)
  | .fsgn w => some (0x2D, w)
  | .fsat w => some (0x2E, w)
  | .fclass w => some (0x2F, w)
  | .qnum w => some (0x30, w)
  | .qden w => some (0x31, w)
  | .qmake w => some (0x32, w)
  | .qlim w => some (0x33, w)
  | .qmed w => some (0x34, w)
  | .cvt w => some (0x40, w)
  | .cvtsr w => some (0x41, w)
  | .mxscl w => some (0x42, w)
  | .mxq w => some (0x43, w)
  | .mxdq w => some (0x44, w)
  | .exp2 w => some (0x50, w)
  | .log2 w => some (0x51, w)
  | .rcp w => some (0x52, w)
  | .rsq w => some (0x53, w)
  | .sqrt w => some (0x54, w)
  | .sinpi w => some (0x55, w)
  | .cospi w => some (0x56, w)
  | .tanh w => some (0x57, w)
  | .shfl w => some (0x60, w)
  | .vote w => some (0x61, w)
  | .redw w => some (0x62, w)
  | .redt w => some (0x63, w)
  | .scanw w => some (0x64, w)
  | .scant w => some (0x65, w)
  | .kset w => some (0x66, w)
  | .kget w => some (0x67, w)
  | .rng w => some (0x70, w)
  | .lds w => some (0x80, w)
  | .sts w => some (0x81, w)
  | .atoms w => some (0x82, w)
  | .ldg w => some (0x83, w)
  | .stg w => some (0x84, w)
  | .atomg w => some (0x85, w)
  | _ => none

/-- Index ranges of the occasions no word names (R1, R91, R184, R428). -/
def occasionOk : Instr → Bool
  | .longResultArrival c s _ => c < 1024 && s < 32
  | .ageingCapDemote c s | .fpostArm c s => c < 1024 && s < 32
  | .trapEntry a | .timer a =>
    match a with
    | .team c s => c < 1024 && s < 32
    | .prog c s => c < 256 && s < 4
    | .hart h => h < 4
    | .device => false
  | .invalidateJob d _ _ | .invalidateAddress d _ _ | .invalidateAll d _ _ | .invalidationDone d => d < 4
  | .replay d _ | .faultBufferConsume d _ => d < 4
  | .moduleRevoke m x => m < 256 && x < 2048
  | .moduleFatalError m => m < 256
  | .packetSend l _ _ | .nakTimeout l _ | .auditSend l _ => l < 48
  | .telemetrySend l _ m => l < 48 && m.length == 18
  | .dataFlitReceive l _ _ | .idleFlitReceive l _ _ | .nakReceive l _ _ | .mapFlitReceive l _ _ => l < 48
  | .telemetryReceive l _ _ | .auditReceive l _ _ => l < 48
  | .wavelengthLoss l n | .inactiveLaneLoss l n | .spareIn l n => l < 48 && n < 18
  | .fullRetrain l | .retrainComplete l _ | .tune l _ | .tuneComplete l _ | .lctlRetrain l _ | .takeDown l _ => l < 48
  | .ltestWrite l _ | .linkWidthHalve l | .linkWidthDouble l | .wideningLit l => l < 48
  | .bankZeroed c b => c < 256 && b < 32
  | .mxMulLine c | .mxMulRetire c | .mxZeroExecute c | .mxStoreExecute c => c < 256
  | .mxDrainPush c _ => c < 256
  | .bundleTake s | .cpriAgeing s => s < 32
  | .unitDispatch d | .gangPlace d => d < 4
  | .unitResident c | .steal c | .stealReply c | .stealRetry c => c < 1024
  | .pcmdRequest c _ | .pcmdForce c _ | .pcmdResume c _ | .cecntWrite c => c < 1024
  | .darningCopyDone d e | .resumeLoadDone d e => d < 4 && e < 64
  | .qkickWrite q _ => q < 4096
  | .signalUpdate g _ _ => g < 4096
  | .cqCoalesceTimeout c => c < 256
  | .castlingStart r | .handOverWritten r | .castlingVerifyDone r | .hbeat r | .probationTimeout r | .probationEnd r => r < 3
  | _ => true

/-- The checks a decoder makes on the fields of an instruction, on some core and under some TMODE. -/
def Instr.wf (i : Instr) : Bool :=
  match laneOf i with
  | some (op, w) => laneBad false op w == [] || laneBad true op w == []
  | none =>
    ((coreAccepts false i && scalarBad false i == []) || (coreAccepts true i && scalarBad true i == [])) &&
      occasionOk i

end Sys2Proof
end

