-- ==== Sys2Proof/Decode.lean ====
section
/-! DEFINITION. From bytes to instructions: scalar words (R230, R253 to R257), lane words (R233, R243,
R258), firmware words (R262); and the words of a well-formed instruction. -/

namespace Sys2Proof
open Sys2Proof.Machine

/-- Bits [lo+n-1:lo] of a word, as a number. -/
def bits (w lo n : Nat) : Nat := w / 2 ^ lo % 2 ^ n
/-- Bits [lo+n-1:lo] of a word, as a field. -/
def fld (w lo n : Nat) : BitVec n := BitVec.ofNat n (w / 2 ^ lo)

/-- The number whose bytes, lowest address first, are the list (R6). -/
def numOfBytes : List Byte → Nat
  | [] => 0
  | b :: bs => b.toNat + 256 * numOfBytes bs

/-- The `n` bytes of a number, lowest address first (R6). -/
def bytesOfNum : Nat → Nat → List Byte
  | 0, _ => []
  | n + 1, w => BitVec.ofNat 8 w :: bytesOfNum n (w / 256)

/-! ### Scalar words -/

/-- The instruction a scalar word selects by opcode and selector (R253 to R255), with the value of the
bits it leaves unused, which must be 0 (R231). -/
def scalarSelect (w : Nat) : Option (Instr × Nat) :=
  match bits w 26 6 with
  | 0x00 =>
    match bits w 0 6 with
    | 0 => some (.add (fld w 21 5) (fld w 16 5) (fld w 11 5), bits w 6 5)
    | 1 => some (.sub (fld w 21 5) (fld w 16 5) (fld w 11 5), bits w 6 5)
    | 2 => some (.and (fld w 21 5) (fld w 16 5) (fld w 11 5), bits w 6 5)
    | 3 => some (.or (fld w 21 5) (fld w 16 5) (fld w 11 5), bits w 6 5)
    | 4 => some (.xor (fld w 21 5) (fld w 16 5) (fld w 11 5), bits w 6 5)
    | 5 => some (.andn (fld w 21 5) (fld w 16 5) (fld w 11 5), bits w 6 5)
    | 6 => some (.sll (fld w 21 5) (fld w 16 5) (fld w 11 5), bits w 6 5)
    | 7 => some (.srl (fld w 21 5) (fld w 16 5) (fld w 11 5), bits w 6 5)
    | 8 => some (.sra (fld w 21 5) (fld w 16 5) (fld w 11 5), bits w 6 5)
    | 9 => some (.mul (fld w 21 5) (fld w 16 5) (fld w 11 5), bits w 6 5)
    | 10 => some (.mulhs (fld w 21 5) (fld w 16 5) (fld w 11 5), bits w 6 5)
    | 11 => some (.mulhn (fld w 21 5) (fld w 16 5) (fld w 11 5), bits w 6 5)
    | 12 => some (.div (fld w 21 5) (fld w 16 5) (fld w 11 5), bits w 6 5)
    | 13 => some (.divn (fld w 21 5) (fld w 16 5) (fld w 11 5), bits w 6 5)
    | 14 => some (.rem (fld w 21 5) (fld w 16 5) (fld w 11 5), bits w 6 5)
    | 15 => some (.remn (fld w 21 5) (fld w 16 5) (fld w 11 5), bits w 6 5)
    | 16 => some (.min (fld w 21 5) (fld w 16 5) (fld w 11 5), bits w 6 5)
    | 17 => some (.max (fld w 21 5) (fld w 16 5) (fld w 11 5), bits w 6 5)
    | 18 => some (.minn (fld w 21 5) (fld w 16 5) (fld w 11 5), bits w 6 5)
    | 19 => some (.maxn (fld w 21 5) (fld w 16 5) (fld w 11 5), bits w 6 5)
    | 20 => some (.slt (fld w 21 5) (fld w 16 5) (fld w 11 5), bits w 6 5)
    | 21 => some (.sltn (fld w 21 5) (fld w 16 5) (fld w 11 5), bits w 6 5)
    | 22 => some (.clz (fld w 21 5) (fld w 16 5), bits w 6 10)
    | 23 => some (.ctz (fld w 21 5) (fld w 16 5), bits w 6 10)
    | 24 => some (.popc (fld w 21 5) (fld w 16 5), bits w 6 10)
    | 25 => some (.seq (fld w 21 5) (fld w 16 5) (fld w 11 5), bits w 6 5)
    | _ => none
  | 0x01 => some (.addi (fld w 21 5) (fld w 16 5) (fld w 0 16), 0)
  | 0x02 => some (.andi (fld w 21 5) (fld w 16 5) (fld w 0 16), 0)
  | 0x03 => some (.ori (fld w 21 5) (fld w 16 5) (fld w 0 16), 0)
  | 0x04 => some (.xori (fld w 21 5) (fld w 16 5) (fld w 0 16), 0)
  | 0x05 =>
    match bits w 6 2 with
    | 0 => some (.slli (fld w 21 5) (fld w 16 5) (fld w 0 6), bits w 8 8)
    | 1 => some (.srli (fld w 21 5) (fld w 16 5) (fld w 0 6), bits w 8 8)
    | 2 => some (.srai (fld w 21 5) (fld w 16 5) (fld w 0 6), bits w 8 8)
    | _ => none
  | 0x06 => some (.ghi (fld w 21 5) (fld w 0 16), bits w 16 5)
  | 0x07 => some (.gsh (fld w 21 5) (fld w 16 5) (fld w 0 16), 0)
  | 0x08 => some (.slti (fld w 21 5) (fld w 16 5) (fld w 0 16), 0)
  | 0x09 => some (.sltin (fld w 21 5) (fld w 16 5) (fld w 0 16), 0)
  | 0x10 => some (.beq (fld w 21 5) (fld w 16 5) (fld w 0 16), 0)
  | 0x11 => some (.bne (fld w 21 5) (fld w 16 5) (fld w 0 16), 0)
  | 0x12 => some (.blt (fld w 21 5) (fld w 16 5) (fld w 0 16), 0)
  | 0x13 => some (.bge (fld w 21 5) (fld w 16 5) (fld w 0 16), 0)
  | 0x14 => some (.bltn (fld w 21 5) (fld w 16 5) (fld w 0 16), 0)
  | 0x15 => some (.bgen (fld w 21 5) (fld w 16 5) (fld w 0 16), 0)
  | 0x16 => some (.jal (fld w 0 26), 0)
  | 0x17 => some (.jalr (fld w 16 5) (fld w 0 16), bits w 21 5)
  | 0x18 =>
    match bits w 21 2 with
    | 0 => some (.bkAny (fld w 23 3) (fld w 0 16), bits w 16 5)
    | 1 => some (.bkNone (fld w 23 3) (fld w 0 16), bits w 16 5)
    | 2 => some (.bkAll (fld w 23 3) (fld w 0 16), bits w 16 5)
    | _ => none
  | 0x20 => some (.vrun (fld w 0 16), bits w 16 10)
  | 0x21 => some (.vjmp (fld w 16 5) (fld w 0 16), bits w 21 5)
  | 0x22 => some (.vsync, bits w 0 26)
  | 0x24 =>
    match bits w 0 6 with
    | 0 => some (.kand (fld w 23 3) (fld w 20 3) (fld w 17 3), bits w 6 11)
    | 1 => some (.kor (fld w 23 3) (fld w 20 3) (fld w 17 3), bits w 6 11)
    | 2 => some (.kxor (fld w 23 3) (fld w 20 3) (fld w 17 3), bits w 6 11)
    | 3 => some (.kandn (fld w 23 3) (fld w 20 3) (fld w 17 3), bits w 6 11)
    | 4 => some (.knot (fld w 23 3) (fld w 20 3), bits w 6 14)
    | 5 => some (.kmov (fld w 23 3) (fld w 20 3), bits w 6 14)
    | 6 => some (.kall (fld w 23 3), bits w 6 17)
    | 7 => some (.kclr (fld w 23 3), bits w 6 17)
    | _ => none
  | 0x25 =>
    match bits w 0 6 with
    | 0 => some (.kcnt (fld w 21 5) (fld w 16 3), bits w 6 10 + bits w 19 2)
    | _ => none
  | 0x26 =>
    match bits w 0 6 with
    | 0 => some (.kfst (fld w 21 5) (fld w 16 3), bits w 6 10 + bits w 19 2)
    | _ => none
  | 0x27 =>
    match bits w 0 6 with
    | 0 => some (.krdw (fld w 21 5) (fld w 16 5) (fld w 6 3), bits w 9 7)
    | 1 => some (.kwrw (fld w 16 5) (fld w 11 5) (fld w 6 3), bits w 9 2 + bits w 21 5)
    | _ => none
  | 0x28 => some (.gld (fld w 21 5) (fld w 16 5) (fld w 13 3) (fld w 0 13), 0)
  | 0x29 => some (.gst (fld w 21 5) (fld w 16 5) (fld w 13 3) (fld w 0 13), 0)
  | 0x2A => some (.gatm (fld w 21 5) (fld w 16 5) (fld w 11 5) (fld w 6 5) (fld w 4 2) (fld w 0 4), 0)
  | 0x2C => some (.fpost (fld w 21 5) (fld w 16 5) (fld w 11 5) (fld w 1 3) (fld w 0 1), bits w 4 7)
  | 0x2D => some (.wpost (fld w 16 5) (fld w 11 5) (fld w 1 3) (fld w 0 1), bits w 4 7 + bits w 21 5)
  | 0x2E => some (.cpy (fld w 16 5) (fld w 11 5) (fld w 6 5) (fld w 2 3) (fld w 1 1) (fld w 0 1), bits w 5 1 + bits w 21 5)
  | 0x2F => some (.ratm (fld w 21 5) (fld w 16 5) (fld w 11 5) (fld w 6 5) (fld w 5 1) (fld w 4 1) (fld w 0 4), 0)
  | 0x30 =>
    match bits w 14 2 with
    | 0 => some (.csrRd (fld w 21 5) (fld w 0 14), bits w 16 5)
    | 1 => some (.csrWr (fld w 21 5) (fld w 16 5) (fld w 0 14), 0)
    | 2 => some (.csrSet (fld w 21 5) (fld w 16 5) (fld w 0 14), 0)
    | 3 => some (.csrClr (fld w 21 5) (fld w 16 5) (fld w 0 14), 0)
    | _ => none
  | 0x31 => some (.sysc (fld w 0 16), bits w 16 10)
  | 0x32 => some (.yield (fld w 8 8) (fld w 0 1), bits w 1 7 + bits w 16 10)
  | 0x33 => some (.exit (fld w 0 16), bits w 16 10)
  | 0x34 => some (.trap (fld w 0 16), bits w 16 10)
  | 0x35 => some (.irq (fld w 16 5) (fld w 0 11), bits w 11 5 + bits w 21 5)
  | 0x36 =>
    match bits w 3 1 with
    | 0 => some (.lvlRd (fld w 21 5) (fld w 0 3), bits w 4 17)
    | 1 => some (.lvlCancel (fld w 21 5) (fld w 0 3), bits w 4 17)
    | _ => none
  | 0x37 => some (.fence (fld w 3 2) (fld w 0 3), bits w 5 21)
  | 0x38 => some (.drain, bits w 0 26)
  | 0x39 => some (.time (fld w 21 5), bits w 0 21)
  | 0x3A =>
    match bits w 0 6 with
    | 0 => some (.barArrive (fld w 16 5), bits w 6 10 + bits w 21 5)
    | 1 => some (.barWait (fld w 16 5), bits w 6 10 + bits w 21 5)
    | 2 => some (.barArrwait (fld w 16 5), bits w 6 10 + bits w 21 5)
    | 3 => some (.barInit (fld w 16 5) (fld w 11 5), bits w 6 5 + bits w 21 5)
    | 4 => some (.barQuery (fld w 21 5) (fld w 16 5), bits w 6 10)
    | _ => none
  | 0x3B =>
    match bits w 0 6 with
    | 0 => some (.tagWall (fld w 16 5), bits w 6 10 + bits w 21 5)
    | 1 => some (.tagWany (fld w 21 5) (fld w 16 5), bits w 6 10)
    | 2 => some (.tagFfr (fld w 21 5) (fld w 16 5), bits w 6 10)
    | 3 => some (.tagClr (fld w 16 5), bits w 6 10 + bits w 21 5)
    | 4 => some (.tagRead (fld w 21 5) (fld w 16 5), bits w 6 10)
    | _ => none
  | 0x3C =>
    match bits w 0 6 with
    | 0 => some (.winCfg (fld w 16 5) (fld w 11 5), bits w 6 5 + bits w 21 5)
    | 1 => some (.winRel (fld w 16 5) (fld w 11 5), bits w 6 5 + bits w 21 5)
    | 2 => some (.winQry (fld w 21 5) (fld w 16 5), bits w 6 10)
    | 3 => some (.winWaita (fld w 16 5), bits w 6 10 + bits w 21 5)
    | _ => none
  | 0x3D =>
    match bits w 0 6 with
    | 0 => some (.tidBinds (fld w 16 5) (fld w 11 5), bits w 6 5 + bits w 21 5)
    | 1 => some (.tidBindf (fld w 16 5) (fld w 11 5), bits w 6 5 + bits w 21 5)
    | 2 => some (.tidInv (fld w 16 5), bits w 6 10 + bits w 21 5)
    | 3 => some (.tidQry (fld w 21 5) (fld w 16 5), bits w 6 10)
    | _ => none
  | 0x3E =>
    match bits w 0 4 with
    | 0 => some (.mxMul (fld w 16 5) (fld w 11 5) (fld w 6 5), bits w 4 2 + bits w 21 5)
    | 1 => some (.mxZero (fld w 16 5), bits w 4 12 + bits w 21 5)
    | 2 => some (.mxDrain (fld w 16 5), bits w 4 12 + bits w 21 5)
    | 3 => some (.mxStore (fld w 16 5) (fld w 11 5) (fld w 6 5), bits w 4 2 + bits w 21 5)
    | 4 => some (.mxAlloc (fld w 21 5), bits w 4 17)
    | 5 => some (.mxFree (fld w 16 5), bits w 4 12 + bits w 21 5)
    | 6 => some (.mxWait (fld w 16 5), bits w 4 12 + bits w 21 5)
    | 7 => some (.mxCfg (fld w 16 5), bits w 4 12 + bits w 21 5)
    | _ => none
  | 0x3F =>
    match bits w 0 6 with
    | 0 => some (.mred (fld w 16 5), bits w 6 10 + bits w 21 5)
    | 1 => some (.mfill (fld w 16 5), bits w 6 10 + bits w 21 5)
    | _ => none
  | _ => none

/-- The scalar decoder of a vector core (`mcc` false) or of the matrix control core (R231, R257, R265). -/
def scalarDecode (mcc : Bool) (w : Nat) : Except Bad Instr :=
  match scalarSelect w with
  | none => .error ⟨0x10, 0⟩
  | some (i, unused) =>
    match Bad.lowest (Bad.when (!coreAccepts mcc i) 0x10 0 ++ Bad.when (unused != 0) 0x11 0 ++
        scalarBad mcc i) with
    | some b => .error b
    | none => .ok i

/-! ### Lane words -/

/-- The instruction a lane opcode names (R258). -/
def laneInstr (op : Nat) (w : LaneWord) : Option Instr :=
  match op with
  | 0x00 => some (.mov w)
  | 0x01 => some (.iadd w)
  | 0x02 => some (.isub w)
  | 0x03 => some (.iadc w)
  | 0x04 => some (.isbb w)
  | 0x05 => some (.imul w)
  | 0x06 => some (.imulh w)
  | 0x07 => some (.imad w)
  | 0x08 => some (.imin w)
  | 0x09 => some (.imax w)
  | 0x0A => some (.iabs w)
  | 0x0B => some (.ineg w)
  | 0x0C => some (.andLane w)
  | 0x0D => some (.orLane w)
  | 0x0E => some (.xorLane w)
  | 0x0F => some (.andnLane w)
  | 0x10 => some (.not w)
  | 0x11 => some (.shl w)
  | 0x12 => some (.shr w)
  | 0x13 => some (.sar w)
  | 0x14 => some (.rotl w)
  | 0x15 => some (.clzLane w)
  | 0x16 => some (.popcLane w)
  | 0x17 => some (.brev w)
  | 0x18 => some (.bfx w)
  | 0x19 => some (.bfi w)
  | 0x1A => some (.perm w)
  | 0x1B => some (.icmp w)
  | 0x1C => some (.sel w)
  | 0x1D => some (.idot4 w)
  | 0x1E => some (.idiv w)
  | 0x1F => some (.irem w)
  | 0x20 => some (.fadd w)
  | 0x21 => some (.fsub w)
  | 0x22 => some (.fmul w)
  | 0x23 => some (.ffma w)
  | 0x24 => some (.fmin w)
  | 0x25 => some (.fmax w)
  | 0x26 => some (.fabs w)
  | 0x27 => some (.fneg w)
  | 0x28 => some (.fcmp w)
  | 0x29 => some (.fdiv w)
  | 0x2A => some (.fdot2 w)
  | 0x2B => some (.fdot4 w)
  | 0x2C => some (.frnd w)
  | 0x2D => some (.fsgn w)
  | 0x2E => some (.fsat w)
  | 0x2F => some (.fclass w)
  | 0x30 => some (.qnum w)
  | 0x31 => some (.qden w)
  | 0x32 => some (.qmake w)
  | 0x33 => some (.qlim w)
  | 0x34 => some (.qmed w)
  | 0x40 => some (.cvt w)
  | 0x41 => some (.cvtsr w)
  | 0x42 => some (.mxscl w)
  | 0x43 => some (.mxq w)
  | 0x44 => some (.mxdq w)
  | 0x50 => some (.exp2 w)
  | 0x51 => some (.log2 w)
  | 0x52 => some (.rcp w)
  | 0x53 => some (.rsq w)
  | 0x54 => some (.sqrt w)
  | 0x55 => some (.sinpi w)
  | 0x56 => some (.cospi w)
  | 0x57 => some (.tanh w)
  | 0x60 => some (.shfl w)
  | 0x61 => some (.vote w)
  | 0x62 => some (.redw w)
  | 0x63 => some (.redt w)
  | 0x64 => some (.scanw w)
  | 0x65 => some (.scant w)
  | 0x66 => some (.kset w)
  | 0x67 => some (.kget w)
  | 0x70 => some (.rng w)
  | 0x80 => some (.lds w)
  | 0x81 => some (.sts w)
  | 0x82 => some (.atoms w)
  | 0x83 => some (.ldg w)
  | 0x84 => some (.stg w)
  | 0x85 => some (.atomg w)
  | _ => none

/-- The prefix fields of a parcel (R243). -/
def pfxFields (p : Nat) : LanePfx :=
  ⟨fld p 21 3, fld p 18 3, fld p 17 1, fld p 16 1, fld p 15 1, fld p 7 8⟩

/-- The fields of the parcels L0, L1, L2 (R233). -/
def laneFields (pfx : Option LanePfx) (l0 l1 l2 : Nat) : LaneWord :=
  { pfx, fmt := fld l0 20 4, sub := fld l0 16 4, gcc := fld l0 14 2, gcond := fld l0 10 4,
    ccd := fld l0 7 3, litsel := fld l0 5 2, ea := fld l0 2 3,
    dst := fld l1 24 8, srcA := fld l1 16 8, srcB := fld l1 8 8, srcC := fld l1 0 8, aux := fld l2 0 32 }

/-- Whether a parcel at the place of L0 is a prefix (R243). -/
def isPfxParcel (p : Nat) : Bool := bits p 24 8 == 0xFF

/-- Parcels a lane instruction takes, judged by its first (R233, R243). -/
def laneParcels (first : Nat) : Nat := if isPfxParcel first then 4 else 3

/-- L0 to L2, after the prefix fields and the prefix's own reserved bits. -/
def laneDecodeBase (qm : Bool) (pfx : Option LanePfx) (pfxRsv l0 l1 l2 : Nat) : Except Bad Instr :=
  let op := bits l0 24 8
  let w := laneFields pfx l0 l1 l2
  match laneInstr op w with
  | none => .error ⟨0x10, 2⟩
  | some i =>
    match Bad.lowest (Bad.when (bits l0 0 2 != 0) 0x11 2 ++ Bad.when (pfxRsv != 0) 0x11 1 ++
        laneBad qm op w) with
    | some b => .error b
    | none => .ok i

/-- The lane decoder on the parcels from LPC, under the captured TMODE.QM (R245, R259). -/
def laneDecode (qm : Bool) : List Nat → Except Bad Instr
  | l0 :: l1 :: l2 :: rest =>
    if isPfxParcel l0 then
      if isPfxParcel l1 then
        .error (if bits l0 0 7 != 0 || (bits l0 16 1 == 0 && bits l0 7 9 != 0) then ⟨0x11, 1⟩ else ⟨0x13, 2⟩)
      else match rest with
        | [] => .error ⟨0x10, 2⟩
        | l3 :: _ => laneDecodeBase qm (some (pfxFields l0)) (bits l0 0 7) l1 l2 l3
    else laneDecodeBase qm none 0 l0 l1 l2
  | _ => .error ⟨0x10, 2⟩

/-! ### Firmware words -/

/-- The custom-0 decoder of a firmware hart; none is mcause 2 (R262). -/
def firmwareDecode (w : Nat) : Option Instr :=
  if bits w 0 7 != 0x0B || bits w 25 7 != 0 then none
  else match bits w 12 3 with
  | 0 => if bits w 20 5 == 0 then some (.rfetch (fld w 7 5) (fld w 15 5)) else none
  | 1 => some (.fwBfx (fld w 7 5) (fld w 15 5) (fld w 20 5))
  | 2 => some (.swait (fld w 7 5) (fld w 15 5) (fld w 20 5))
  | 3 => if bits w 7 5 == 0 then some (.disp (fld w 15 5) (fld w 20 5)) else none
  | 4 => if bits w 7 5 == 0 then some (.qmap (fld w 15 5) (fld w 20 5)) else none
  | 5 => if bits w 20 5 == 0 then some (.qunmap (fld w 7 5) (fld w 15 5)) else none
  | _ => none

/-! ### The encoder -/

/-- A field's value at its place in the word. -/
def place {n : Nat} (x : BitVec n) (lo : Nat) : Nat := x.toNat * 2 ^ lo

/-- The word of a scalar instruction (R230, R253 to R256). -/
def encodeScalar : Instr → Option Nat
  | .add d a b => some (0x00000000 + place d 21 + place a 16 + place b 11)
  | .sub d a b => some (0x00000001 + place d 21 + place a 16 + place b 11)
  | .and d a b => some (0x00000002 + place d 21 + place a 16 + place b 11)
  | .or d a b => some (0x00000003 + place d 21 + place a 16 + place b 11)
  | .xor d a b => some (0x00000004 + place d 21 + place a 16 + place b 11)
  | .andn d a b => some (0x00000005 + place d 21 + place a 16 + place b 11)
  | .sll d a b => some (0x00000006 + place d 21 + place a 16 + place b 11)
  | .srl d a b => some (0x00000007 + place d 21 + place a 16 + place b 11)
  | .sra d a b => some (0x00000008 + place d 21 + place a 16 + place b 11)
  | .mul d a b => some (0x00000009 + place d 21 + place a 16 + place b 11)
  | .mulhs d a b => some (0x0000000A + place d 21 + place a 16 + place b 11)
  | .mulhn d a b => some (0x0000000B + place d 21 + place a 16 + place b 11)
  | .div d a b => some (0x0000000C + place d 21 + place a 16 + place b 11)
  | .divn d a b => some (0x0000000D + place d 21 + place a 16 + place b 11)
  | .rem d a b => some (0x0000000E + place d 21 + place a 16 + place b 11)
  | .remn d a b => some (0x0000000F + place d 21 + place a 16 + place b 11)
  | .min d a b => some (0x00000010 + place d 21 + place a 16 + place b 11)
  | .max d a b => some (0x00000011 + place d 21 + place a 16 + place b 11)
  | .minn d a b => some (0x00000012 + place d 21 + place a 16 + place b 11)
  | .maxn d a b => some (0x00000013 + place d 21 + place a 16 + place b 11)
  | .slt d a b => some (0x00000014 + place d 21 + place a 16 + place b 11)
  | .sltn d a b => some (0x00000015 + place d 21 + place a 16 + place b 11)
  | .clz d a => some (0x00000016 + place d 21 + place a 16)
  | .ctz d a => some (0x00000017 + place d 21 + place a 16)
  | .popc d a => some (0x00000018 + place d 21 + place a 16)
  | .seq d a b => some (0x00000019 + place d 21 + place a 16 + place b 11)
  | .addi d a i => some (0x04000000 + place d 21 + place a 16 + i.toNat)
  | .andi d a i => some (0x08000000 + place d 21 + place a 16 + i.toNat)
  | .ori d a i => some (0x0C000000 + place d 21 + place a 16 + i.toNat)
  | .xori d a i => some (0x10000000 + place d 21 + place a 16 + i.toNat)
  | .slli d a n => some (0x14000000 + place d 21 + place a 16 + n.toNat)
  | .srli d a n => some (0x14000040 + place d 21 + place a 16 + n.toNat)
  | .srai d a n => some (0x14000080 + place d 21 + place a 16 + n.toNat)
  | .ghi d i => some (0x18000000 + place d 21 + i.toNat)
  | .gsh d a i => some (0x1C000000 + place d 21 + place a 16 + i.toNat)
  | .slti d a i => some (0x20000000 + place d 21 + place a 16 + i.toNat)
  | .sltin d a i => some (0x24000000 + place d 21 + place a 16 + i.toNat)
  | .beq a b o => some (0x40000000 + place a 21 + place b 16 + o.toNat)
  | .bne a b o => some (0x44000000 + place a 21 + place b 16 + o.toNat)
  | .blt a b o => some (0x48000000 + place a 21 + place b 16 + o.toNat)
  | .bge a b o => some (0x4C000000 + place a 21 + place b 16 + o.toNat)
  | .bltn a b o => some (0x50000000 + place a 21 + place b 16 + o.toNat)
  | .bgen a b o => some (0x54000000 + place a 21 + place b 16 + o.toNat)
  | .jal o => some (0x58000000 + o.toNat)
  | .jalr a i => some (0x5C000000 + place a 16 + i.toNat)
  | .bkAny k o => some (0x60000000 + place k 23 + o.toNat)
  | .bkNone k o => some (0x60200000 + place k 23 + o.toNat)
  | .bkAll k o => some (0x60400000 + place k 23 + o.toNat)
  | .vrun n => some (0x80000000 + n.toNat)
  | .vjmp a i => some (0x84000000 + place a 16 + i.toNat)
  | .vsync => some (0x88000000)
  | .kand d a b => some (0x90000000 + place d 23 + place a 20 + place b 17)
  | .kor d a b => some (0x90000001 + place d 23 + place a 20 + place b 17)
  | .kxor d a b => some (0x90000002 + place d 23 + place a 20 + place b 17)
  | .kandn d a b => some (0x90000003 + place d 23 + place a 20 + place b 17)
  | .knot d a => some (0x90000004 + place d 23 + place a 20)
  | .kmov d a => some (0x90000005 + place d 23 + place a 20)
  | .kall d => some (0x90000006 + place d 23)
  | .kclr d => some (0x90000007 + place d 23)
  | .kcnt d k => some (0x94000000 + place d 21 + place k 16)
  | .kfst d k => some (0x98000000 + place d 21 + place k 16)
  | .krdw d a k => some (0x9C000000 + place d 21 + place a 16 + place k 6)
  | .kwrw a b k => some (0x9C000001 + place a 16 + place b 11 + place k 6)
  | .gld d a s i => some (0xA0000000 + place d 21 + place a 16 + place s 13 + i.toNat)
  | .gst d a s i => some (0xA4000000 + place d 21 + place a 16 + place s 13 + i.toNat)
  | .gatm d a b c r o => some (0xA8000000 + place d 21 + place a 16 + place b 11 + place c 6 + place r 4 + o.toNat)
  | .fpost d a b s q => some (0xB0000000 + place d 21 + place a 16 + place b 11 + place s 1 + q.toNat)
  | .wpost a b s l => some (0xB4000000 + place a 16 + place b 11 + place s 1 + l.toNat)
  | .cpy a b c s l q => some (0xB8000000 + place a 16 + place b 11 + place c 6 + place s 2 + place l 1 + q.toNat)
  | .ratm d a b c l z o => some (0xBC000000 + place d 21 + place a 16 + place b 11 + place c 6 + place l 5 + place z 4 + o.toNat)
  | .csrRd d n => some (0xC0000000 + place d 21 + n.toNat)
  | .csrWr d a n => some (0xC0004000 + place d 21 + place a 16 + n.toNat)
  | .csrSet d a n => some (0xC0008000 + place d 21 + place a 16 + n.toNat)
  | .csrClr d a n => some (0xC000C000 + place d 21 + place a 16 + n.toNat)
  | .sysc i => some (0xC4000000 + i.toNat)
  | .yield l w => some (0xC8000000 + place l 8 + w.toNat)
  | .exit s => some (0xCC000000 + s.toNat)
  | .trap i => some (0xD0000000 + i.toNat)
  | .irq a v => some (0xD4000000 + place a 16 + v.toNat)
  | .lvlRd d l => some (0xD8000000 + place d 21 + l.toNat)
  | .lvlCancel d l => some (0xD8000008 + place d 21 + l.toNat)
  | .fence k s => some (0xDC000000 + place k 3 + s.toNat)
  | .drain => some (0xE0000000)
  | .time d => some (0xE4000000 + place d 21)
  | .barArrive a => some (0xE8000000 + place a 16)
  | .barWait a => some (0xE8000001 + place a 16)
  | .barArrwait a => some (0xE8000002 + place a 16)
  | .barInit a b => some (0xE8000003 + place a 16 + place b 11)
  | .barQuery d a => some (0xE8000004 + place d 21 + place a 16)
  | .tagWall a => some (0xEC000000 + place a 16)
  | .tagWany d a => some (0xEC000001 + place d 21 + place a 16)
  | .tagFfr d a => some (0xEC000002 + place d 21 + place a 16)
  | .tagClr a => some (0xEC000003 + place a 16)
  | .tagRead d a => some (0xEC000004 + place d 21 + place a 16)
  | .winCfg a b => some (0xF0000000 + place a 16 + place b 11)
  | .winRel a b => some (0xF0000001 + place a 16 + place b 11)
  | .winQry d a => some (0xF0000002 + place d 21 + place a 16)
  | .winWaita a => some (0xF0000003 + place a 16)
  | .tidBinds a b => some (0xF4000000 + place a 16 + place b 11)
  | .tidBindf a b => some (0xF4000001 + place a 16 + place b 11)
  | .tidInv a => some (0xF4000002 + place a 16)
  | .tidQry d a => some (0xF4000003 + place d 21 + place a 16)
  | .mxMul a b c => some (0xF8000000 + place a 16 + place b 11 + place c 6)
  | .mxZero a => some (0xF8000001 + place a 16)
  | .mxDrain a => some (0xF8000002 + place a 16)
  | .mxStore a b c => some (0xF8000003 + place a 16 + place b 11 + place c 6)
  | .mxAlloc d => some (0xF8000004 + place d 21)
  | .mxFree a => some (0xF8000005 + place a 16)
  | .mxWait a => some (0xF8000006 + place a 16)
  | .mxCfg a => some (0xF8000007 + place a 16)
  | .mred a => some (0xFC000000 + place a 16)
  | .mfill a => some (0xFC000001 + place a 16)
  | _ => none

/-- The word of a firmware instruction (R262). -/
def encodeFirmware : Instr → Option Nat
  | .rfetch d s => some (0x0000000B + place s 15 + place d 7)
  | .fwBfx d s t => some (0x0000100B + place t 20 + place s 15 + place d 7)
  | .swait d s t => some (0x0000200B + place t 20 + place s 15 + place d 7)
  | .disp s t => some (0x0000300B + place t 20 + place s 15)
  | .qmap s t => some (0x0000400B + place t 20 + place s 15)
  | .qunmap d s => some (0x0000500B + place s 15 + place d 7)
  | _ => none

/-- The prefix parcel (R243). -/
def encodePfx (p : LanePfx) : Nat :=
  0xFF000000 + place p.mask 21 + place p.rnd 18 + place p.pol 17 + place p.den 16 + place p.dea 15 + place p.dcode 7

/-- The parcels of a lane instruction (R233, R243). -/
def encodeLane (op : Nat) (w : LaneWord) : List Nat :=
  (match w.pfx with | some p => [encodePfx p] | none => []) ++
  [op * 2^24 + place w.fmt 20 + place w.sub 16 + place w.gcc 14 + place w.gcond 10 + place w.ccd 7 +
     place w.litsel 5 + place w.ea 2,
   place w.dst 24 + place w.srcA 16 + place w.srcB 8 + w.srcC.toNat,
   w.aux.toNat]

/-- The parcels of an instruction, lowest address first; empty for a step that no word names. -/
def encode (i : Instr) : List Nat :=
  match encodeScalar i, laneOf i, encodeFirmware i with
  | some w, _, _ => [w]
  | none, some (op, w), _ => encodeLane op w
  | none, none, some w => [w]
  | none, none, none => []

/-! ### The word of an opcode-table row -/

/-- Whether a custom-0 word is read as a firmware instruction although it is also a scalar word: MULHN
names no destination and no first source there, or the firmware fields do not use them (R254, R262). -/
def firmwareFirst (w : Nat) : Bool :=
  match bits w 12 3 with
  | 0 => false
  | 3 | 4 => bits w 7 5 == 0 && bits w 25 7 == 0
  | _ => bits w 16 16 == 0

/-- The 32-bit parcels of a number, first at bit 0. -/
def parcelsOf : Nat → Nat → List Nat
  | 0, _ => []
  | n + 1, w => bits w 0 32 :: parcelsOf n (w / 2 ^ 32)

def optOf {ε α : Type} : Except ε α → Option α
  | .ok a => some a
  | .error _ => none

/-- The first of the decoders that reads a single word: vector core, matrix control core, firmware. -/
def decodeWord (w : Nat) : Option Instr :=
  match (if firmwareFirst w then firmwareDecode w else none) with
  | some i => some i
  | none =>
    match scalarDecode false w with
    | .ok i => some i
    | .error _ =>
      match scalarDecode true w with
      | .ok i => some i
      | .error _ => firmwareDecode w

/-- The instruction the decoders read from the bits of a table row: one word for scalar, matrix and
firmware rows, three or four parcels for lane words. -/
def decodeTableWord (nbits w : Nat) : Option Instr :=
  let bs := bytesOfNum 16 (w % 2 ^ nbits)
  if nbits ≤ 32 then decodeWord (numOfBytes (bs.take 4))
  else match laneDecode false (parcelsOf 4 (numOfBytes bs)) with
    | .ok i => some i
    | .error _ => optOf (laneDecode true (parcelsOf 4 (numOfBytes bs)))

end Sys2Proof
end

