-- ==== Sys2Proof/Machine/State.lean ====
section
/-! DEFINITION. Everything the package holds, as plain data, and its value after reset. -/

namespace Sys2Proof.Machine
open Sys2Proof

/-! ### Why a step stops -/

/-- Reasons for which the machine stops with a fault. -/
inductive Fault where
  /-- Raised by a step whose agent named in State does not exist (a team, program or hart index beyond the
  package). Safe: no run of the part reaches it. -/
  | noSuchAgent
  deriving DecidableEq, Repr

/-- Reasons for which an instruction has no meaning. -/
inductive Refusal where
  /-- Raised by an arm of exec whose instruction has no meaning yet. Safe: nothing is claimed of it. -/
  | notModelled (mnemonic : String)
  deriving DecidableEq, Repr

/-! ### Who moves next -/

/-- AMO operations of RISC-V (R430, log 101). -/
inductive AmoOp where
  | swap | add | xor | and | or | min | max | minu | maxu
  deriving DecidableEq, Repr

/-- A memory access of a control-core hart, of 1, 2, 4 or 8 bytes, or what it does to its timers (R48, R430, R444). -/
inductive BusOp where
  | load (addr n : Nat)
  | store (addr n : Nat) (w : Word64)
  | amo (op : AmoOp) (addr n : Nat) (w : Word64)
  | timer (guest : Bool) (w : Word64)  -- a write of stimecmp or vstimecmp
  | time                               -- a read of the time CSR
  deriving DecidableEq, Repr

/-- One entry of the schedule: which agent performs its next step, or that time passes.
The part's own concurrency is this list (log 1). -/
inductive Turn where
  | scalar (core slot : Nat)     -- the scalar stream of a team (R208)
  | lane (core slot : Nat)       -- the lane stream of a team (R210)
  | matrix (cluster slot : Nat)  -- a matrix program (R345)
  | firmware (h : Nat)           -- a firmware hart (R436)
  | control (h : Nat) (op : BusOp) -- a control-core hart accesses the physical map (R48, R443)
  | application (h : Nat)        -- a control-core hart runs its next instruction (R443)
  | damage (core word kind : Nat) -- an error in a scratchpad word: 1 correctable, 2 uncorrectable (R81)
  | damageTeam (core slot : Nat) -- an uncorrectable error in a team's registers, queue or state (R406)
  | intx (port : Nat)            -- an INTx message of an endpoint (R445)
  | occasion (i : Instr)         -- a step no instruction word names
  | elapse (ns : Nat)            -- the time base advances (R1)
  deriving DecidableEq, Repr

/-! ### Streams -/

/-- A register of a lane or an entry of its result queue: its value, and the pending result that fills it
(0: full) (R214, R215). -/
structure Cell where
  val : Word32
  pend : Nat
  deriving DecidableEq, Repr

/-- A cause that waits for the next instruction boundary (R390, R391); `shelf`: it waited when the handler
was entered, and stays until the handler resumes the stream. -/
structure PendingTrap where
  cause : Nat
  sub : Nat
  info : Word64
  shelf : Bool
  elpc : Option Word64       -- TELPC, where the cause's rule sets it (R294)
  deriving DecidableEq, Repr

/-- Why a stream is blocked (R228); each is tested again when the stream's turn comes. -/
inductive Wait where
  | none
  | register (r : Nat)                      -- an empty g register (R211)
  | laneStream                              -- passes or accesses of lane instructions (R220, R274, R281)
  | queueRoom                               -- the lane instruction queue is full (R209)
  | laneSource                              -- the lane stream: an empty source or destination (R216, R217)
  | port (p : Nat)                          -- the lane stream: room in a port (R113)
  | gangLog                                 -- the lane stream: a gang log entry (R327)
  | barrier (owner n : Nat) (phase : Bool)  -- a barrier phase (R94); owner is the unit that holds it
  | tags (m : Word64) (any : Bool) (d : Nat) -- WALL or WANY of a mask, and WANY's gd (R342)
  | tagRoom (t : Nat)                       -- OUT = 255 (R89)
  | operandLog                              -- the operand log is full (R330)
  | peg (w : Nat)                           -- no free peg (R61)
  | slotWrites (w s : Nat)                  -- earlier writes toward the slot (R335)
  | landed (w s order : Nat)                -- WIN REL of an ARMED slot, and its place among them (R69)
  | pegsHome (w : Nat)                      -- WIN WAITA (R71)
  | holders (t : Nat)                       -- a bind of an identifier that is in progress (R100)
  | bind (t order : Nat)                    -- a bind or INV: operations that hold the identifier, and its place among the binds (R344)
  | descriptor (req : Nat)                  -- the descriptor read of TID BINDF (R344)
  | code (va : Nat)                         -- a code fetch (R47)
  | drain                                   -- translations of earlier commands (R283)
  | irqRoom                                 -- the interrupt message buffer is full (R285)
  | call                                    -- a system call (R284)
  | bank                                    -- a FREE accumulator bank, or its zeroing (R84)
  | retiring (b : Nat)                      -- MX FREE (R362)
  | matrixQueue (room : Nat)                -- at most so many of its operations in the queue (R346, R353)
  | binding (unit : Option Nat)             -- MX CFG: queued port operations, or the unit of an index (R351)
  | results                                 -- results bound for live registers (R288)
  | signal (s : Nat)                        -- a hart in SWAIT (R430)
  | injection (slot : Nat)                  -- a hart in DISP (R436)
  deriving DecidableEq, Repr

/-- How far a blocked instruction has come, when it is more than a test (R61, R94, R209, R344, R362). -/
inductive Stage where
  | vrun (left : Nat)
  | issuing (cmd : Nat)                      -- an engine command whose checks have passed
  | arrived (owner n : Nat) (phase : Bool)   -- ARRWAIT: counted
  | gangArrival (n : Nat)
  | reading (req : Nat)                      -- BINDF: the read is out
  | zeroing (b : Nat)                        -- MX ALLOC
  | freeing (b : Nat)                        -- MX FREE
  | parked (ctag : Option Nat)               -- SYSC
  | arrLater (owner n : Nat) (phase : Bool)
  deriving DecidableEq, Repr

/-- The scalar stream that teams and matrix programs share (R223, R224, R345, R347). -/
structure Thread where
  spc : Word64
  g : FMap Word64          -- default 0
  gPend : FMap Nat         -- default 0: full
  tvec : Word64
  tcause : Word64
  tepc : Word64
  tinfo : Word64
  preq : Bool
  tcmp : Word64
  pending : List PendingTrap
  wait : Wait
  stage : FMap Stage       -- by the SPC of the instruction it belongs to
  deriving DecidableEq, Repr

/-- An entry of the lane instruction queue: the parcels, LPC, the captured TMODE [4:0] and g values, and the
pending result that its g destination waits for, 0 for none (R209). -/
structure LaneEntry where
  parcels : List Nat
  lpc : Word64
  tmode : BitVec 5
  caps : FMap Word64
  gpend : Nat
  seq : Nat                   -- the model's own: its place among what the package does, by State.nextId
  deriving DecidableEq, Repr

/-- A record of the store-fault queue, without its V bit (R400). -/
structure StoreFault where
  kind : Nat
  tag : Nat
  lost : Nat
  spc : Word64
  va : Word64
  pte : Word64
  deriving DecidableEq, Repr

/-- Where a team stands (R379, R408). -/
inductive TeamSet where
  | active
  | pending
  | parked      -- in SYSC
  | saved       -- by a save
  | zeroFill    -- placed, before the zero fill ends
  deriving DecidableEq, Repr

/-- A resident team (R204, R208, R223, R224). -/
structure Team where
  unit : Nat
  index : Nat                 -- TEAM, team in unit
  warps : Nat
  th : Thread
  lpc : Word64
  lcb : Word64
  queue : List LaneEntry
  v : FMap Cell               -- key lane * 64 + register
  q : FMap (List Cell)        -- per lane, q0 first, at most 16; short lists end in full zeros
  c : FMap (BitVec 16)        -- per lane, c0 in [3:0]
  k : FMap (BitVec 1024)      -- masks k0 to k7
  tmode : BitVec 5
  fstat : BitVec 5
  ften : BitVec 5
  telpc : Word64
  keylo : Word64
  keyhi : Word64
  pipecfg : Word32
  sysmbx : Word64
  fmask : BitVec 1024
  fencedAt : Nat              -- the model's own: accesses of entries numbered below it stand before a FENCE (R151, R159)
  sfq : List StoreFault
  sfqPos : Nat                -- word position (R401)
  sfqWait : List (Nat × StoreFault)  -- commands whose log entry waits for room, and their records (R400)
  opLog : List Nat            -- commands that hold an operand-log entry (R330)
  laneWait : Wait
  set_ : TeamSet
  age : Nat                   -- order key, older is lower (R378)
  since : Nat                 -- its core's cycle at its entry into the active set (R379)
  live : Option Nat           -- LIVE of a cooperative save (R288)
  cancelled : Bool            -- CANCEL is taken again after each resume (R207)
  aborted : Option Word64     -- GANG-ABORT likewise, with its TINFO (R405)
  hurt : Bool                 -- an uncorrectable error lies in its register files, its queue or its state (R406)
  deriving DecidableEq, Repr

/-- What a result computed on arrival needs: its queue entry, the sources read at the pass, and which of them is
the port element (R236). -/
structure Calc where
  entry : LaneEntry
  port : Nat
  srcs : List Nat
  got : Bool                  -- the element has arrived
  key0 : Word32               -- the RNG key as the passes read it (R321)
  key1 : Word32
  deriving DecidableEq, Repr

/-- A store whose data is a port element (R328): gang or own scratchpad, and the address. -/
structure PortStore where
  gang : Bool
  addr : Nat
  acq : Bool                  -- sc: later accesses of the lane wait for it (R150)
  seq : Nat                   -- of its queue entry
  deriving DecidableEq, Repr

/-- A pending long-class result (R210, R214, R326): whom it fills, and its value once known. -/
structure Pending where
  core : Nat
  slot : Nat
  instr : Nat                 -- the instruction that produced it
  op : Nat
  elpc : Word64               -- its LPC (R294)
  lane : Nat
  value : Option (List Word32) -- its words; none: a port element or a gang answer is awaited
  discard : Bool              -- a claimed element of an inactive lane (R112), or its team has ended
  flags : BitVec 5            -- flags raised with the result (R129)
  quiet : Bool                -- its instruction has trapped ARITH already (R294)
  noted : Bool                -- its instruction has trapped POISON already (R86)
  deferred : Option Calc
  store : Option PortStore
  cc : Option (Nat × BitVec 4) -- the condition codes written with it (R219, log 11)
  psn : Option Word64         -- TINFO of the POISON that its arrival raises (R326)
  deriving DecidableEq, Repr

/-! ### Units -/

/-- State of a window slot (R57). -/
inductive SlotState where
  | free
  | armed
  | landed
  deriving DecidableEq, Repr

/-- A fetch window (R53, R54, R56). SLOTS 0: not configured. -/
structure Win where
  ltid : Nat
  bar0 : Nat
  pegs : Nat
  slots : Nat
  fmt : Nat
  scl : Bool
  tr : Nat
  tw : Nat
  base : Nat
  next_ : Nat
  freePegs : Nat
  st : FMap SlotState    -- default free
  deriving DecidableEq, Repr

/-- A copy tag (R88). -/
structure Tag where
  out : Nat
  rdy : Bool
  bytes : Nat
  psn : Bool
  flt : Bool
  deriving DecidableEq, Repr

/-- A named barrier (R93). -/
structure Barrier where
  expected : Nat
  arrived : Nat
  phase : Bool
  claimed : Bool
  deriving DecidableEq, Repr

/-- The snapshot a bind stores (R100 to R104); `unit` is the unit a location-0 snapshot names (R42, R351). -/
structure Tensor where
  version : Nat
  tw : Nat
  tr : Nat
  scl : Bool
  esc : Bool
  rank : Nat       -- RANK field + 1
  loc : Nat
  fmt : Nat
  base : Nat
  dims : List Nat  -- four
  pitch : List Nat -- PITCH1 to PITCH3
  scale : Nat
  aux : Word64
  unit : Nat
  deriving DecidableEq, Repr

/-- An entry of a tensor-identifier table: its snapshot, and the operations in flight that hold it (R62). -/
structure TidEntry where
  snap : Option Tensor
  holders : Nat
  binding : Bool
  deriving DecidableEq, Repr

/-- The counter of a level instance (R205). -/
structure Counter where
  cxl : Bool
  fail : Bool
  started : Nat
  done : Nat
  deriving DecidableEq, Repr

/-- Pre-emption state of a unit (R408). -/
inductive UnitState where
  | zeroing | running | requested | saving | suspended | resuming | ended
  deriving DecidableEq, Repr

/-- A record of the event block (R416). -/
structure EventRec where
  type_ : Nat      -- 1 BAR, 2 TAG, 3 FAULT
  num : Nat
  psn : Bool
  flt : Bool
  done : Nat
  bytes : Nat
  word : Word64
  team : Nat       -- the model's own: the team whose command arrived last (R441)
  deriving DecidableEq, Repr

/-- Resources a unit asks for (R365). -/
structure Need where
  teams : Nat
  warps : Nat
  spad : Nat     -- rounded up to 4 KiB
  bars : Nat
  tags : Nat
  wins : Nat
  tids : Nat
  deriving DecidableEq, Repr

/-- What stays of a team that has ended: where it ran, and what its reports give (R115, R396, R404). -/
structure LastTeam where
  core : Nat
  slot : Nat
  pipecfg : Word32
  fmask : BitVec 1024
  status : Nat
  tepc : Word64
  tinfo : Word64
  time : Nat
  deriving DecidableEq, Repr

/-- A placed unit (R204, R373). -/
structure UnitRec where
  launch : Nat
  index : Nat              -- UNIT (R226, R376)
  job : Nat
  core : Nat
  base4k : Nat
  need : Need
  gang : Nat               -- gang identity; 0: no gang
  member : Nat
  gangSize : Nat           -- 1 outside a gang
  gangRetired : Bool       -- a gang member that has retired (R97)
  slots : List Nat         -- team slot of each team
  st : UnitState
  counter : Counter
  failed : Bool
  windows : FMap Win
  tags : FMap Tag
  bars : FMap Barrier
  tids : FMap TidEntry
  pipes : FMap (List Word32)      -- key pipe * 1024 + pushing team * 32 + popping team
  pipeClaims : FMap (List Nat)    -- pending pops, same key, oldest first
  exited : List Nat               -- teams of the unit that have ended
  last : FMap LastTeam            -- the teams that have ended, by team in unit (R115, R396)
  save : Nat                      -- PSAVE address
  entry : Nat                     -- darning entry, 64 * die + e + 1; 0 for none
  resumeCore : Nat
  auto : Bool                     -- the resume is the scheduler's own (R377)
  events : List EventRec
  lostEvents : Nat
  deadline : Nat                  -- the cycle of its core at which PDEADLINE ends (R2, R407)
  savedTeams : FMap Team          -- team state while suspended, by team in unit
  placed : Bool                   -- it holds resources of its core (R83, R415)
  deriving DecidableEq, Repr

/-! ### Clusters -/

/-- State of an accumulator bank (R84). -/
inductive BankState where
  | free | zeroing | held | retiring
  deriving DecidableEq, Repr

structure Bank where
  st : BankState
  prog : Nat
  launch : Nat                -- the launch of the program that took it (R369)
  deriving DecidableEq, Repr

/-- The operation of a matrix queue entry (R353). -/
inductive MxKind where
  | mul | zero | drain | store
  deriving DecidableEq, Repr

/-- An operand of a queued operation: a port, or a snapshot with its identifier and line coordinates. -/
structure MxSource where
  port : Bool
  tid : Nat
  snap : Tensor
  src : Tensor        -- the source of a view (R104)
  coord : Word64
  fmt : Nat
  scl : Bool
  deriving DecidableEq, Repr

/-- A queued matrix operation (R353 to R361). -/
structure MxOp where
  kind : MxKind
  prog : Nat
  tile : Nat
  a : MxSource
  b : MxSource
  z : Bool
  kc : Nat
  line : Nat          -- next line, or elements drained so far
  begun : Bool
  abandoned : Bool
  ctl : Word64        -- gc of STORE
  held : FMap (Byte × Bool) -- operand bytes read when the unit was saved, by offset, with poison (R410)
  deriving DecidableEq, Repr

/-- The port binding of a cluster (R350, R351). -/
structure Binding where
  prog : Nat
  unit : Nat
  afmt : Nat
  ascl : Bool
  bfmt : Nat
  bscl : Bool
  deriving DecidableEq, Repr

/-- A cluster's matrix side (R46, R84, R110, R353). -/
structure Cluster where
  banks : FMap Bank            -- default FREE
  acc : FMap Word32            -- key bank * 16384 + tile * 4096 + 64 m + n, default +0.0
  tilePsn : List Nat           -- poisoned tiles, bank * 4 + tile
  binding : Option Binding
  p0 : List (List Byte)
  p1 : List (List Byte)
  p3 : List (List Byte)
  p2 : List (Word32 × Bool)    -- drained elements, poison
  p2Claims : List Nat          -- pending pops, oldest first
  ops : List MxOp              -- in the order they entered (R353)
  served : List Nat            -- programs that have issued in this round (R345)
  deriving DecidableEq, Repr

/-- A matrix program (R345, R347). -/
structure Prog where
  launch : Nat
  job : Nat
  th : Thread
  tidCount : Nat
  tids : FMap TidEntry
  saved : Bool
  failed : Bool
  age : Nat
  deriving DecidableEq, Repr

/-! ### Engine traffic -/

inductive CmdKind where
  | fpost | wpost | cpy | ratm | mred | mfill | copyList
  deriving DecidableEq, Repr

/-- How far the packets of a request or of a chain have come (R190, R202). -/
inductive Leg where
  | home                       -- not sent yet
  | sent                       -- its flits are on their way to the module
  | begun                      -- the first of them has been accepted there: it has arrived (R202)
  | there                      -- all of them have
  | answered                   -- the response is on its way back
  | back                       -- the response has been accepted
  deriving DecidableEq, Repr

/-- An engine command from its checks to its completion (R329), or a copy command of a list (R366). -/
structure Cmd where
  kind : CmdKind
  agent : Agent               -- the issuing team
  core : Nat                  -- its core, slot and number in the unit at issue
  slot : Nat
  team : Nat
  unit : Nat
  job : Nat
  spc : Word64
  tag : Nat
  scope : Nat
  acq : Bool
  rel : Bool
  win : Nat
  winSlot : Nat
  pegged : Bool               -- FPOST has its peg and slot (R61)
  base : Nat                  -- slot base or landing offset in the allocation
  dst : Tensor
  dstCoord : Word64
  src : Tensor
  srcCoord : Word64
  via : Tensor                -- the source of a view, as the checks found it (R104)
  holds : List Nat            -- identifiers it holds (R62)
  passed : Bool               -- every request has passed translation (R330)
  op : Nat                    -- RATM: op, size, operand, compare value
  size : Nat
  operand : Word64
  compare : Word64
  writing : Bool              -- its source has been read
  buf : FMap (Byte × Bool)    -- source bytes by address, with poison
  lost : Nat                  -- destination bytes that met PERM, the first of them and the leaf (R400)
  lostVa : Nat
  lostPte : Word64
  flt : Bool                  -- chain: STATUS so far (R201)
  psn : Bool
  hops : List (Nat × Bool)    -- chain: address and DST of each entry
  hop : Nat                   -- chain: hops done
  words : List Word32         -- running sum of MRED
  chain : Word64              -- word 0 of the chain block
  pat : Word64
  launch : Nat                -- copy sub-launch
  leg : Leg                   -- chain: of its first hop, and of its completion
  lastHop : Nat × Nat         -- chain: module and address of its last hop
  deriving DecidableEq, Repr

/-- What a request belongs to (R25). -/
inductive ReqKind where
  | fpost | wpost | cpySrc | cpyDst | ratm | chain | code | bind | header | record | list
  | copySrc | copyDst | completion
  deriving DecidableEq, Repr

/-- The life of a request (R18, R23, R27, R190). -/
inductive ReqState where
  | fresh                      -- to be translated
  | walking                    -- a walker works for it
  | holding                    -- met NOTPRESENT while the fault buffer is full (R27)
  | parked                     -- in the fault buffer (R23)
  | routed                     -- translated: on its way to the module
  | faulted                    -- a non-replayable fault (R24): answered without memory
  | returned                   -- response on its way back
  | arrived                    -- its bytes are here and wait for the other parts of its read (R344)
  | stuck                      -- a fault in a table read holds it (R29)
  | diverted                   -- it has come to a darning entry and is not yet in the shadow image (R414)
  deriving DecidableEq, Repr

/-- A request of at most 128 bytes within one aligned line (R18). -/
structure Req where
  kind : ReqKind
  cmd : Nat                    -- command, or the launch for the front end
  agent : Agent
  die : Nat
  job : Nat
  va : Nat
  len : Nat
  write : Bool
  zero : Bool                  -- bytes formed on the package, no memory read (R60)
  dest : Nat
  data : List Byte
  mask : List Byte
  psn : List Bool
  st : ReqState
  level : Nat                  -- walk: the level to read
  table : Nat                  -- walk: the table's far physical address
  module : Nat
  maddr : Nat
  sq : Bool
  revoked : Bool
  fkind : Nat                  -- async fault kind (R397)
  leg : Leg
  came : Nat                   -- order of its first flit's acceptance at the module (R202)
  deriving DecidableEq, Repr

/-- A gang access on its way to its target (R326, R327). -/
structure GangAccess where
  core : Nat
  slot : Nat
  instr : Nat
  lane : Nat
  op : Nat                     -- lane opcode 0x83 to 0x85
  sub : Nat
  gaddr : Nat                  -- the gang address
  addr : Nat                   -- offset in the target's allocation
  target : Nat                 -- unit
  data : Nat                   -- B as a number
  compare : Word32
  pend : Nat                   -- pending result it fills, 0 for a store
  acq : Bool                   -- later accesses of the lane wait for it (R150)
  fence : Bool                 -- an acquire fence stands behind it: every later access of the team waits (R156)
  seq : Nat                    -- of its queue entry
  launch : Nat                 -- of its team (R164)
  deriving DecidableEq, Repr

/-- An arrival on its way to member 0's barrier (R340). -/
structure GangArrival where
  unit : Nat
  n : Nat
  deriving DecidableEq, Repr

/-! ### Launches and queues -/

/-- State of a bundle (R368). -/
inductive BundleState where
  | queued          -- its header is read ahead (log 86)
  | taken | waiting | starting | running | completing | done
  deriving DecidableEq, Repr

/-- The vector record of a bundle (R365). -/
structure VecRec where
  ord : Bool
  aff : Bool
  gang : Nat                   -- gang size
  need : Need
  units : Nat
  entry : Word64
  lcb : Word64
  arg : Word64
  dies : BitVec 4
  deriving DecidableEq, Repr

/-- A taken bundle and its launch (R364, R368 to R370). -/
structure Launch where
  slot : Nat
  qid : Nat
  ring : Nat                   -- its number in the queue; injected bundles none
  qcb : Nat                    -- QCB of the queue
  injected : Bool
  job : Nat
  addr : Nat                   -- far virtual address of the header
  st : BundleState
  hdr : List Word64            -- header words as read
  recs : List (List Word64)    -- records read so far
  status : BitVec 8            -- STATUS bits [7:0]
  reason : Nat
  time : Nat
  tt : Bool
  tstart : Nat
  tend : Nat
  written : Nat                -- 0 nothing, 1 record on its way, 2 record, 3 signal
  counter : Counter
  firstFail : Nat
  nfail : Nat
  vec : Option VecRec
  ordNext : Nat
  ended : Nat                  -- units ended or discarded
  suspended : List Nat         -- indexes of suspended units of an ORD launch (R377)
  progs : Nat                  -- matrix programs that have not ended
  cmask : List Nat             -- clusters of CMASK that wait for their gang
  copies : Nat                 -- copy commands not completed
  pri : Nat                    -- CPRI of its slot at its last dispatch (R429)
  order : Nat                  -- its place among the bundles that have started (R345)
  deriving DecidableEq, Repr

/-- A unit that waits for a core: in a dispatcher or a unit queue (R373). -/
structure Queued where
  launch : Nat
  index : Nat
  job : Nat
  need : Need
  gang : Nat                   -- gang identity, 0: none
  member : Nat
  gangSize : Nat
  aff : Bool
  ord : Bool
  pri : Nat
  cluster : Option Nat         -- the cluster of CMASK that waits for this gang
  startTime : Nat              -- TT: first tick (R372)
  deriving DecidableEq, Repr

/-- A matrix program that waits for its slot (R345). -/
structure WaitingProg where
  launch : Nat
  job : Nat
  cluster : Nat
  tidCount : Nat
  entry : Word64
  arg : Word64
  g3 : Word64
  deriving DecidableEq, Repr

/-- A copy list (R366). -/
structure CopyList where
  launch : Nat
  job : Nat
  addr : Nat
  left : Nat                   -- commands not issued
  next_ : Nat                  -- number of the next command
  asked : Bool                 -- its read is out
  words : List Word64          -- its words, once read
  deriving DecidableEq, Repr

/-- A hardware queue slot (R425, R428, R429). -/
structure Slot where
  valid : Bool
  qcb : Nat
  ring : Nat
  job : Nat
  bpri : Nat
  cpri : Nat
  size : Nat
  qid : Nat
  ovf : Bool
  taken : Word32
  done : Word32
  gen : Bool
  gop : Nat
  gsig : Nat
  gval : Word64
  age : Nat
  windex : Word32
  injected : Option (List Word64) -- the injected bundle's 16 words
  gateHeld : Bool              -- parked on the gate signal
  gateOpen : Bool              -- the walk of an update released the head
  last : Nat                   -- the launch of its previous bundle, 0 for none
  ahead : Nat                  -- the launch of its head bundle while its header is read ahead, 0 for none
  deriving DecidableEq, Repr

/-- A completion queue (R431, R433). -/
structure CompQ where
  base : Word64
  ctl : Word64
  msia : Word64
  msid : Word32
  prod : Word32
  head : Word32
  unannounced : Nat
  oldest : Nat
  deriving DecidableEq, Repr

/-- A waiter of a signal (R430). -/
inductive Waiter where
  | slot (n : Nat)
  | hart (h : Nat) (rd : Nat) (cond : Nat) (c : Word64)
  deriving DecidableEq, Repr

/-- A castling role (R437, R440). -/
structure Role where
  state : Nat
  why : Nat
  img : Word64
  hob : Word64
  schema : BitVec 16
  image : Nat                -- CIMG as the start found it
  digest : List Byte         -- of the image that runs, or is held resident
  newDigest : List Byte
  probStart : Nat
  lastBeat : Nat
  deriving DecidableEq, Repr

/-- An entry of the system-call table (R451). -/
structure Call where
  tid : Word64
  state : Nat
  gen : BitVec 16
  svc : BitVec 16
  args : List Word64
  result : Word64
  caller : Nat × Nat           -- unit, team in unit
  posted : Bool                -- its queue entry has been written (R452)
  deriving DecidableEq, Repr

/-- A message of the interrupt buffer (R448). -/
structure IrqMsg where
  vec : Nat
  payload : Word64
  tid : Word64
  time : Nat
  unit : Nat                   -- the team that sent it
  index : Nat
  entries : Nat                -- its queue entries and accesses numbered below these come first: a release (R285)
  accesses : Nat
  deriving DecidableEq, Repr

/-! ### Translation -/

/-- A TLB entry (R19). -/
structure TlbEntry where
  job : Nat
  size : Nat         -- level of the leaf
  page : Nat
  pte : Word64
  at_ : Nat          -- far physical address of the leaf
  deriving DecidableEq, Repr

/-- An invalidation in progress (R20, R21). -/
structure Invalidation where
  scope : Nat
  job : Nat
  size : Nat
  va : Nat
  waits : List Nat   -- walks and translated requests it waits for
  deriving DecidableEq, Repr

/-- A darning entry (R414, R415). -/
structure Darning where
  state : Nat
  unit : Nat
  core : Nat
  base4k : Nat
  size4k : Nat
  job : Nat
  save : Nat
  ncore : Nat
  nbase4k : Nat
  pend : Nat
  out : Nat
  mark : Nat         -- requests numbered below it were in flight at HOLD
  deriving DecidableEq, Repr

/-- A die's translation unit, dispatcher and darning entries. -/
structure Die where
  tlb : List TlbEntry
  xinva : Word64
  xinvc : Word64
  inv : Option Invalidation
  xfbp : BitVec 11
  xfbc : BitVec 11
  xfb : FMap (List Word64)
  faultSeq : Word32
  darning : FMap Darning
  backlog : List Queued
  deriving DecidableEq, Repr

/-- A vector core beside its teams (R373, R375, R407, R456). -/
structure Core where
  unitQueue : List Queued
  steal : Word32
  stealState : Nat            -- 0 idle, 1 asked, 2 refused
  victim : Nat
  sent : Need                 -- free resources sent to the victim (R375)
  psave : Word64
  pcmdBusy : Bool
  pcmdSlot : BitVec 5
  pstat : Word64
  pdl : Word32
  cecnt : Word32
  skew : Int                  -- copy of the time base, relative (R372)
  path : Option Nat           -- slot of the team whose lane passes the datapath serves (R378)
  run : Nat                   -- its consecutive passes while another team could issue one (R379)
  readySince : Nat            -- its cycle since which a ready team waits for a place, plus 1; 0 when none does (R379)
  deriving DecidableEq, Repr

/-! ### Links -/

/-- A packet whose flits have not all been accepted: its first number, its flits, and the requests it carries or the
chain (R190). -/
structure Packet where
  first : BitVec 24
  flits : Nat
  ids : List Nat
  deriving DecidableEq, Repr

/-- One direction of a link: the sender's and the receiver's sides (R191 to R197). -/
structure LinkEnd where
  nextSeq : BitVec 24
  replay : List (BitVec 24 × List Byte) -- unacknowledged flits, oldest first: number and payload
  resend : List (BitVec 24)         -- of those, the ones a replay has not sent yet
  credits : Int
  expect : BitVec 24                -- receiver: the next expected number
  nakWait : Bool                    -- receiver: a NAK is out
  nakAt : Nat                       -- receiver: when it sent its last NAK
  nakSeq : BitVec 24                -- sender: the number NAKed last, and how often in a row
  nakCount : Nat
  sentSinceTele : Nat
  gotSinceAudit : Nat
  freeBufs : Int                    -- receiver: free buffers whose credits have been returned
  owed : Nat                        -- receiver: freed buffers whose credits have not been returned
  wire : List (List Byte × BitVec 18) -- the 256-byte flits on the fibre, oldest first; the dark lanes that lost some of it
  aged : Nat                        -- of those, how many were on the fibre at `agedAt` (R192)
  agedAt : Nat
  packets : List Packet
  epoch : BitVec 4                  -- receiver: its lane-map epoch
  deriving DecidableEq, Repr

/-- A Gorot link (R184, R185, R194, R458). -/
structure Link where
  busy : Bool
  target : BitVec 8                 -- MODULE of LCTL
  module : BitVec 8                 -- the module it is tuned to
  state : Nat
  epoch : BitVec 4
  active : BitVec 18
  healthy : BitVec 18
  replays : Word32
  badcrc : Word32
  ltest : Word64
  levbase : Word64
  levp : BitVec 8
  dark : BitVec 18                  -- transmitters darkened by LTEST
  gated : BitVec 18
  margins : FMap Int                -- last far-end margin: lane, module side at 18 + lane
  lowCount : FMap Nat               -- low margins in a row, same keys
  spareFor : FMap Nat               -- spare lane -> data position it is trained for
  widening : BitVec 18              -- lanes being lit
  full : Bool                       -- the retrain that runs is a full one
  since : Nat                       -- when it, or the tune that runs, began
  lost : Option Nat                 -- lane of the loss whose outage runs (R195)
  placed : BitVec 18                -- spares that stand in a lost position
  spareAt : Nat                     -- when the training of the next spare began (R194)
  quiet : Nat                       -- since when the send queue has been short (R458)
  lit : Nat                         -- when the lighting of more lanes began
  out : LinkEnd
  back : LinkEnd
  deriving DecidableEq, Repr

/-! ### The rest of the package -/

/-- A request sent through a root port (R446). -/
structure PcieReq where
  port : Nat
  config : Bool               -- of configuration space
  write : Bool
  addr : Nat                  -- bus address, or place in configuration space
  data : List Byte
  len : Nat
  deriving DecidableEq, Repr

/-- A firmware hart (R436, log 6). -/
structure Hart where
  pc : Word64
  x : FMap Word64
  mepc : Word64
  mcause : Word64
  mtval : Word64
  mtvec : Word64
  mstatus : Word64
  mie : Word64
  mscratch : Word64
  resv : Option (Nat × Nat × Nat) -- load reservation: address, bytes, value read
  wait : Wait
  deriving DecidableEq, Repr

/-- A control-core hart: RVA23 with hypervisor and vector, Sv57, Sstc and the AIA (R1, R443, R444, R459, log 101). -/
structure Control where
  on : Bool                   -- it has left reset
  hart : Hart                 -- pc, x registers, machine-level trap registers, reservation
  priv : Nat                  -- 0 U, 1 S, 3 M
  virt : Bool                 -- V: it runs a guest
  f : FMap Word64
  v : FMap (BitVec 128)
  csr : FMap Word64           -- the other CSRs, by number
  stimecmp : Word64
  vstimecmp : Word64
  loaded : Word64             -- what the last load or AMO of a `control` turn returned
  cause : Nat                 -- mcause of the last fault of one, 0 for none
  tval : Word64
  deriving DecidableEq, Repr

/-- A ring with a control block (R435) or the rings of R448 and R454. -/
structure RingRegs where
  base : Word64
  ctl : Word64
  prod : Word32
  head : Word32
  msia : Word64
  msid : Word32
  deriving DecidableEq, Repr

/-- Job-level registers (R15, R403, R437, R452). -/
structure Job where
  jctx : Word64
  jurb : Word64
  jurp : Word32
  jrms : Word64
  jscq : BitVec 9
  deriving DecidableEq, Repr

/-- A completion sent to an endpoint of a root port (R447). -/
structure PcieCpl where
  port : Nat
  ok : Bool                   -- else Unsupported Request
  data : List Byte
  poison : Bool
  deriving DecidableEq, Repr

/-- Capture (R441, R442). -/
structure Capture where
  mode : Nat
  base : Word64
  size : Word64
  ptr : Nat
  diff : Bool
  diffAt : Nat              -- index of the first tile record that differs
  index : Nat               -- replay: next record to search for a tile
  tiles : Nat               -- replay: tile records compared
  replayAt : Nat            -- replay: next record to search for a decision
  deriving DecidableEq, Repr

/-- Memories: far memory by module * 2^41 + address, scratchpads by core * 2^21 + offset. -/
structure Mem where
  far : FMap Byte
  farPsn : List Nat           -- poisoned words, address / 8
  spad : FMap Byte
  spadPsn : List Nat
  ecc : FMap Nat              -- damaged scratchpad words: 1 correctable, 2 uncorrectable (R81)
  deriving DecidableEq, Repr

/-- The package and the far memory it reaches. -/
structure State where
  -- the model's own (log 1, log 2)
  sched : List Turn
  cur : Agent
  freeCtr : Nat
  nextId : Nat
  -- streams and units
  teams : FMap Team           -- key core * 32 + slot
  progs : FMap Prog           -- key cluster * 4 + slot
  harts : FMap Hart
  fwIrq : FMap (BitVec 4)     -- firmware interrupts that wait, by hart: translation, link, event, castling
  controls : FMap Control
  units : FMap UnitRec
  clusters : FMap Cluster
  cores : FMap Core
  dies : FMap Die
  links : FMap Link
  pendings : FMap Pending
  gangAcc : FMap GangAccess
  gangArr : FMap GangArrival
  -- traffic
  cmds : FMap Cmd
  reqs : FMap Req
  -- launches
  launches : FMap Launch
  waitProgs : List (Nat × WaitingProg)
  copies : FMap CopyList
  graphs : FMap Counter       -- key job * 65536 + graph
  phases : FMap Counter
  jobCtr : FMap Counter
  slots : FMap Slot
  injSaved : FMap (List Word64) -- SLOTSTATE: an injected bundle of an unmapped queue, by QCB address
  cqs : FMap CompQ
  -- memories and code caches
  mem : Mem
  code : FMap Word32          -- cached code parcels: requester key * 2^64 + address
  -- registers
  now : Nat
  boot : Word64
  jobs : FMap Job
  extStaged : FMap Word64
  extLive : FMap Word64
  mrtStaged : FMap Word64
  mrtLive : FMap Word64
  extBusy : Bool
  cinv : Bool
  modSize : FMap Nat          -- GiB, default 2,048 (log 4)
  modRevoked : List (Nat × Nat)
  modDead : List Nat
  signals : FMap Word64
  waiters : FMap (List Waiter)
  qkick : FMap Word32
  kickPend : List Nat
  event : RingRegs
  roles : FMap Role
  heldHarts : FMap Hart       -- outgoing images, frozen, by role (R440)
  mlog : FMap (List Byte)
  mlogCnt : Nat               -- appends so far; MLOGCNT reads at most 256
  mlogOvf : Bool
  ownerDig : List Byte
  cap : Capture
  irqBuf : List IrqMsg
  irqRing : RingRegs
  irqv : FMap Word64
  errRing : RingRegs
  calls : FMap Call
  cmGen : Word32
  cmFence : List Nat
  ceLimit : Word32
  pwrCap : BitVec 16
  pwrStat : Word32
  pwrGate : Bool
  pwrClk : FMap (BitVec 11)
  clkBase : FMap (Nat × Nat)  -- the last clock change of a die: its time, and its cycles till then in thousandths (R2)
  settled : Nat               -- when the governor settled last (R457)
  ticked : Nat                -- the slot tick at which the copies of the time base were re-aligned last (R372)
  msis : List (Word64 × Word32) -- MSI writes sent, oldest first
  imsic : FMap (BitVec 2048)  -- pending identities, by address / 4096 (R443)
  imsicEie : FMap (BitVec 2048) -- enabled identities
  imsicDel : FMap Word64      -- eidelivery
  imsicThr : FMap Word64      -- eithreshold
  pcieOut : List PcieCpl      -- completions sent, oldest first
  pcieReqs : List PcieReq     -- requests sent, oldest first
  rootCfg : FMap Word32       -- configuration space of the root ports: port * 1024 + dword (R445)
  regs : FMap Word64          -- registers of the IOMMUs, by address (R447)
  deriving DecidableEq, Repr

/-! ### Values at reset and of unlisted keys -/

/-- A register full of zero (R223). -/
def Cell.zero : Cell := ⟨0, 0⟩
/-- A tag at placement (R88). -/
def Tag.zero : Tag := ⟨0, false, 0, false, false⟩
/-- A barrier at placement (R93). -/
def Barrier.zero : Barrier := ⟨0, 0, false, false⟩
/-- An unconfigured window (R70). -/
def Win.none : Win := ⟨0, 0, 0, 0, 0, false, 0, 0, 0, 0, 0, []⟩
/-- An unbound identifier (R100). -/
def TidEntry.unbound : TidEntry := ⟨.none, 0, false⟩
/-- A counter with nothing counted (R205). -/
def Counter.zero : Counter := ⟨false, false, 0, 0⟩
/-- A FREE bank (R84, R459). -/
def Bank.idle : Bank := ⟨.free, 0, 0⟩
/-- A cluster at reset (R459). -/
def Cluster.idle : Cluster := ⟨[], [], [], .none, [], [], [], [], [], [], []⟩
/-- An unmapped slot (R428). -/
def Slot.unmapped : Slot :=
  ⟨false, 0, 0, 0, 0, 0, 0, 0, false, 0, 0, false, 0, 0, 0, 0, 0, .none, false, false, 0, 0⟩
/-- A completion queue at reset (R431). -/
def CompQ.zero : CompQ := ⟨0, 0, 0, 0, 0, 0, 0, 0⟩
/-- An idle role (R437). -/
def Role.idle : Role := ⟨0, 0, 0, 0, 0, 0, [], [], 0, 0⟩
/-- A FREE call entry (R451). -/
def Call.free : Call := ⟨0, 0, 0, 0, [], 0, (0, 0), false⟩
/-- A FREE darning entry (R414). -/
def Darning.free : Darning := ⟨0, 0, 0, 0, 0, 0, 0, 0, 0, 0, 0, 0⟩
/-- A die at reset (R20, R26). -/
def Die.idle : Die := ⟨[], 0, 0, .none, 0, 0, [], 0, [], []⟩
/-- A core at reset (R375, R407). -/
def Core.idle (n : Nat) : Core :=
  ⟨[], 0x9E3779B9#32 ^^^ BitVec.ofNat 32 (n * 0x10003), 0, 0, ⟨0, 0, 0, 0, 0, 0, 0⟩, 0, false, 0, 0, 0x4E20, 0, 0, .none, 0, 0⟩
/-- One direction of a link at reset (R192). -/
def LinkEnd.idle : LinkEnd := ⟨0, [], [], 512, 0, false, 0, 0, 0, 0, 0, 512, 0, [], 0, 0, [], 0⟩
/-- A link at reset (R185). -/
def Link.down : Link :=
  ⟨false, 0, 0, 0, 0, 0, 0, 0, 0, 0, 0, 0, 0, 0, [], [], [], 0, false, 0, .none, 0, 0, 0, 0, LinkEnd.idle, LinkEnd.idle⟩
/-- A firmware hart at reset (log 6). -/
def Hart.zero : Hart := ⟨0, [], 0, 0, 0, 0, 0, 0, 0, .none, .none⟩
/-- A control-core hart held in reset (R459; log 101 for its timers). -/
def Control.held : Control :=
  ⟨false, Hart.zero, 3, false, [], [], [], BitVec.allOnes 64, BitVec.allOnes 64, 0, 0, 0⟩
/-- One that has left reset at an address, with its number in a0 (R459). -/
def Control.started (pc : Word64) (h : Nat) : Control :=
  { Control.held with on := true, hart := { Hart.zero with pc, x := FMap.put [] 10 (BitVec.ofNat 64 h) } }
/-- A ring's registers at reset (R448, R454; log 5 for the event ring). -/
def RingRegs.zero : RingRegs := ⟨0, 0, 0, 0, 0, 0⟩
/-- A job's registers at reset (R15, R403; log 5). -/
def Job.zero : Job := ⟨0, 0, 0, 0, 0⟩
/-- A tensor snapshot of no tensor. -/
def Tensor.none : Tensor := ⟨0, 0, 0, false, false, 1, 0, 0, 0, [1, 1, 1, 1], [0, 0, 0], 0, 0, 0⟩

/-- A stream that starts at `spc` with every g register 0, full (R223, R345). -/
def Thread.start (spc : Word64) : Thread :=
  ⟨spc, [], [], 0, 0, 0, 0, false, BitVec.allOnes 64, [], .none, []⟩

/-- The mask of the lanes a team of `warps` warps launched (R220). -/
def launchedMask (warps : Nat) : BitVec 1024 := BitVec.ofNat 1024 (2 ^ (32 * warps) - 1)

/-- A team at launch (R223, R224). -/
def Team.start (unit index warps : Nat) (spc lcb arg : Word64) : Team :=
  { unit, index, warps, th := { Thread.start spc with g := [(1, arg)] }, lpc := lcb, lcb, queue := [], v := [],
    q := [], c := [], k := [(0, launchedMask warps)], tmode := 0, fstat := 0, ften := 0, telpc := 0, keylo := 0,
    keyhi := 0, pipecfg := 0, sysmbx := 0, fmask := 0, fencedAt := 0, sfq := [], sfqPos := 0, sfqWait := [], opLog := [],
    laneWait := .none, set_ := .zeroFill, age := 0, since := 0, live := .none, cancelled := false, aborted := .none,
    hurt := false }

/-- A unit at placement (R77, R87, R92, R100). -/
def UnitRec.start (launch index job core base4k : Nat) (need : Need) : UnitRec :=
  { launch, index, job, core, base4k, need, gang := 0, member := 0, gangSize := 1, gangRetired := false,
    slots := [], st := .zeroing, counter := Counter.zero, failed := false, windows := [], tags := [], bars := [],
    tids := [], pipes := [], pipeClaims := [], exited := [], last := [], save := 0, entry := 0, resumeCore := 0, auto := false, events := [],
    lostEvents := 0, deadline := 0, savedTeams := [], placed := true }

/-- The package right after reset (R7, R8, R459): every register at its reset value, nothing resident. -/
def State.reset : State :=
  { sched := [], cur := .device, freeCtr := 0, nextId := 1, teams := [], progs := [], harts := [], fwIrq := [], controls := [], units := [],
    clusters := [], cores := [], dies := [], links := [], pendings := [], gangAcc := [], gangArr := [],
    cmds := [], reqs := [], launches := [], waitProgs := [], copies := [], graphs := [], phases := [],
    jobCtr := [], slots := [], injSaved := [], cqs := [], mem := ⟨[], [], [], [], []⟩, code := [], now := 0, boot := 0,
    jobs := [], extStaged := [], extLive := [], mrtStaged := [], mrtLive := [], extBusy := false, cinv := false,
    modSize := [], modRevoked := [], modDead := [], signals := [], waiters := [], qkick := [], kickPend := [],
    event := RingRegs.zero, roles := [], heldHarts := [], mlog := [], mlogCnt := 0, mlogOvf := false, ownerDig := [],
    cap := ⟨0, 0, 0, 0, false, 0, 0, 0, 0⟩, irqBuf := [], irqRing := RingRegs.zero, irqv := [],
    errRing := RingRegs.zero, calls := [], cmGen := 0, cmFence := [], ceLimit := 0, pwrCap := 3600, pwrStat := 0,
    pwrGate := true, pwrClk := [], clkBase := [], settled := 0, ticked := 0, msis := [], imsic := [], imsicEie := [], imsicDel := [], imsicThr := [], pcieOut := [], pcieReqs := [], rootCfg := [], regs := [] }

end Sys2Proof.Machine
end

