-- ==== Sys2Proof/Machine/Memory.lean ====
section
/-! DEFINITION. Bytes and poison of far memory (R33, R464) and of scratchpads (R80 to R82), in one canonical
form; the extent lookup (R30 to R34). -/

namespace Sys2Proof.Machine
open Sys2Proof

/-! ### Sets of numbers in rising order -/

/-- Add `k` to a rising list. -/
def setIns : List Nat → Nat → List Nat
  | [], k => [k]
  | j :: l, k => bif j == k then j :: l else bif Nat.blt k j then k :: j :: l else j :: setIns l k

/-- Remove `k` from a rising list. -/
def setDel : List Nat → Nat → List Nat
  | [], _ => []
  | j :: l, k => bif j == k then l else j :: setDel l k

/-- The list rises strictly. -/
def setSorted : List Nat → Bool
  | [] => true
  | [_] => true
  | j :: k :: l => Nat.blt j k && setSorted (k :: l)

/-! ### Bytes -/

/-- What an unlisted byte reads as: SRAM is written zero (R459); far memory by log 3. -/
def blankByte : Byte := 0

/-- The byte at key `k`. -/
def byteAt (m : FMap Byte) (k : Nat) : Byte := m.look blankByte k

/-- Write the byte at key `k`, listing nothing that equals the blank byte. -/
def putByte (m : FMap Byte) (k : Nat) (b : Byte) : FMap Byte :=
  if b = blankByte then m.del k else m.put k b

/-- The `n` bytes from key `k` on. -/
def bytesAt (m : FMap Byte) (k : Nat) : Nat → List Byte
  | 0 => []
  | n + 1 => byteAt m k :: bytesAt m (k + 1) n

/-- Write consecutive bytes from key `k` on. -/
def putBytes (m : FMap Byte) (k : Nat) : List Byte → FMap Byte
  | [] => m
  | b :: bs => putBytes (putByte m k b) (k + 1) bs

/-- No entry equals what an unlisted address reads as. -/
def noBlank : FMap Byte → Bool
  | [] => true
  | (_, b) :: m => b != blankByte && noBlank m

/-- The canonical form of the memories: rising keys, no blank entry, rising poison lists. -/
def Memory.wf (m : Mem) : Bool :=
  m.far.sorted && noBlank m.far && m.spad.sorted && noBlank m.spad && setSorted m.farPsn && setSorted m.spadPsn

/-! ### Poison of 8-byte words (R82, R464) -/

/-- The words of `n` bytes from `k` on, as word numbers. -/
def wordsOf (k n : Nat) : List Nat :=
  if n == 0 then [] else List.range' (k / 8) ((k + n - 1) / 8 - k / 8 + 1)

/-- The first poisoned word among `n` bytes from `k` on. -/
def poisonIn (p : List Nat) (k n : Nat) : Option Nat := (wordsOf k n).find? (p.contains ·)

/-- Poison after a write of `n` bytes from `k` on: a poisoned write sets every word it reaches; a clean one
clears the words it covers whole and leaves the others. -/
def poisonAfter (p : List Nat) (k n : Nat) (psn : Bool) : List Nat :=
  (wordsOf k n).foldl (fun p w =>
    if psn then setIns p w
    else if k ≤ 8 * w && 8 * w + 8 ≤ k + n then setDel p w else p) p

/-! ### Numbers in bytes (R6) -/

/-- Little-endian bytes of a word. -/
def wordBytes (n : Nat) (w : Word64) : List Byte := bytesOfNum n w.toNat

/-- The word of at most 8 little-endian bytes. -/
def bytesWord (bs : List Byte) : Word64 := BitVec.ofNat 64 (numOfBytes bs)

/-! ### Scratchpad -/

/-- Key of a core's scratchpad byte (R77). -/
def spadKey (core off : Nat) : Nat := core * 0x200000 + off

/-- Read `n` bytes at a core offset. -/
def spadRead (s : State) (core off n : Nat) : List Byte := bytesAt s.mem.spad (spadKey core off) n

/-- The core offset of the first poisoned word that an access of `n` bytes touches (R82). -/
def spadPoison (s : State) (core off n : Nat) : Option Nat :=
  match poisonIn s.mem.spadPsn (spadKey core off) n with
  | some w => some (8 * w - core * 0x200000)
  | none => none

/-- Damaged words after a write of `n` bytes from `k` on: a word written whole has its ECC recomputed; an error that a read has
found in the same step stays to be reported (R81). -/
def eccAfter (m : FMap Nat) (k n : Nat) : FMap Nat :=
  m.filter (fun e => 3 ≤ e.2 || !(k ≤ 8 * e.1 && 8 * e.1 + 8 ≤ k + n))

/-- Write bytes at a core offset, with or without poison (R82). -/
def spadWrite (s : State) (core off : Nat) (bs : List Byte) (psn : Bool) : State :=
  let k := spadKey core off
  { s with mem := { s.mem with
      spad := putBytes s.mem.spad k bs,
      spadPsn := poisonAfter s.mem.spadPsn k bs.length psn,
      ecc := eccAfter s.mem.ecc k bs.length } }

/-- Set every byte of a range to zero, clean: zero fill (R78). -/
def spadClear (s : State) (core off n : Nat) : State :=
  let k := spadKey core off
  { s with mem := { s.mem with
      spad := s.mem.spad.filter (fun e => !(k ≤ e.1 && e.1 < k + n)),
      spadPsn := s.mem.spadPsn.filter (fun w => !(k ≤ 8 * w && 8 * w < k + n)),
      ecc := eccAfter s.mem.ecc k n } }

/-! ### Far memory -/

/-- Key of a module byte (R33). -/
def farKey (module maddr : Nat) : Nat := module * 2 ^ 41 + maddr

/-- Size of a module in bytes (log 4). -/
def moduleBytes (s : State) (m : Nat) : Nat := s.modSize.look 2048 m * 2 ^ 30

/-- Whether the module answers an address as revoked: a revoked extent, or one beyond its size (R33, R202). -/
def moduleRevokes (s : State) (m maddr : Nat) : Bool :=
  s.modRevoked.contains (m, maddr / 2 ^ 30) || moduleBytes s m ≤ maddr

/-- Result of the extent lookup (R32, R33). -/
inductive Extent where
  | routed (module maddr : Nat) (shr : Bool)
  | revoked
  | noExtent
  deriving DecidableEq, Repr

/-- The module extent ME[i] of a table entry (R31). -/
def extentMe (w0 w1 : Nat) (i : Nat) : Nat :=
  if i < 3 then bits w0 (11 * i) 11 else bits w1 (11 * (i - 3)) 11

/-- Whether a route entry with V = 1 names the module (R34). -/
def routed (s : State) (m : Nat) : Bool :=
  s.mrtLive.any (fun e => e.1 < 16 && bits e.2.toNat 0 1 == 1 && bits e.2.toNat 56 8 == m)

/-- The extent lookup on the committed tables (R30, R33, R34). -/
def extentOf (s : State) (pa : Nat) : Extent :=
  if bits pa 45 7 != 0 || 2 ^ 52 ≤ pa then .noExtent
  else
    let g := bits pa 33 12
    let i := bits pa 30 3
    let w0 := (s.extLive.look 0 (2 * g)).toNat
    let w1 := (s.extLive.look 0 (2 * g + 1)).toNat
    if bits w0 (48 + i) 1 == 1 then
      if routed s (bits w0 56 8) then
        .routed (bits w0 56 8) (extentMe w0 w1 i * 2 ^ 30 + bits pa 0 30) (bits w0 (40 + i) 1 == 1)
      else .noExtent
    else if bits w1 (56 + i) 1 == 1 then .revoked
    else .noExtent

/-- Read module bytes, with whether any word of them is poisoned (R464). -/
def moduleRead (s : State) (m maddr n : Nat) : List Byte × Bool :=
  (bytesAt s.mem.far (farKey m maddr) n, (poisonIn s.mem.farPsn (farKey m maddr) n).isSome)

/-- The poison of each byte of a module read (R464). -/
def modulePoisonBits (s : State) (m maddr n : Nat) : List Bool :=
  (List.range n).map (fun j => s.mem.farPsn.contains ((farKey m maddr + j) / 8))

/-- Write module bytes, with or without poison (R464). -/
def moduleWrite (s : State) (m maddr : Nat) (bs : List Byte) (psn : Bool) : State :=
  let k := farKey m maddr
  { s with mem := { s.mem with
      far := putBytes s.mem.far k bs,
      farPsn := poisonAfter s.mem.farPsn k bs.length psn } }

/-- A read of far physical memory within one extent; none where it is not valid, poison where it is revoked (R49). -/
def extentRead (s : State) (pa n : Nat) : Option (List Byte × Bool) :=
  match extentOf s pa with
  | .routed m a _ => if moduleRevokes s m a then some (List.replicate n 0, true) else some (moduleRead s m a n)
  | _ => none

/-- A write of far physical memory within one extent; dropped where it is not valid. -/
def extentWrite (s : State) (pa : Nat) (bs : List Byte) (psn : Bool) : State :=
  match extentOf s pa with
  | .routed m a _ => if moduleRevokes s m a then s else moduleWrite s m a bs psn
  | _ => s

/-- Bytes left in the 1 GiB extent of an address (R33). -/
def extentLeft (pa : Nat) : Nat := 2 ^ 30 - pa % 2 ^ 30

/-- The pieces of a range that lie in one extent each, by their first bytes' distance from it. -/
def extentPieces (pa n : Nat) : List (Nat × Nat) :=
  (0, min n (extentLeft pa)) ::
    (List.range ((n - extentLeft pa + 2 ^ 30 - 1) / 2 ^ 30)).map (fun k =>
      (extentLeft pa + k * 2 ^ 30, min (2 ^ 30) (n - extentLeft pa - k * 2 ^ 30)))

/-- A device read of far physical memory, extent by extent; none where some byte has no valid extent (R33, R49). -/
def physRead (s : State) (pa n : Nat) : Option (List Byte × Bool) :=
  if n ≤ extentLeft pa then extentRead s pa n
  else (extentPieces pa n).foldl (fun r p =>
    match r, extentRead s (pa + p.1) p.2 with
    | some x, some y => some (x.1 ++ y.1, x.2 || y.2)
    | _, _ => none) (some ([], false))

/-- A device write of far physical memory, extent by extent; dropped where there is no valid extent. -/
def physWrite (s : State) (pa : Nat) (bs : List Byte) (psn : Bool) : State :=
  if bs.length ≤ extentLeft pa then extentWrite s pa bs psn
  else (extentPieces pa bs.length).foldl (fun s p => extentWrite s (pa + p.1) ((bs.drop p.1).take p.2) psn) s

/-- An 8-byte word of far physical memory, 0 where it cannot be read. -/
def physWord (s : State) (pa : Nat) : Word64 :=
  match physRead s pa 8 with
  | some (bs, _) => bytesWord bs
  | none => 0

/-- Write words one after another. -/
def physWriteWords (s : State) (pa : Nat) (ws : List Word64) : State :=
  physWrite s pa (ws.flatMap (wordBytes 8)) false

end Sys2Proof.Machine
end

