-- ==== Sys2Proof/Machine/Crypto.lean ====
section
/-! DEFINITION. The digest and the signature that images carry: SHAKE256 (R438 to R440, R460) and Ed448 (R439, R461),
as their standards, FIPS 202 and RFC 8032, lay them down (log 30). -/

namespace Sys2Proof.Machine
open Sys2Proof

/-! ### SHAKE256 -/

/-- Rotation of each lane, by lane number x + 5 y. -/
def keccakRot : List Nat :=
  [0, 1, 62, 28, 27, 36, 44, 6, 55, 20, 3, 10, 43, 25, 39, 41, 45, 15, 21, 8, 18, 2, 61, 56, 14]

/-- Round constants. -/
def keccakConst : List Word64 :=
  [0x0000000000000001, 0x0000000000008082, 0x800000000000808A, 0x8000000080008000, 0x000000000000808B,
   0x0000000080000001, 0x8000000080008081, 0x8000000000008009, 0x000000000000008A, 0x0000000000000088,
   0x0000000080008009, 0x000000008000000A] ++
  [0x000000008000808B, 0x800000000000008B, 0x8000000000008089, 0x8000000000008003, 0x8000000000008002,
   0x8000000000000080, 0x000000000000800A, 0x800000008000000A, 0x8000000080008081, 0x8000000000008080,
   0x0000000080000001, 0x8000000080008008]

/-- One round on 25 lanes: theta, rho, pi, chi and iota. -/
def keccakRound (a : List Word64) (rc : Word64) : List Word64 :=
  let at_ (l : List Word64) (i : Nat) : Word64 := l.getD i 0
  let c := (List.range 5).map (fun x => (List.range 5).foldl (fun (v : Word64) y => v ^^^ at_ a (x + 5 * y)) 0)
  let d := (List.range 5).map (fun x => at_ c ((x + 4) % 5) ^^^ (at_ c ((x + 1) % 5)).rotateLeft 1)
  let t := (List.range 25).map (fun i => (at_ a i ^^^ at_ d (i % 5)).rotateLeft (keccakRot.getD i 0))
  -- lane (x, y) after pi comes from lane (x + 3 y, x)
  let b := (List.range 25).map (fun i => at_ t ((i % 5 + 3 * (i / 5)) % 5 + 5 * (i % 5)))
  let e := (List.range 25).map (fun i =>
    at_ b i ^^^ (~~~(at_ b ((i + 1) % 5 + 5 * (i / 5))) &&& at_ b ((i + 2) % 5 + 5 * (i / 5))))
  match e with
  | [] => []
  | x :: l => (x ^^^ rc) :: l

def keccakF (a : List Word64) : List Word64 := keccakConst.foldl keccakRound a

/-- Absorb blocks of 136 bytes, `n` of them. -/
def absorb (st : List Word64) (bs : List Byte) : Nat → List Word64
  | 0 => st
  | n + 1 =>
    let st := (List.range 25).map (fun i =>
      st.getD i 0 ^^^ (if i < 17 then bytesWord ((bs.drop (8 * i)).take 8) else 0))
    absorb (keccakF st) (bs.drop 136) n

/-- The first `n` bytes, at most 136, of SHAKE256. -/
def shake256 (bs : List Byte) (n : Nat) : List Byte :=
  let pad := 136 - bs.length % 136
  let tail : List Byte := if pad == 1 then [0x9F] else 0x1F :: List.replicate (pad - 2) 0 ++ [0x80]
  ((absorb (List.replicate 25 0) (bs ++ tail) (bs.length / 136 + 1)).flatMap (wordBytes 8)).take n

/-! ### Ed448 -/

/-- The field prime. -/
def edP : Nat := 2 ^ 448 - 2 ^ 224 - 1
/-- The curve constant -39081. -/
def edD : Nat := edP - 39081
/-- The order of the base point. -/
def edL : Nat := 2 ^ 446 - 13818066809895115352007386748515426880336692474882178609894547503885

/-- A point with projective coordinates. -/
structure EdPoint where
  x : Nat
  y : Nat
  z : Nat
  deriving DecidableEq, Repr

def EdPoint.add (p q : EdPoint) : EdPoint :=
  let a := p.z * q.z % edP
  let b := a * a % edP
  let c := p.x * q.x % edP
  let d := p.y * q.y % edP
  let e := edD * c % edP * d % edP
  let f := (b + edP - e) % edP
  let g := (b + e) % edP
  let h := (p.x + p.y) * (q.x + q.y) % edP
  ⟨a * f % edP * (h + 2 * edP - c - d) % edP, a * g % edP * (d + edP - c) % edP, f * g % edP⟩

/-- `k` times a point, over `n` bits from the lowest. -/
def EdPoint.mul (p : EdPoint) (k : Nat) : Nat → EdPoint
  | 0 => ⟨0, 1, 1⟩
  | n + 1 =>
    let r := (p.add p).mul (k / 2) n
    if k % 2 == 1 then r.add p else r

/-- A power modulo the prime, over `n` bits of the exponent. -/
def edPow (b e : Nat) : Nat → Nat
  | 0 => 1
  | n + 1 =>
    let r := edPow (b * b % edP) (e / 2) n
    if e % 2 == 1 then r * b % edP else r

/-- The point a 57-byte encoding names. -/
def edDecode (v : Nat) : Option EdPoint :=
  let y := v % 2 ^ 455
  let sign := v / 2 ^ 455 % 2
  if edP ≤ y then none
  else
    let num := (y * y + edP - 1) % edP
    let den := (edD * (y * y % edP) + edP - 1) % edP
    let x2 := num * edPow den (edP - 2) 448 % edP
    let x := edPow x2 ((edP + 1) / 4) 448
    if x * x % edP != x2 || (x == 0 && sign == 1) then none
    else some ⟨if x % 2 == sign then x else edP - x, y, 1⟩

/-- The base point's encoding: its y, with an even x. -/
def edBase : Nat :=
  298819210078481492676017930443930673437544040154080242095928241372331506189835876003536878655418784733982303233503462500531545062832660

/-- The octets a signature is hashed with: "SigEd448", no prehash, no context. -/
def edDom : List Byte := [0x53, 0x69, 0x67, 0x45, 0x64, 0x34, 0x34, 0x38, 0, 0]

def EdPoint.same (p q : EdPoint) : Bool :=
  p.x * q.z % edP == q.x * p.z % edP && p.y * q.z % edP == q.y * p.z % edP

/-- Whether a 114-byte signature of a message verifies under a 57-byte key. -/
def ed448Verify (key msg sig : List Byte) : Bool :=
  match edDecode (numOfBytes key), edDecode (numOfBytes (sig.take 57)), edDecode edBase with
  | some a, some r, some b =>
    let s := numOfBytes (sig.drop 57)
    let k := numOfBytes (shake256 (edDom ++ sig.take 57 ++ key ++ msg) 114) % edL
    sig.length == 114 && key.length == 57 && s < edL &&
      (b.mul (4 * s) 450).same ((r.add (a.mul k 450)).mul 4 3)
  | _, _, _ => false

end Sys2Proof.Machine
end

