-- ==== Sys2Proof/Config.lean ====
section
/-! DEFINITION. The values the manual leaves open: constants without a body, applied to a counter of State, to an
operand or to a reading (log 2). -/

namespace Sys2Proof.Config

/-- A value the manual leaves open, one for each count of State.freeCtr (log 2). -/
opaque freeWord : Nat → BitVec 64

/-- Whether the TLB gives up an entry, and which, when one is installed (R19, log 9). -/
opaque tlbVictim : Nat → Nat → Option Nat

/-- Whether a code cache gives up a line, and which, when one is filled: cache, fill (R47, log 92). -/
opaque codeVictim : Nat → Nat → Option Nat

/-- Which of two neighbouring values a special function returns: op, operand (R313, log 20). -/
opaque specialUp : Nat → BitVec 32 → Bool

/-- From which operand on a monotonic special function delivers a code: op, sign of the result, code (R313, log 20). -/
opaque specialFrom : Nat → Bool → Nat → Int

/-- The fixed hash of a module address that chooses a link of a route mask (R187, log 31). -/
opaque linkHash : Nat → Nat

/-- Laser watts that keep every active lane's margin, and the watts the rest of the package draws (R457, log 32). -/
opaque laserNeed : Nat → Nat
opaque watts : Nat → Nat
/-- What a lane's margin exceeds 40 by once its laser has the power granted: settling, link, lane (R457, log 32). -/
opaque grantMargin : Nat → Nat → Nat → Nat
/-- The clock steps the governor chooses for a die, in 25 MHz steps from 900 (R457, log 32). -/
opaque clockStep : Nat → Nat → Nat

/-- Whether the self-test of a bring-up finds a core failing: bring-up, core (R459, log 33). -/
opaque coreFails : Nat → Nat → Bool

/-- Whether a role gives up a step of bring-up that has not succeeded: step, count (R459, log 33). -/
opaque stepFails : Nat → Nat → Bool

/-- Registers of a root port's configuration space that identify it, by dword (R445, log 115). -/
opaque rootCfg : Nat → BitVec 32

/-- What an endpoint answers to a request of some bytes: a value, or none for an error (R446, log 102). -/
opaque pcieReply : Nat → Nat → Option (BitVec 64)

/-- The bytes of the boot store (R461, log 30). -/
opaque bootStore : Nat → BitVec 8
/-- The vendor key, 57 bytes as a number (R461, log 30). -/
opaque vendorKey : Nat

end Sys2Proof.Config
end

