-- ==== Sys2Proof/Machine/Ops.lean ====
section
/-! DEFINITION. The operations every meaning is built from: streams and their registers, blocking, taking a
trap (R392) and leaving a handler (R395), the end of teams, programs and units (R205, R287, R352, R404, R405). -/

namespace Sys2Proof.Machine
open Sys2Proof

/-! ### Outcomes -/

/-- The outcome of an instruction or occasion. -/
abbrev Result := Host.Outcome State Fault Refusal

/-- A value the manual leaves open, with the counter advanced (log 2). -/
def freeValue (s : State) : Word64 × State :=
  (Config.freeWord s.freeCtr, { s with freeCtr := s.freeCtr + 1 })

/-- A fresh identifier. -/
def freshId (s : State) : Nat × State := (s.nextId, { s with nextId := s.nextId + 1 })

/-! ### Reaching the parts of State -/

def teamKey (core slot : Nat) : Nat := core * 32 + slot
def progKey (cluster slot : Nat) : Nat := cluster * 4 + slot

/-- The core number that stands for the saved teams of unit `u` (R409): a team there is reached by its number in
the unit, so that what arrives for it is kept with its state (R229). -/
def savedCore (u : Nat) : Nat := 0x10000 + u

def State.team (s : State) (core slot : Nat) : Option Team :=
  if core < 0x10000 then s.teams.find (teamKey core slot)
  else match s.units.find (core - 0x10000) with
    | some r => r.savedTeams.find slot
    | none => none
def State.setTeam (s : State) (core slot : Nat) (t : Team) : State :=
  if core < 0x10000 then { s with teams := s.teams.put (teamKey core slot) t }
  else match s.units.find (core - 0x10000) with
    | some r => { s with units := s.units.put (core - 0x10000) { r with savedTeams := r.savedTeams.put slot t } }
    | none => s
def State.prog (s : State) (cl slot : Nat) : Option Prog := s.progs.find (progKey cl slot)
def State.setProg (s : State) (cl slot : Nat) (p : Prog) : State :=
  { s with progs := s.progs.put (progKey cl slot) p }
def State.unit (s : State) (u : Nat) : Option UnitRec := s.units.find u
def State.setUnit (s : State) (u : Nat) (r : UnitRec) : State := { s with units := s.units.put u r }
def State.launch (s : State) (l : Nat) : Option Launch := s.launches.find l
def State.setLaunch (s : State) (l : Nat) (r : Launch) : State := { s with launches := s.launches.put l r }
def State.cluster (s : State) (c : Nat) : Cluster := s.clusters.look Cluster.idle c
def State.setCluster (s : State) (c : Nat) (r : Cluster) : State := { s with clusters := s.clusters.put c r }
def State.die (s : State) (d : Nat) : Die := s.dies.look Die.idle d
def State.setDie (s : State) (d : Nat) (r : Die) : State := { s with dies := s.dies.put d r }
def State.core (s : State) (n : Nat) : Core := s.cores.look (Core.idle n) n
def State.setCore (s : State) (n : Nat) (r : Core) : State := { s with cores := s.cores.put n r }
def State.link (s : State) (n : Nat) : Link := s.links.look Link.down n
def State.setLink (s : State) (n : Nat) (r : Link) : State := { s with links := s.links.put n r }
def State.slot (s : State) (n : Nat) : Slot := s.slots.look Slot.unmapped n
def State.setSlot (s : State) (n : Nat) (r : Slot) : State := { s with slots := s.slots.put n r }
def State.hart (s : State) (h : Nat) : Hart := s.harts.look Hart.zero h
def State.setHart (s : State) (h : Nat) (r : Hart) : State := { s with harts := s.harts.put h r }
/-- A firmware interrupt is raised on a hart: 0 translation (R23), 1 link (R195), 2 event (R434), 3 castling (R440). -/
def raiseOn (s : State) (h src : Nat) : State :=
  { s with fwIrq := s.fwIrq.put h (s.fwIrq.look 0 h ||| (1#4 <<< src)) }
/-- A firmware interrupt is raised on every hart (log 101). -/
def raiseFirmware (s : State) (src : Nat) : State := [0, 1, 2, 3].foldl (fun s h => raiseOn s h src) s
def State.job (s : State) (j : Nat) : Job := s.jobs.look Job.zero j
def State.setJob (s : State) (j : Nat) (r : Job) : State := { s with jobs := s.jobs.put j r }

/-- Update a unit where it exists. -/
def State.onUnit (s : State) (u : Nat) (f : UnitRec → UnitRec) : State :=
  match s.unit u with
  | some r => s.setUnit u (f r)
  | none => s

/-- Update a launch where it exists. -/
def State.onLaunch (s : State) (l : Nat) (f : Launch → Launch) : State :=
  match s.launch l with
  | some r => s.setLaunch l (f r)
  | none => s

/-- Update a team where it exists. -/
def State.onTeam (s : State) (core slot : Nat) (f : Team → Team) : State :=
  match s.team core slot with
  | some r => s.setTeam core slot (f r)
  | none => s

/-- Update a program where it exists. -/
def State.onProg (s : State) (cl slot : Nat) (f : Prog → Prog) : State :=
  match s.prog cl slot with
  | some r => s.setProg cl slot (f r)
  | none => s

/-- The scalar stream of an agent. -/
def State.thread (s : State) : Agent → Option Thread
  | .team c t => (s.team c t).map (·.th)
  | .prog c p => (s.prog c p).map (·.th)
  | _ => none

/-- Update the scalar stream of an agent. -/
def State.onThread (s : State) (a : Agent) (f : Thread → Thread) : State :=
  match a with
  | .team c t => s.onTeam c t (fun r => { r with th := f r.th })
  | .prog c p => s.onProg c p (fun r => { r with th := f r.th })
  | _ => s

/-- The resident teams of a unit, as (slot, team). -/
def State.teamsOf (s : State) (u : Nat) : List (Nat × Team) :=
  (s.teams.filter (fun e => e.2.unit == u)).map (fun e => (e.1 % 32, e.2))

/-- The cluster of a vector core (R1). -/
def clusterOf (core : Nat) : Nat := core / 4
/-- The die of a vector core (R1). -/
def dieOf (core : Nat) : Nat := core / 256
/-- The die of a cluster (R1). -/
def clusterDie (cl : Nat) : Nat := cl / 64

/-- The die whose translation unit serves an agent (R12). -/
def agentDie : Agent → Nat
  | .team c _ => dieOf c
  | .prog c _ => clusterDie c
  | _ => 0

/-! ### g registers (R208, R211, R263) -/

/-- The value of g register `r`; g0 reads as zero. -/
def Thread.rd (t : Thread) (r : BitVec 5) : Word64 := if r = 0 then 0 else t.g.look 0 r.toNat

/-- Write g register `r`; a write to g0 is discarded. -/
def Thread.wr (t : Thread) (r : BitVec 5) (v : Word64) : Thread :=
  if r = 0 then t else { t with g := t.g.put r.toNat v }

/-- Whether g register `r` is full. -/
def Thread.full (t : Thread) (r : BitVec 5) : Bool := r == 0 || t.gPend.look 0 r.toNat == 0

/-- The first empty register among those an instruction names (R211, R263). -/
def Thread.firstEmpty (t : Thread) : List (BitVec 5) → Option Nat
  | [] => none
  | r :: rs => if t.full r then t.firstEmpty rs else some r.toNat

/-- Go on at `pc`: the instruction has retired. -/
def Thread.goto (t : Thread) (pc : Word64) : Thread :=
  { t with spc := pc, wait := .none, stage := t.stage.del t.spc.toNat }

/-- Go on at the next instruction. -/
def Thread.next_ (t : Thread) : Thread := t.goto (t.spc + 4)

/-- The stage the instruction at SPC has reached. -/
def Thread.at_ (t : Thread) : Option Stage := t.stage.find t.spc.toNat

/-- Record how far the instruction at SPC has come. -/
def Thread.setStage (t : Thread) (g : Stage) : Thread := 
  { t with stage := t.stage.put t.spc.toNat g }

/-- Handler mode: TCAUSE.H (R393, R394). -/
def Thread.handler (t : Thread) : Bool := t.tcause.getLsbD 63

/-! ### Counters of the levels (R205) -/

def satCount (n : Nat) : Nat := min n 0x7FFFFFFF

def Counter.start (c : Counter) (n : Nat) : Counter := { c with started := satCount (c.started + n) }
def Counter.finish (c : Counter) (fail : Bool) : Counter :=
  { c with done := satCount (c.done + 1), fail := c.fail || fail }

/-- The counter word (R205). -/
def Counter.word (c : Counter) : Word64 :=
  BitVec.ofNat 64 ((if c.cxl then 2 ^ 63 else 0) + (if c.fail then 2 ^ 62 else 0) + c.started * 2 ^ 31 + c.done)

/-- GRAPH and PHASE of a launch's header (R364). -/
def Launch.graph (l : Launch) : Nat := bits (l.hdr.headD 0).toNat 32 16
def Launch.phase (l : Launch) : Nat := bits (l.hdr.headD 0).toNat 16 16
def Launch.bid (l : Launch) : Nat := bits (l.hdr.headD 0).toNat 0 16

/-- Keys of the graph and phase instances that hold a launch. -/
def Launch.graphKey (l : Launch) : Nat := l.job * 65536 + l.graph
def Launch.phaseKey (l : Launch) : Nat := l.job * 65536 + l.phase

/-- Apply an update to the counters of every level above the unit (R205). -/
def State.onLevels (s : State) (launch : Nat) (f : Counter → Counter) : State :=
  match s.launch launch with
  | none => s
  | some l =>
    let s := s.setLaunch launch { l with counter := f l.counter }
    { s with
      graphs := s.graphs.put l.graphKey (f (s.graphs.look Counter.zero l.graphKey)),
      phases := s.phases.put l.phaseKey (f (s.phases.look Counter.zero l.phaseKey)),
      jobCtr := s.jobCtr.put l.job (f (s.jobCtr.look Counter.zero l.job)) }

/-! ### Pending causes (R390, R396) -/

def causeXlate : Nat := 0x05
def causeRevoked : Nat := 0x11

/-- Add a cause in rising order of cause, after those of the same cause. -/
def insertPending : List PendingTrap → PendingTrap → List PendingTrap
  | [], p => [p]
  | q :: l, p => if p.cause < q.cause then p :: q :: l else q :: insertPending l p

/-- Whether a cause is XLATE or EXTENT-REVOKED (R396). -/
def isAsync (c : Nat) : Bool := c == causeXlate || c == causeRevoked

/-- Make a cause pending. A stream keeps one XLATE or EXTENT-REVOKED, whose MORE bit a later one sets; a second
CANCEL, GANG-ABORT or TIMER adds nothing (R396, R206, R405, R450). -/
def Thread.post (t : Thread) (p : PendingTrap) : Thread :=
  if isAsync p.cause && t.pending.any (fun q => isAsync q.cause) then
    { t with pending := t.pending.map (fun q =>
        if isAsync q.cause then { q with info := q.info ||| BitVec.ofNat 64 (2 ^ 56) } else q) }
  else if (p.cause == 0x0C || p.cause == 0x0D || p.cause == 0x14) && t.pending.any (fun q => q.cause == p.cause)
  then t
  else { t with pending := insertPending t.pending p }

/-- Make a cause pending for an agent. -/
def postCause (s : State) (a : Agent) (cause sub : Nat) (info : Word64) : State :=
  s.onThread a (·.post ⟨cause, sub, info, false, none⟩)

/-! ### Resources that end with a unit (R74, R83, R97) -/

/-- Whether the unit's state is in its save area. -/
def UnitRec.away (u : UnitRec) : Bool := u.st == .suspended || u.st == .resuming

/-- Whether some slot of the unit is ARMED. -/
def UnitRec.anyArmed (u : UnitRec) : Bool :=
  u.windows.any (fun w => (List.range w.2.slots).any (fun j => w.2.st.look .free j == .armed))

/-- Whether a command still writes the unit's allocation (R83). -/
def anyLanding (s : State) (u : Nat) : Bool := s.cmds.any (fun c => c.2.unit == u)

/-- Whether an operand is read from a unit's allocation, itself or through a view. -/
def MxSource.names (x : MxSource) (u : Nat) : Bool :=
  !x.port && (if x.snap.loc == 2 then x.src.unit == u else x.snap.unit == u)

/-- Whether a queued matrix operation still reads or writes the unit's allocation (R352). -/
def anyMatrixUse (s : State) (u : Nat) : Bool :=
  s.clusters.any (fun c => c.2.ops.any (fun o =>
    (o.kind == .mul && (o.a.names u || o.b.names u)) || (o.kind == .store && o.a.snap.unit == u)))

/-- Whether every member of the unit's gang has ended (R97, R405). -/
def gangRetired (s : State) (u : UnitRec) : Bool :=
  u.gang == 0 || s.units.all (fun e => e.2.gang != u.gang || e.2.st == .ended)

/-- Free what an ended unit held, once R74, R83, R97 and R352 allow. -/
def reapUnit (s : State) (u : Nat) : State :=
  match s.unit u with
  | none => s
  | some r =>
    if r.st == .ended && !r.anyArmed && !anyLanding s u && !anyMatrixUse s u && gangRetired s r then
      { s with units := if r.gang == 0 then s.units.del u
                        else s.units.filter (fun e => e.2.gang != r.gang ||
                          (e.1 != u && (e.2.anyArmed || anyLanding s e.1 || anyMatrixUse s e.1))) }
    else s

/-! ### Banks (R84) -/

/-- Whether a queued operation names the bank. -/
def Cluster.bankBusy (c : Cluster) (b : Nat) : Bool := c.ops.any (fun o => o.tile / 4 == b)

/-- RETIRING banks that no queued operation names become FREE (R84). -/
def Cluster.settle (c : Cluster) : Cluster :=
  { c with banks := c.banks.map (fun e =>
      if e.2.st == .retiring && !c.bankBusy e.1 then (e.1, Bank.idle) else e) }

/-- Release a program's binding, discarding what the ports hold (R346, R352). -/
def Cluster.unbind (c : Cluster) : Cluster :=
  { c with binding := .none, p0 := [], p1 := [], p3 := [], p2 := [], p2Claims := [] }

/-- The tile poison bit of a cluster set (R86). -/
def Cluster.poisonTile (c : Cluster) (tile : Nat) : Cluster := { c with tilePsn := setIns c.tilePsn tile }

/-- A MUL with nothing left to enter (R353). -/
def MxOp.linesDone (o : MxOp) : Bool := o.kind == .mul && (o.abandoned || o.kc ≤ o.line)

/-- Whether a queued operation names a port. -/
def MxOp.namesPort (o : MxOp) : Bool := o.kind == .drain || (o.kind == .mul && (o.a.port || o.b.port))

/-- Whether a queued MUL of a program still waits for port rows (R352). -/
def MxOp.starves (o : MxOp) (prog : Nat) : Bool := o.prog == prog && o.kind == .mul && o.namesPort && !o.linesDone

/-- A program's queued drains retire, and its queued MULs that wait for port rows are abandoned with their tile
poisoned: what a release of its ports leaves of them (R352). -/
def Cluster.dropPortOps (c : Cluster) (prog : Nat) : Cluster :=
  let hit := c.ops.filter (fun (o : MxOp) => o.starves prog)
  let c1 := { c with
    ops := (c.ops.filter (fun (o : MxOp) => !(o.prog == prog && o.kind == .drain))).map (fun (o : MxOp) =>
      if o.starves prog then { o with abandoned := true } else o) }
  hit.foldl (fun (c : Cluster) (o : MxOp) => c.poisonTile o.tile) c1

/-- Cluster and slot of the matrix program bound to a unit. -/
def boundProg (s : State) (uid : Nat) (u : UnitRec) : Option (Nat × Nat) :=
  match (s.cluster (clusterOf u.core)).binding with
  | some b => if b.unit == uid then some (clusterOf u.core, b.prog) else none
  | none => none

/-- The matrix program bound to a unit that is no longer to be saved goes on (R346, R408). -/
def dropSaved (s : State) (u : Nat) (r : UnitRec) : State :=
  match boundProg s u r with
  | some (c, p) => s.onProg c p (fun x => { x with saved := false, th := { x.th with preq := false } })
  | none => s

/-- The bound unit has ended: its binding goes, queued drains retire, queued MULs that take port rows are
abandoned with their tile poisoned, and their program takes PORT, UNBOUND (R352). Of several port operands the trap names
the first of the first such MUL: p0 where A is a port, else p1 (DESIGN CHOICE, log 89). -/
def unitUnbound (s : State) (u : Nat) (core : Nat) : State :=
  let k := clusterOf core
  let c := s.cluster k
  match c.binding with
  | none => s
  | some b =>
    if b.unit != u then s
    else
      let hit := c.ops.filter (fun (o : MxOp) => o.starves b.prog)
      let c2 := c.unbind.dropPortOps b.prog
      let s := s.setCluster k c2.settle
      match hit with
      | [] => s
      | o :: _ => postCause s (.prog k b.prog) 0x07 0
          (BitVec.ofNat 64 ((if o.a.port then 0 else 1) * 256 + 1))

/-! ### The end of units, teams and programs -/

/-- Whether a PCMD resume on a core waits for its unit's entry or room: the core's BUSY is its own (R407). -/
def resumeRuns (s : State) (core : Nat) : Bool := s.units.any (fun e => e.2.resumeCore == core + 1 && !e.2.auto)

/-- A resume that has not ended is given up: no command runs on its core any more (R407, R463). -/
def dropResume (s : State) (u : Nat) : State :=
  match s.unit u with
  | none => s
  | some r =>
    if r.resumeCore == 0 then s
    else
      let s := s.setUnit u { r with resumeCore := 0, auto := false }
      if r.auto then s else s.setCore (r.resumeCore - 1) { s.core (r.resumeCore - 1) with pcmdBusy := false }

/-- A unit has ended: it counts at every level, its launch notes a failure, its binding goes and its
resources are freed when they may be (R205, R352, R370). One that was to be saved reports RESULT 3 (R407, R408). -/
def endUnit (s : State) (u : Nat) : State :=
  let s := dropResume s u
  match s.unit u with
  | none => s
  | some r =>
    let s := s.setUnit u { r with st := .ended }
    let s := s.onLevels r.launch (·.finish r.failed)
    let s := if r.st == .requested || r.st == .saving then
        let c := s.core r.core
        s.setCore r.core { c with pstat := (c.pstat &&& 0x3FFFFFFFFFFFFFFF#64) ||| 0xC000000000000000#64,
                                  pcmdBusy := resumeRuns s r.core }
      else s
    let s := dropSaved s u r
    let s := s.onLaunch r.launch (fun l =>
      { l with ended := l.ended + 1,
               nfail := if r.failed then l.nfail + 1 else l.nfail,
               firstFail := if r.failed then min l.firstFail r.index else l.firstFail,
               status := if r.failed then l.status ||| 1 else l.status,
               suspended := l.suspended.filter (· != r.index) })
    reapUnit (unitUnbound s u r.core) u

/-- TID of a team (R226). -/
def teamTid (r : UnitRec) (core slot : Nat) (t : Team) : Word64 :=
  BitVec.ofNat 64 (r.job * 2 ^ 42 + core * 2 ^ 32 + slot * 2 ^ 27 + t.index * 2 ^ 22 + r.index)

/-- Write a team report and advance the job's producer count (R403, R404). -/
def teamReport (s : State) (job : Nat) (words : List Word64) (fmask : BitVec 1024) : State :=
  let j := s.job job
  let base := bits j.jurb.toNat 12 40
  if base == 0 then s
  else
    let n := 2 ^ (bits j.jurb.toNat 0 4 + 4)
    let pa := base * 4096 + 256 * (j.jurp.toNat % n)
    let rec_ := words.flatMap (wordBytes 8) ++ List.replicate 24 0 ++ bytesOfNum 128 fmask.toNat ++
      List.replicate 64 0
    (physWrite s pa rec_ false).setJob job { j with jurp := j.jurp + 1 }

/-- The words of a team report before its masks (R404). -/
def reportWords (tid : Word64) (bid status cause : Nat) (swoff fail : Bool) (epc info : Word64) (now : Nat) :
    List Word64 :=
  [tid, BitVec.ofNat 64 (bid * 2 ^ 48 + status * 2 ^ 32 + cause * 256 + (if swoff then 2 else 0) +
    (if fail then 1 else 0)), epc, info, BitVec.ofNat 64 now]

/-- Bytes of a team block in the save area (R411). -/
def teamBlock (lanes : Nat) : Nat := (0x26000 + 332 * lanes + 4095) / 4096 * 4096

/-- Offset of the shadow image in the save area of a unit (R411). -/
def shadowOffset (u : UnitRec) : Nat := 0x10000 + u.need.teams * teamBlock (32 * u.need.warps)

/-- Far physical address of a team's block in the save area of its unit (R411). -/
def teamBlockAt (u : UnitRec) (t : Team) : Nat := u.save + 0x10000 + t.index * teamBlock (32 * t.warps)

/-- Where the matrix block of a unit lies (R411). -/
def matrixBlock (u : UnitRec) : Nat := u.save + shadowOffset u + u.need.spad + 0x4000

/-- Word 0 of a store-fault record, and the others (R400). -/
def StoreFault.words (r : StoreFault) : List Word64 :=
  [BitVec.ofNat 64 (2 ^ 63 + r.kind * 2 ^ 56 + r.tag * 2 ^ 50 + r.lost), r.spc, r.va, r.pte]

/-- A team's store-fault queue in its block of the save area (R413, R416). -/
def writeSfq (s : State) (u : UnitRec) (t : Team) : State :=
  (List.range 16).foldl (fun s k =>
    physWriteWords s (teamBlockAt u t + 0x880 + 32 * k)
      (((t.sfq[k]?).map StoreFault.words).getD (List.replicate 4 0))) s

/-- Whether a thread waits on a gang barrier: one that member 0 of the gang holds, by either number (R92). -/
def waitsInGang (s : State) (gang : Nat) (t : Thread) : Bool :=
  match t.wait with
  | .barrier v _ _ => (match s.unit v with | some r => r.gang == gang && r.member == 0 | none => false)
  | _ => false

/-- A waiter on a gang barrier of the gang is released (R97, R405). -/
def releaseGang (s : State) (gang : Nat) (t : Thread) : Thread := if waitsInGang s gang t then t.next_ else t

/-- The saved teams of a gang that wait on a gang barrier of it go on behind the wait in their save areas too, and so does a
saved matrix program in its block. -/
def releaseSaved (s : State) (gang : Nat) : State :=
  s.units.foldl (fun x e =>
    if e.2.gang != gang then x
    else
      let x := e.2.savedTeams.foldl (fun x t =>
        if waitsInGang s gang t.2.th then physWriteWords x (teamBlockAt e.2 t.2) [t.2.th.spc + 4] else x) x
      match (if e.2.away then boundProg s e.1 e.2 else none).bind (fun p => s.prog p.1 p.2) with
      | some p => if waitsInGang s gang p.th then physWriteWords x (matrixBlock e.2) [p.th.spc + 4] else x
      | none => x) s

/-- A fatal fault of a gang member: waiters on gang barriers are released, and every other team of every member
takes GANG-ABORT, once for a gang (R97, R405). -/
def gangAbort (s : State) (u : UnitRec) (cause : Nat) : State :=
  if u.gang == 0 then s
  else
    let info : Word64 := BitVec.ofNat 64 (cause * 256 + u.member)
    let abort (t : Team) : Team :=
      if t.aborted.isSome then t
      else { t with aborted := some info, th := (releaseGang s u.gang t.th).post ⟨0x0C, 0, info, false, none⟩ }
    { releaseSaved s u.gang with
      teams := s.teams.map (fun e =>
        match s.unit e.2.unit with
        | some r => if r.gang == u.gang then (e.1, abort e.2) else e
        | none => e)
      units := s.units.map (fun e =>
        if e.2.gang == u.gang then
          (e.1, { e.2 with savedTeams := e.2.savedTeams.map (fun t => (t.1, abort t.2)) }) else e)
      progs := s.progs.map (fun e => (e.1, { e.2 with th := releaseGang s u.gang e.2.th })) }

/-- Pending results of a team are discarded (R287); elements they claimed are dropped (R112). -/
def dropPendings (s : State) (core slot : Nat) : State :=
  { s with pendings := s.pendings.map (fun e =>
      if e.2.core == core && e.2.slot == slot then (e.1, { e.2 with discard := true }) else e) }

/-- A bind whose descriptor read is out ends with its team: the identifier is as it was (R100). -/
def dropBinds (s : State) (core slot u : Nat) : State :=
  let ids := (s.reqs.filter (fun e => e.2.kind == .bind && e.2.agent == .team core slot)).map (fun e => e.2.dest / 64)
  if ids.isEmpty then s
  else s.onUnit u (fun r => { r with tids := r.tids.map (fun e =>
    if ids.contains e.1 then (e.1, { e.2 with binding := false }) else e) })

/-- The gang accesses of a team that has ended are still performed, for no team (R164). -/
def orphanAccesses (s : State) (core slot : Nat) : State :=
  { s with gangAcc := s.gangAcc.map (fun e =>
      if e.2.core == core && e.2.slot == slot then (e.1, { e.2 with core := 0xFFFF, slot := 0, fence := false }) else e) }

/-- A command that is not issued is given up: the identifiers it holds are released, and the peg of a post comes home
(R57, R62, log 108). -/
def dropCommand (s : State) (id : Nat) : State :=
  match s.cmds.find id with
  | none => s
  | some c =>
    { s with cmds := s.cmds.del id }.onUnit c.unit (fun r => { r with
      tids := r.tids.map (fun (x : Nat × TidEntry) => (x.1, { x.2 with holders := x.2.holders - c.holds.count x.1 }))
      windows := if c.pegged then
          r.windows.map (fun (w : Nat × Win) => if w.1 == c.win then (w.1, { w.2 with freePegs := w.2.freePegs + 1 }) else w)
        else r.windows })

/-- An engine command that its team has not issued ends with it (R62). -/
def dropIssuing (s : State) (t : Team) : State :=
  t.th.stage.foldl (fun s e => match e.2 with
    | .issuing id => dropCommand s id
    | _ => s) s

/-- The call entries of a stream (R451). -/
def Thread.calls (t : Thread) : List Nat :=
  t.stage.filterMap (fun (e : Nat × Stage) => match e.2 with | .parked c => c | _ => none)

/-- Free call entries. -/
def freeCalls (s : State) (cs : List Nat) : State :=
  { s with calls := cs.foldl (fun m c => FMap.put m c { FMap.look Call.free m c with state := 0 }) s.calls }

/-- A team of the unit has ended; what reports and pipes need of it stays (R115, R396, R404). -/
def UnitRec.noteEnd (r : UnitRec) (core slot : Nat) (t : Team) (status : Nat) (epc info : Word64) (now : Nat) : UnitRec :=
  { r with exited := r.exited ++ [t.index],
           last := r.last.put t.index ⟨core, slot, t.pipecfg, t.fmask, status, epc, info, now⟩ }

/-- A team ends with a status, or failed with a cause (R205, R287, R392, R404, R405). -/
def endTeam (s : State) (core slot : Nat) (status cause : Nat) (fail : Bool) (epc info : Word64) : State :=
  match s.team core slot with
  | none => s
  | some t =>
    match s.unit t.unit with
    | none => { s with teams := s.teams.del (teamKey core slot) }
    | some r =>
      let bid := match s.launch r.launch with | some l => l.bid | none => 0
      let s := if fail || t.fmask != 0 then
          teamReport s r.job (reportWords (teamTid r core slot t) bid status cause (t.fmask != 0) fail epc info
            s.now) t.fmask
        else s
      let s := freeCalls s t.th.calls
      let s := dropIssuing (dropBinds (orphanAccesses (dropPendings s core slot) core slot) core slot t.unit) t
      let r := (s.unit t.unit).getD r
      let r := { r.noteEnd core slot t status epc info s.now with
                   counter := r.counter.finish fail, failed := r.failed || fail }
      let s := { s with teams := s.teams.del (teamKey core slot) }.setUnit t.unit r
      let s := if fail then s.onLevels r.launch (fun c => { c with fail := true }) else s
      let s := if fail && cause != 0x0D && !t.cancelled then gangAbort s r cause else s
      if r.exited.length == r.need.teams then endUnit s t.unit else s

/-- The program number of operations whose program has ended. -/
def endedProg : Nat := 2 ^ 32

/-- A matrix program ends: held banks retire, one that is being zeroed does so once it is HELD, and its binding goes; its queued operations run on (R84, R346, R352). -/
def endProg (s : State) (cl slot : Nat) (fail : Bool) : State :=
  match s.prog cl slot with
  | none => s
  | some p =>
    let c := (s.cluster cl).dropPortOps slot
    let c := { c with ops := c.ops.map (fun (o : MxOp) => if o.prog == slot then { o with prog := endedProg } else o) }
    let c := { c with banks := c.banks.map (fun (e : Nat × Bank) =>
      if e.2.prog != slot then e
      else if e.2.st == BankState.held then (e.1, { e.2 with st := .retiring })
      else (e.1, { e.2 with prog := endedProg })) }
    let c := match c.binding with
      | some b => if b.prog == slot then c.unbind else c
      | none => c
    let s := s.setCluster cl c.settle
    let s := { s with progs := s.progs.del (progKey cl slot) }
    s.onLaunch p.launch (fun l =>
      { l with progs := l.progs - 1, status := if fail then l.status ||| 1 else l.status })

/-- An agent ends as failed with a cause (R392, R347). -/
def endFailed (s : State) (a : Agent) (cause : Nat) (epc info : Word64) : State :=
  match a with
  | .team c t => endTeam s c t 0 cause true epc info
  | .prog c p => endProg s c p true
  | _ => s

/-! ### Taking a trap and leaving the handler -/

/-- TCAUSE after an entry (R392, R394). -/
def tcauseWord (cause sub : Nat) : Word64 := BitVec.ofNat 64 (2 ^ 63 + sub * 256 + cause)

/-- What an entry does to the scalar stream (R390, R392): causes that still wait stay until the handler
resumes it. -/
def Thread.enter (t : Thread) (cause sub : Nat) (epc info : Word64) : Thread :=
  { t with tcause := tcauseWord cause sub, tepc := epc, tinfo := info, spc := t.tvec, wait := .none,
           pending := t.pending.map (fun p => { p with shelf := true }) }

/-- TELPC at an entry: as the cause's rule sets it, else the LPC of the oldest held entry, else LPC (R392). -/
def Team.entryElpc (t : Team) (elpc : Option Word64) : Word64 :=
  match elpc with
  | some w => w
  | none => match t.queue with
    | e :: _ => e.lpc
    | [] => t.lpc

/-- TRAP_ENTRY: in handler mode or with TVEC 0 the stream ends as failed, else its handler is entered (R392). A team
keeps its place in the active and pending sets (R392); one parked in SYSC, which stands in neither, becomes pending. -/
def takeTrap (s : State) (a : Agent) (cause sub : Nat) (epc : Word64) (elpc : Option Word64) (info : Word64) :
    State :=
  match s.thread a with
  | none => s
  | some th =>
    if th.handler || th.tvec == 0 then endFailed s a cause epc info
    else match a with
      | .team c t => s.onTeam c t (fun r =>
          { r with th := r.th.enter cause sub epc info, telpc := r.entryElpc elpc,
                   set_ := if r.set_ == .parked then .pending else r.set_ })
      | .prog c p => s.onProg c p (fun r => { r with th := r.th.enter cause sub epc info })
      | _ => s

/-- A precise trap of the instruction at SPC of the acting stream (R390). -/
def trapNow (s : State) (cause : Nat) (info : Word64) : Result :=
  match s.thread s.cur with
  | none => .fault .noSuchAgent
  | some th => .next (takeTrap s s.cur cause 0 th.spc none info)

/-- ILLEGAL with a code and the upper half of TINFO (R231, R265). -/
def illegal (s : State) (hi : Nat) (code : Nat) : Result :=
  trapNow s 0x01 (BitVec.ofNat 64 (hi % 2 ^ 32 * 2 ^ 32 + code))

/-- ILLEGAL of a scalar instruction with a code of R245 or R265: TINFO [63:32] is its word (R231, log 10). -/
def illegalWord (s : State) (i : Instr) (code : Nat) : Result := illegal s ((encodeScalar i).getD 0) code

/-- Update every scalar stream, those in save areas too. -/
def State.mapThreads (s : State) (f : Thread → Thread) : State :=
  { s with
    teams := s.teams.map (fun e => (e.1, { e.2 with th := f e.2.th }))
    units := s.units.map (fun e =>
      (e.1, { e.2 with savedTeams := e.2.savedTeams.map (fun k => (k.1, { k.2 with th := f k.2.th })) }))
    progs := s.progs.map (fun e => (e.1, { e.2 with th := f e.2.th })) }

/-- What an instruction has done without retiring is given up: its stream resumes elsewhere. A command not issued is
dropped and the identifiers it holds released, a call entry is freed, a bind whose read is out leaves its identifier as
it was (log 84). -/
def stopStage (s : State) (a : Agent) : Stage → State
  | .issuing id => dropCommand s id
  | .parked (some c) => freeCalls s [c]
  | .reading req => match s.reqs.find req with
    | none => s
    | some q =>
      let free (m : FMap TidEntry) : FMap TidEntry :=
        m.map (fun e => if e.1 == q.dest / 64 then (e.1, { e.2 with binding := false }) else e)
      match a with
      | .team c t => match s.team c t with
        | some r => s.onUnit r.unit (fun u => { u with tids := free u.tids })
        | none => s
      | .prog c p => s.onProg c p (fun r => { r with tids := free r.tids })
      | _ => s
  | _ => s

/-- A stream that leaves its handler gives up what instructions at other addresses than TEPC had begun. -/
def stopStages (s : State) (a : Agent) (t : Thread) : State :=
  t.stage.foldl (fun s e => if e.1 == t.tepc.toNat then s else stopStage s a e.2) s

/-- Leaving the handler: H is cleared, the stream goes on at TEPC, causes that waited may be taken, and a
cancelled or aborted team takes its cause again; only the instruction at TEPC keeps how far it has come (R395, R390,
R207, R209, R405). -/
def Thread.leave (t : Thread) : Thread :=
  { t with tcause := t.tcause &&& BitVec.ofNat 64 (2 ^ 63 - 1), spc := t.tepc, wait := .none,
           stage := t.stage.filter (fun e => e.1 == t.tepc.toNat),
           pending := t.pending.map (fun p => { p with shelf := false }) }

/-- The causes a team takes again after each resume (R207, R405). -/
def Team.resticky (t : Team) : Team :=
  let th := match t.aborted with
    | some i => t.th.post ⟨0x0C, 0, i, false, none⟩
    | none => t.th
  { t with th := if t.cancelled then th.post ⟨0x0D, 0, 0, false, none⟩ else th }

/-- A resume by instruction `i` (R395): with H = 0 it is ILLEGAL 0x11, with a misaligned TEPC ILLEGAL 0x18, both
taken in `s`; otherwise the stream leaves its handler in `s1`, where the instruction has written its registers. -/
def resumeStream (s s1 : State) (i : Instr) : Result :=
  match s.thread s.cur with
  | none => .fault .noSuchAgent
  | some th =>
    if !th.handler then illegalWord s i 0x11
    else if th.tepc.toNat % 4 != 0 then illegalWord s i 0x18
    else
      let s1 := stopStages s1 s.cur th
      match s.cur with
      | .team c t => .next (s1.onTeam c t (fun r => { r with th := r.th.leave }.resticky))
      | a => .next (s1.onThread a (·.leave))

/-! ### Retiring and blocking -/

/-- Whether a wait is one of the causes for which a team blocks: an empty value, a port, a barrier, a tag, a window
(its pegs, an ARMED slot, and what a post waits for once its checks have passed), MX ALLOC, SYSC, a full lane instruction
queue, gang-log entries of a warp (R228, R61, R69, R71, R327). The others hold a stream and leave its team where it is (R422). -/
def Wait.blocks : Wait → Bool
  | .register _ | .queueRoom | .laneSource | .port _ | .barrier _ _ _ | .tags _ _ _ | .tagRoom _ | .operandLog | .peg _
  | .slotWrites _ _ | .landed _ _ _ | .pegsHome _ | .call | .bank | .gangLog => true
  | .none | .laneStream | .holders _ | .bind _ _ | .descriptor _ | .code _ | .drain | .irqRoom | .retiring _
  | .matrixQueue _ | .binding _ | .results | .signal _ | .injection _ => false

/-- The acting stream waits; a team that blocks leaves the active set (R228, R379). -/
def block (s : State) (w : Wait) : State :=
  match s.cur with
  | .team c t => s.onTeam c t (fun r => { r with th := { r.th with wait := w }, set_ := if w.blocks then .pending else r.set_ })
  | a => s.onThread a (fun t => { t with wait := w })

/-- A scalar instruction that has all of its registers acts; otherwise its stream waits (R211, R263). -/
def withRegs (s : State) (regs : List (BitVec 5)) (k : Thread → Result) : Result :=
  match s.thread s.cur with
  | none => .fault .noSuchAgent
  | some th =>
    match th.firstEmpty regs with
    | some r => .next (block s (.register r))
    | none => k th

/-- The acting stream retires its instruction. -/
def retire (s : State) : State := s.onThread s.cur Thread.next_

/-- The acting stream writes gd and retires. -/
def retireWith (s : State) (d : BitVec 5) (v : Word64) : State :=
  s.onThread s.cur (fun t => (t.wr d v).next_)

/-- The acting stream's instruction has come further, and blocks. -/
def blockAt (s : State) (g : Stage) (w : Wait) : State :=
  block (s.onThread s.cur (·.setStage g)) w

/-- The acting team and its unit. -/
def withTeam (s : State) (k : Nat → Nat → Team → UnitRec → Result) : Result :=
  match s.cur with
  | .team c t =>
    match s.team c t with
    | none => .fault .noSuchAgent
    | some r => match s.unit r.unit with
      | none => .fault .noSuchAgent
      | some u => k c t r u
  | _ => .fault .noSuchAgent

/-- The acting matrix program. -/
def withProg (s : State) (k : Nat → Nat → Prog → Result) : Result :=
  match s.cur with
  | .prog c p => match s.prog c p with
    | none => .fault .noSuchAgent
    | some r => k c p r
  | _ => .fault .noSuchAgent

end Sys2Proof.Machine
end

