-- ==== Sys2Proof/Machine/Fetch.lean ====
section
/-! DEFINITION. Code fetch through the code caches (R47), and the issue of lane instructions (R209, R272 to R274). -/

namespace Sys2Proof.Machine
open Sys2Proof

/-- Async fault word (R397). -/
def asyncWord (kind fkind va : Nat) : Word64 :=
  BitVec.ofNat 64 (kind * 2 ^ 60 + fkind * 2 ^ 57 + va % 2 ^ 56)

/-- A far virtual address with a nonzero bit in [63:56] (R10). -/
def nonCanon (va : Nat) : Bool := 2 ^ 56 ≤ va

/-- The code cache that serves an agent: of a vector core, or of a cluster's matrix control core. -/
def cacheOf : Agent → Nat
  | .team c _ => c
  | .prog c _ => 1024 + c
  | _ => 2048

/-- The job of an agent (R11). -/
def jobOf (s : State) : Agent → Nat
  | .team c t => match s.team c t with
    | some r => match s.unit r.unit with | some u => u.job | none => 0
    | none => 0
  | .prog c p => match s.prog c p with | some r => r.job | none => 0
  | _ => 0

/-- Key of a cached code parcel. -/
def codeKey (s : State) (a : Agent) (va : Nat) : Nat := (cacheOf a * 64 + jobOf s a) * 2 ^ 64 + va

/-- A code parcel, when its line is in the cache. -/
def codeParcel (s : State) (a : Agent) (va : Nat) : Option Nat :=
  (s.code.find (codeKey s a va)).map BitVec.toNat

/-- A request with nothing done yet (R18). -/
def Req.make (kind : ReqKind) (cmd : Nat) (a : Agent) (die job va len : Nat) (write : Bool) : Req :=
  { kind, cmd, agent := a, die, job, va, len, write, zero := false, dest := 0, data := [], mask := [], psn := [],
    st := .fresh, level := 3, table := 0, module := 0, maddr := 0, sq := false, revoked := false, fkind := 0,
    leg := .home, came := 0 }

/-- Put a request on its way. -/
def addReq (s : State) (r : Req) : Nat × State :=
  let id := s.nextId
  (id, { s with nextId := id + 1, reqs := s.reqs.put id r })

/-- Whether a line of code is in the cache, or a fetch of the agent for it is out. -/
def codeKnown (s : State) (a : Agent) (line : Nat) : Bool :=
  (codeParcel s a line).isSome || s.reqs.any (fun e => e.2.kind == .code && e.2.agent == a && e.2.va == line)

/-- Ask for the 128-byte line of a code address, unless a fetch of the agent for it is out, and for the next three
behind it; a request of those has `dest` 1 (R47). -/
def codeMiss (s : State) (a : Agent) (va : Nat) : State :=
  let line := va / 128 * 128
  let ask (s : State) (dest line : Nat) : State :=
    (addReq s { Req.make .code 0 a (agentDie a) (jobOf s a) line 128 false with dest }).2
  if s.reqs.any (fun e => e.2.kind == .code && e.2.agent == a && e.2.va == line) then s
  else [1, 2, 3].foldl (fun s k =>
    if codeKnown s a (line + 128 * k) || nonCanon (line + 128 * k) then s else ask s 1 (line + 128 * k)) (ask s 0 line)

/-- `n` parcels from `va` on: all of them, or the first address that misses. -/
def codeParcels (s : State) (a : Agent) (va : Nat) : Nat → Except Nat (List Nat)
  | 0 => .ok []
  | n + 1 =>
    match codeParcel s a va with
    | none => .error va
    | some w => match codeParcels s a (va + 4) n with
      | .ok ws => .ok (w :: ws)
      | .error e => .error e

/-! ### Lane words in the queue -/

/-- L0 of an entry, its opcode, sub field and selected mask (R221, R233, R243). -/
def LaneEntry.l0 (e : LaneEntry) : Nat :=
  match e.parcels with
  | p :: q :: _ => if isPfxParcel p then q else p
  | _ => 0
def LaneEntry.op (e : LaneEntry) : Nat := bits e.l0 24 8
def LaneEntry.sub (e : LaneEntry) : Nat := bits e.l0 16 4
def LaneEntry.mask (e : LaneEntry) : Nat :=
  match e.parcels with
  | p :: _ => if isPfxParcel p then bits p 21 3 else 0
  | _ => 0

/-- The entries that count for waits: in handler mode the held ones do not (R393). -/
def Team.enqueued (t : Team) : List LaneEntry := if t.th.handler then [] else t.queue

/-- Whether a gang access of the team has not been answered (R326). -/
def gangBusy (s : State) (core slot : Nat) : Bool :=
  s.gangAcc.any (fun e => e.2.core == core && e.2.slot == slot)

/-- Whether a store of the team waits for its port element (R328). -/
def portStoreBusy (s : State) (core slot : Nat) : Bool :=
  s.pendings.any (fun e => e.2.core == core && e.2.slot == slot && e.2.store.isSome && !e.2.discard)

/-- Whether an access that an acquire fence of the team orders before every later one has not been performed
(R151, R156). -/
def fencedOut (s : State) (core slot : Nat) : Bool :=
  s.gangAcc.any (fun e => e.2.core == core && e.2.slot == slot && e.2.fence)

/-- Whether an access of the team that stands before a FENCE has not been performed: a release waits for it (R151, R159). -/
def releaseOut (s : State) (core slot : Nat) (t : Team) : Bool :=
  s.gangAcc.any (fun e => e.2.core == core && e.2.slot == slot && e.2.seq < t.fencedAt) ||
  s.pendings.any (fun e => e.2.core == core && e.2.slot == slot && !e.2.discard &&
    (match e.2.store with | some p => p.seq < t.fencedAt | none => false))

/-- Whether an engine command or a bind must wait: for reads that an acquire fence orders before it, and as a release for
the accesses before a FENCE (R156, R159). -/
def commandHeld (s : State) (core slot : Nat) (t : Team) (rel : Bool) : Bool :=
  fencedOut s core slot || (rel && releaseOut s core slot t)

/-- Every lane instruction enqueued earlier has completed its passes (R274). -/
def passesDone (t : Team) : Bool := t.enqueued.isEmpty

/-- Every earlier lane instruction has completed its passes and accesses (R274, R284, R287, R340). -/
def accessesDone (s : State) (core slot : Nat) (t : Team) : Bool :=
  passesDone t && !gangBusy s core slot && !portStoreBusy s core slot

/-! ### VRUN, VJMP, VSYNC -/

/-- The parcel a refusal reports (R245). -/
def refusedParcel (ps : List Nat) (parcel : Nat) : Nat :=
  let i := if isPfxParcel (ps.headD 0) then parcel - 1 else parcel - 2
  (ps[i]?).getD 0

/-- A trap of VRUN about the lane word at LPC: ILLEGAL once the words before it have completed their passes (R245),
XLATE at the fetch (R272, R391); a resumed VRUN starts afresh (R395). -/
def vrunTrap (s : State) (c sl : Nat) (t : Team) (left : Nat) (cause : Nat) (info : Word64) : Result :=
  if cause == causeXlate || passesDone t then .next (takeTrap
    (s.onThread (.team c sl) (fun th => { th with stage := th.stage.del th.spc.toNat })) (.team c sl) cause 0 t.th.spc (some t.lpc) info)
  else .next (blockAt s (.vrun left) .laneStream)

/-- The g registers a lane word names as sources it reads (R209, R235). -/
def gSources (op : Nat) (w : LaneWord) : List (BitVec 5) :=
  ((laneCodes w).take (laneReads op w.fmt.toNat w.sub.toNat)).filterMap
    (fun c => if codeIsG c then some (BitVec.ofNat 5 (c - 0x50)) else none)

/-- The g register it names as destination, but g0. -/
def gDest (w : LaneWord) : Option (BitVec 5) :=
  let d := w.dst.toNat
  if codeIsG d && d != 0x50 then some (BitVec.ofNat 5 (d - 0x50)) else none

/-- Fetch, check and enqueue up to `left` lane words from LPC (R209, R245, R272). -/
def vrunLoop (c sl : Nat) : Nat → State → Result
  | 0, s => .next (retire s)
  | left + 1, s =>
    match s.team c sl with
    | none => .fault .noSuchAgent
    | some t =>
      let n := left + 1
      let lpc := t.lpc.toNat
      if lpc % 4 != 0 then vrunTrap s c sl t n 0x01 (BitVec.ofNat 64 (2 * 256 + 0x16))
      else if nonCanon lpc then vrunTrap s c sl t n 0x05 (asyncWord 6 2 lpc)
      else if 64 ≤ t.queue.length then .next (blockAt s (.vrun n) .queueRoom)
      else match codeParcel s (.team c sl) lpc with
        | none => .next (blockAt (codeMiss s (.team c sl) lpc) (.vrun n) (.code lpc))
        | some first =>
          match codeParcels s (.team c sl) lpc (laneParcels first) with
          | .error va =>
            if nonCanon va then vrunTrap s c sl t n 0x05 (asyncWord 6 2 va)
            else .next (blockAt (codeMiss s (.team c sl) va) (.vrun n) (.code va))
          | .ok ps =>
            match laneDecode (t.tmode.getLsbD 0) ps with
            | .error b =>
              vrunTrap s c sl t n 0x01 (BitVec.ofNat 64 (refusedParcel ps b.parcel * 2 ^ 32 + b.parcel * 256 + b.code))
            | .ok i =>
              match laneOf i with
              | none => .fault .noSuchAgent
              | some (op, w) =>
                let srcs := gSources op w
                match t.th.firstEmpty (srcs ++ (gDest w).toList) with
                | some r => .next (blockAt s (.vrun n) (.register r))
                | none =>
                  let id := s.nextId
                  let caps := srcs.foldl (fun m r => FMap.put m r.toNat (t.th.rd r)) []
                  let e : LaneEntry := ⟨ps, t.lpc, t.tmode, caps, if (gDest w).isSome then id else 0, id⟩
                  let th := match gDest w with
                    | some r => { t.th with gPend := t.th.gPend.put r.toNat id }
                    | none => t.th
                  let t := { t with queue := t.queue ++ [e], lpc := t.lpc + BitVec.ofNat 64 (4 * ps.length), th }
                  vrunLoop c sl left ({ s with nextId := id + 1 }.setTeam c sl t)

/-- VRUN (R272); in handler mode it is ILLEGAL 0x10 (R393). -/
def execVrun (n : BitVec 16) (s : State) : Result :=
  withTeam s (fun c sl t _ =>
    if t.th.handler then illegalWord s (.vrun n) 0x10
    else match t.th.at_ with
      | some (.vrun left) => vrunLoop c sl left s
      | _ => vrunLoop c sl n.toNat s)

/-- VJMP: LPC is the lane code base plus ga plus 4 times the immediate (R273). -/
def execVjmp (a : BitVec 5) (i : BitVec 16) (s : State) : Result :=
  withTeam s (fun _ _ t _ =>
    if t.th.handler then illegalWord s (.vjmp a i) 0x10
    else withRegs s [a] (fun th => match s.cur with
      | .team c sl => .next (retire (s.onTeam c sl (fun t =>
          { t with lpc := t.lcb + th.rd a + ((i.setWidth 64 : Word64) <<< 2) })))
      | _ => .fault .noSuchAgent))

/-- VSYNC (R274). -/
def execVsync (s : State) : Result :=
  withTeam s (fun c sl t _ =>
    if t.th.handler then illegalWord s .vsync 0x10
    else if accessesDone s c sl t then .next (retire s)
    else .next (block s .laneStream))

end Sys2Proof.Machine
end

