-- ==== Sys2Proof/Machine/Tables.lean ====
section
/-! DEFINITION. Page table entries as every reader of a table sees them (R12 to R16), and the tables read without a
request (log 86). -/

namespace Sys2Proof.Machine
open Sys2Proof

/-- Offset bits of a page whose leaf lies at a level (R12). -/
def pageBits (level : Nat) : Nat := 16 + 9 * level

/-- The far physical address a leaf gives an address (R12, R13). -/
def leafPa (pte : Word64) (level va : Nat) : Nat := bits pte.toNat 16 36 * 65536 + va % 2 ^ pageBits level

/-- A malformed entry with V = 1 in a table of a level (R14). -/
def malformed (pte : Word64) (level : Nat) : Bool :=
  let w := pte.toNat
  let lvl := bits w 8 2
  if lvl == 3 then level == 0
  else lvl != level || (pte.getLsbD 2 && !pte.getLsbD 1) || (pte.getLsbD 3 && pte.getLsbD 5) || bits w 10 6 != 0 ||
    (level == 1 && bits w 16 9 != 0) || (level == 2 && bits w 16 18 != 0)

/-- Index of an address into a table of a level (R12). -/
def tableIndex (level va : Nat) : Nat := if level == 3 then bits va 43 13 else bits va (16 + 9 * level) 9

/-- Address of the root table of a job (R15). -/
def rootOf (s : State) (job : Nat) : Nat := bits (s.job job).jctx.toNat 16 36 * 65536

/-- The far physical address the tables give an address, read without a fault or a trace. -/
def peekPa (s : State) (va : Nat) : Nat → Nat → Nat → Option Nat
  | 0, _, _ => none
  | n + 1, level, table =>
    match physRead s (table + 8 * tableIndex level va) 8 with
    | some (bs, false) =>
      let pte := bytesWord bs
      if !pte.getLsbD 0 || malformed pte level then none
      else if bits pte.toNat 8 2 == 3 then
        peekPa s va n (level - 1) (bits pte.toNat 16 36 * 65536 + bits pte.toNat 12 4 * 4096)
      else if pte.getLsbD 1 then some (leafPa pte level va) else none
    | _ => none

/-- Word 0 of a bundle's header before the bundle is taken, where its page is present. -/
def peekHeader (s : State) (job va : Nat) : Option Word64 :=
  if nonCanon va then none else (peekPa s va 4 3 (rootOf s job)).map (physWord s)

/-! ### Bundles that are not taken (R426, R428) -/

/-- A slot with a head bundle (R428). -/
def Slot.hasHead (k : Slot) : Bool := k.valid && (k.injected.isSome || (k.taken != k.windex && !k.ovf))

/-- Words 0 of the headers of a slot's bundles that are not taken: the injected one, and those of its ring; none where
the page is not present. -/
def untaken (s : State) (k : Slot) : List (Option Word64) :=
  if !k.valid then []
  else (k.injected.toList.map (fun ws => some (ws.headD 0))) ++
    (List.range (min (k.windex - k.taken).toNat (2 ^ k.size))).map (fun i =>
      peekHeader s k.job (k.ring + 128 * ((k.taken.toNat + i) % 2 ^ k.size)))

end Sys2Proof.Machine
end

