-- ==== Sys2Proof/Machine/Reports.lean ====
section
/-! DEFINITION. What the package reports: rings of records (R434, R435, R449, R454), completion queues (R431 to
R433), signals (R430), captured decisions (R441, R442); and cancels of a level (R206) with fatal jobs (R455). -/

namespace Sys2Proof.Machine
open Sys2Proof

/-! ### Rings -/

/-- Records of a ring of R448, R454 or R431; 0 when it is disabled. -/
def ringSize (ctl : Word64) : Nat := if bits ctl.toNat 0 4 == 0 then 0 else 2 ^ (bits ctl.toNat 0 4 + 3)

/-- The phase bit of the next record (R432, R449). -/
def phaseBit (prod size : Nat) : Nat := if prod / size % 2 == 0 then 2 ^ 63 else 0

/-- Whether a ring is full. -/
def ringFull (prod head : Word32) (size : Nat) : Bool := (prod - head).toNat == size

/-- Whether a page holds an interrupt file of a control core: supervisor or guest, or machine level (R443). -/
def imsicPage (page : Nat) : Bool :=
  (0x10000000800 ≤ page && page < 0x10000000880) || (0x10000000900 ≤ page && page < 0x10000000910)

/-- A write to an interrupt file: at its first word, an identity 1 to 2,047 becomes pending (R443, log 50). -/
def imsicWrite (s : State) (addr : Nat) (data : Word32) : State :=
  let page := addr / 4096
  if imsicPage page && addr % 4096 == 0 && 0 < data.toNat && data.toNat < 2048 then
    { s with imsic := s.imsic.put page (s.imsic.look 0 page ||| (1#2048 <<< data.toNat)) }
  else s

/-- An MSI sent: address and data (R433, R448, R454). -/
def sendMsi (s : State) (addr : Word64) (data : Word32) : State :=
  imsicWrite { s with msis := s.msis ++ [(addr, data)] } addr.toNat data

/-- A record of the error ring, with its MSI (R454). A disabled or full ring takes none (log 40). -/
def errorRecord (s : State) (type_ sub : Nat) (who detail : Word64) : State :=
  let r := s.errRing
  let n := ringSize r.ctl
  if n == 0 || ringFull r.prod r.head n then s
  else
    let pa := bits r.base.toNat 12 40 * 4096 + 64 * (r.prod.toNat % n)
    let w0 : Word64 := BitVec.ofNat 64 (phaseBit r.prod.toNat n + type_ * 2 ^ 56 + sub * 2 ^ 48)
    let s := physWriteWords s pa [w0, BitVec.ofNat 64 s.now, who, detail, 0, 0, 0, 0]
    sendMsi { s with errRing := { r with prod := r.prod + 1 } } r.msia r.msid

/-- An entry of the package event ring; when it is full the oldest is overwritten (R434, R435). -/
def postEvent (s : State) (type_ data : Nat) : State :=
  let r := s.event
  let z := bits r.base.toNat 0 4
  if z == 0 || 12 < z then s
  else
    let pa := bits r.base.toNat 12 40 * 4096 + 8 * (r.prod.toNat % 2 ^ z)
    let s := physWriteWords s pa [BitVec.ofNat 64 (2 ^ 63 + type_ * 2 ^ 56 + data % 2 ^ 56)]
    raiseFirmware { s with event := { r with
      prod := r.prod + 1, head := if ringFull r.prod r.head (2 ^ z) then r.head + 1 else r.head } } 2

/-! ### Completion queues -/

def State.cq (s : State) (c : Nat) : CompQ := s.cqs.look CompQ.zero c

/-- Whether a completion queue is full (R432). -/
def CompQ.full (q : CompQ) : Bool := ringFull q.prod q.head (ringSize q.ctl)

/-- Announce the entries of a completion queue (R433). -/
def announce (s : State) (c : Nat) : State :=
  let q := s.cq c
  sendMsi { s with cqs := s.cqs.put c { q with unannounced := 0 } } q.msia q.msid

/-- Post an entry on a queue that is enabled and not full (R432, R433). -/
def postCq (s : State) (c : Nat) (w0 : Nat) (rest : List Word64) : State :=
  let q := s.cq c
  let n := ringSize q.ctl
  let pa := bits q.base.toNat 12 40 * 4096 + 32 * (q.prod.toNat % n)
  let s := physWriteWords s pa (BitVec.ofNat 64 (phaseBit q.prod.toNat n + w0) :: rest)
  let k := q.unannounced + 1
  let s := { s with cqs := s.cqs.put c { q with
    prod := q.prod + 1, unannounced := k, oldest := if q.unannounced == 0 then s.now else q.oldest } }
  if max 1 (bits q.ctl.toNat 8 8) ≤ k then announce s c else s

/-! ### Signals -/

/-- Whether a condition holds; `walk` at the walk of an update (R430). -/
def signalHolds (code : Nat) (value c : Word64) (walk : Bool) : Bool :=
  match code with
  | 0 => value == c
  | 1 => value != c
  | 2 => decide (c.toNat ≤ value.toNat)
  | 3 => decide (value.toNat < c.toNat)
  | 4 => walk
  | _ => false

def State.signal (s : State) (g : Nat) : Word64 := s.signals.look 0 g

/-- Test one waiter against the value an update produced: whether it stays, and the machine after (R430). -/
def walkWaiter (s : State) (v : Word64) : Waiter → Bool × State
  | .slot n =>
    let x := s.slot n
    if signalHolds x.gop v x.gval true then (false, s.setSlot n { x with gateHeld := false, gateOpen := true })
    else (true, s)
  | .hart h rd cond c =>
    if signalHolds cond v c true then
      let x := s.hart h
      (false, s.setHart h { x with pc := x.pc + 4, wait := .none,
                                   x := if rd == 0 then x.x else x.x.put rd v })
    else (true, s)

/-- An update of a signal, and the walk of its waiters in the order in which they parked (R430). -/
def updateSignal (s : State) (g : Nat) (v : Word64) : State :=
  let s := { s with signals := s.signals.put g v }
  let r := (s.waiters.look [] g).foldl (fun (a : List Waiter × State) w =>
    let x := walkWaiter a.2 v w
    (if x.1 then a.1 ++ [w] else a.1, x.2)) ([], s)
  { r.2 with waiters := r.2.waiters.put g r.1 }

/-- The value an operation produces (R364, R430). -/
def SignalOp.apply (op : SignalOp) (old v : Word64) : Word64 :=
  match op with
  | .set => v
  | .add => old + v
  | .sub => old - v

/-! ### Capture and replay -/

/-- CRC-64 under the polynomial of R188, most significant bit first, from 0 (log 41). -/
def crcStep (c : BitVec 64) (b : Byte) : BitVec 64 :=
  (List.range 8).foldl (fun (c : BitVec 64) _ =>
    if c.msb then (c <<< 1) ^^^ 0x42F0E1EBA9EA3693#64 else c <<< 1) (c ^^^ ((b.setWidth 64 : BitVec 64) <<< 56))
def crc64 (bs : List Byte) : Word64 := bs.foldl crcStep 0

/-- Words of a capture record; a placement of the fields that R441 lists (log 41). -/
def captureWords (type_ : Nat) (a : Nat) (rest : List Word64) : List Word64 :=
  (BitVec.ofNat 64 (type_ * 2 ^ 56 + a % 2 ^ 56) :: rest ++ [0, 0, 0]).take 4

/-- Append a record; a full buffer stops capture and posts CAPFULL (R442). -/
def captureAppend (s : State) (ws : List Word64) : State :=
  let c := s.cap
  if c.size.toNat < c.ptr + 32 then postEvent { s with cap := { c with mode := 0 } } 0x05 0
  else physWriteWords { s with cap := { c with ptr := c.ptr + 32 } } (bits c.base.toNat 12 40 * 4096 + c.ptr) ws

/-- Record `i` of the capture buffer. -/
def captureRecord (s : State) (i : Nat) : List Word64 :=
  let pa := bits s.cap.base.toNat 12 40 * 4096 + 32 * i
  [physWord s pa, physWord s (pa + 8), physWord s (pa + 16), physWord s (pa + 24)]

def recordType (ws : List Word64) : Nat := bits (ws.headD 0).toNat 56 8

/-- A recorded steal from or by a core that is fenced now: it cannot be followed (R442, R456, log 41). -/
def fencedSteal (s : State) (r : List Word64) : Bool :=
  recordType r == 3 && (s.cmFence.contains (bits (r.headD 0).toNat 10 10) || s.cmFence.contains (bits (r.headD 0).toNat 0 10))

/-- The first record from `i` on that is a tile record, or is not. -/
def nextRecord (s : State) (tile : Bool) (i : Nat) : Nat → Option (Nat × List Word64)
  | 0 => none
  | n + 1 =>
    let r := captureRecord s i
    if recordType r != 0 && (recordType r == 5) == tile && !fencedSteal s r then some (i, r) else nextRecord s tile (i + 1) n

/-- The next decision recorded, in replay. -/
def nextDecision (s : State) : Option (List Word64) :=
  if s.cap.mode == 2 then
    (nextRecord s false s.cap.replayAt (s.cap.size.toNat / 32 - s.cap.replayAt)).map (·.2)
  else none

/-- A decision: recorded in capture; in replay it is made only when it is the next one recorded (R442). The words
compared leave out times. -/
def decision (s : State) (type_ a : Nat) (key rest : List Word64) : Option State :=
  let ws := captureWords type_ a (key ++ rest)
  if s.cap.mode == 1 then some (captureAppend s ws)
  else if s.cap.mode == 2 then
    match nextRecord s false s.cap.replayAt (s.cap.size.toNat / 32 - s.cap.replayAt) with
    | none => some s
    | some (i, r) =>
      if r.take (1 + key.length) == ws.take (1 + key.length) then
        some { s with cap := { s.cap with replayAt := i + 1 } }
      else none
  else some s

/-- The next decision recorded is passed over. -/
def skipDecision (s : State) : State :=
  match nextRecord s false s.cap.replayAt (s.cap.size.toNat / 32 - s.cap.replayAt) with
  | some (i, _) => { s with cap := { s.cap with replayAt := i + 1 } }
  | none => s

/-- An atomic or a reduce hop at a module word, by the word's number: its rank among those recorded for it (R441). -/
def wordDecision (s : State) (m w : Nat) : Option State :=
  let word := captureWords 6 m [BitVec.ofNat 64 w]
  let rank := ((List.range (s.cap.ptr / 32)).filter (fun i => (captureRecord s i).take 2 == word.take 2)).length
  decision s 6 m [BitVec.ofNat 64 w] [BitVec.ofNat 64 rank]

/-- A RATM or one piece of a reduce hop: every 8-byte word that its `n` bytes touch arrives (R441). -/
def atomDecision (s : State) (m a n : Nat) : Option State :=
  (wordsOf a n).foldl (fun r w => r.bind (fun s => wordDecision s m w)) (some s)

/-- A tile has landed: its digest is recorded, or compared with the next one recorded; the first difference sets
DIFF and the index and posts CAPDIFF (R441, R442). -/
def captureTile (s : State) (core team win slot : Nat) (bs : List Byte) : State :=
  let ws := captureWords 5 (core * 2 ^ 16 + team * 2 ^ 8 + win * 16 + slot) [crc64 bs]
  if s.cap.mode == 1 then captureAppend s ws
  else if s.cap.mode == 2 then
    match nextRecord s true s.cap.index (s.cap.size.toNat / 32 - s.cap.index) with
    | none => s
    | some (i, r) =>
      let c := { s.cap with index := i + 1, tiles := s.cap.tiles + 1 }
      if r.take 2 == ws.take 2 || s.cap.diff then { s with cap := c }
      else postEvent { s with cap := { c with diff := true, diffAt := s.cap.tiles } } 0x06 0
  else s

/-! ### Cancels (R206, R207) -/

/-- A team takes CANCEL; a call it is parked in frees its entry (R206, R453). -/
def cancelTeam (t : Team) : Team :=
  if t.cancelled then t
  else
    let th := { t.th with stage := t.th.stage.filter (fun (e : Nat × Stage) => match e.2 with | .parked _ => false | _ => true) }
    { t with cancelled := true, th := th.post ⟨0x0D, 0, 0, false, none⟩ }

/-- A darning entry that a cancelled or lost unit leaves (R206, R415). -/
def discardEntry (s : State) (entry : Nat) : State :=
  let d := s.die ((entry - 1) / 64)
  let e := d.darning.look Darning.free ((entry - 1) % 64)
  let e := if e.state == 2 && e.out == 0 then { e with state := if e.pend == 0 then 0 else 5 } else e
  s.setDie ((entry - 1) / 64) { d with darning := d.darning.put ((entry - 1) % 64) e }

/-- The teams in the save area of a unit have ended without being resumed. -/
def UnitRec.noteSaved (r : UnitRec) (now : Nat) : UnitRec :=
  r.savedTeams.foldl (fun (v : UnitRec) x => v.noteEnd r.core ((r.slots[x.1]?).getD 0) x.2 0 0 0 now) r

/-- Cancel a placed unit: its teams take CANCEL; a save of it that has not ended is given up; a suspended one ends
without being resumed (R206, R408). -/
def cancelUnit (s : State) (u : Nat) : State :=
  match s.unit u with
  | none => s
  | some r =>
    if r.st == .ended || r.counter.cxl then s
    else
      let s := s.setUnit u { r with counter := { r.counter with cxl := true } }
      let s := s.onLaunch r.launch (fun l => { l with suspended := l.suspended.filter (· != r.index) })
      if r.st == .suspended then
        let s := freeCalls s (r.savedTeams.flatMap (·.2.th.calls))
        let s := { s with
          pendings := s.pendings.map (fun (e : Nat × Pending) =>
            if e.2.core == savedCore u then (e.1, { e.2 with discard := true }) else e)
          gangAcc := s.gangAcc.filter (fun e => e.2.core != savedCore u) }
        let s := s.onUnit u (fun r => { r.noteSaved s.now with
          counter := { r.counter with done := satCount (r.counter.done + r.savedTeams.length) }, savedTeams := [] })
        endUnit (if r.entry == 0 then s else discardEntry s r.entry) u
      else
        let held := r.st == .requested || r.st == .saving
        let ts := s.teams.filter (fun e => e.2.unit == u)
        let s := freeCalls s (ts.flatMap (·.2.th.calls) ++ r.savedTeams.flatMap (·.2.th.calls))
        let s := s.onUnit u (fun r => { r with savedTeams := r.savedTeams.map (fun (e : Nat × Team) => (e.1, cancelTeam e.2)) })
        let s := { s with teams := s.teams.map (fun e =>
          if e.2.unit == u then
            let t := cancelTeam e.2
            (e.1, if held then { t with th := { t.th with preq := false },
                                        set_ := if t.set_ == .saved then .pending else t.set_ } else t)
          else e) }
        if held then
          let s := dropSaved s u r
          let c := s.core r.core
          (s.onUnit u (fun r => { r with st := .running })).setCore r.core { c with
            pstat := (c.pstat &&& 0x3FFFFFFFFFFFFFFF#64) ||| 0xC000000000000000#64, pcmdBusy := resumeRuns s r.core }
        else s

/-- The matrix records of a launch that place a program on a cluster (R365). -/
def Launch.matrixRecs (l : Launch) (cl : Nat) : List (List Word64) :=
  l.recs.filter (fun r => bits (r.headD 0).toNat 62 2 == 1 &&
    bits ((r[3 + cl / 64]?).getD 0).toNat (cl % 64) 1 == 1)
def Launch.progsOn (l : Launch) (cl : Nat) : Nat := (l.matrixRecs cl).length

/-- Discard the units of a launch that wait for a core, and what else has not started (R206). -/
def discardWaiting (s : State) (l : Nat) : State :=
  let mine (q : Queued) : Bool := q.launch == l
  let n := (s.dies.map (fun d => (d.2.backlog.filter mine).length)).sum +
    (s.cores.map (fun c => (c.2.unitQueue.filter mine).length)).sum
  let progs := (s.waitProgs.filter (fun p => p.2.launch == l)).length
  let left := (s.copies.filter (fun c => c.2.launch == l)).map (·.2.left)
  let s := { s with
    dies := s.dies.map (fun (d : Nat × Die) => (d.1, { d.2 with backlog := d.2.backlog.filter (fun q => !mine q) }))
    cores := s.cores.map (fun (c : Nat × Core) => (c.1, { c.2 with unitQueue := c.2.unitQueue.filter (fun q => !mine q) }))
    waitProgs := s.waitProgs.filter (fun p => p.2.launch != l)
    copies := s.copies.filter (fun c => c.2.launch != l) }
  s.onLaunch l (fun x => { x with
    ended := x.ended + n, progs := x.progs - progs - (x.cmask.map x.progsOn).sum, cmask := [], copies := x.copies - left.sum })

/-- A cancel as one launch meets it; a bundle whose header is not read yet meets it once it is (R206, R368). -/
def cancelLaunch (s : State) (l : Nat) : State :=
  match s.launch l with
  | none => s
  | some x =>
    match x.st with
    | .completing | .done | .queued => s
    | .taken | .waiting =>
      if x.hdr.isEmpty then s
      else s.setLaunch l { x with st := .completing, status := x.status ||| 2, tend := s.now, counter := { x.counter with cxl := true } }
    | .starting | .running =>
      let s := discardWaiting (s.setLaunch l { x with status := x.status ||| 2, counter := { x.counter with cxl := true } }) l
      let s := (s.units.filter (fun e => e.2.launch == l)).foldl (fun s e => cancelUnit s e.1) s
      (s.progs.filter (fun e => e.2.launch == l)).foldl (fun s e => endProg s (e.1 / 4) (e.1 % 4) false) s

/-- Cancel every launch that satisfies `p`. -/
def cancelWhere (s : State) (p : Launch → Bool) : State :=
  (s.launches.filter (fun e => p e.2)).foldl (fun s e => cancelLaunch s e.1) s

/-- Whether every member of the instance that holds the launches `p` has finished: the counter says that all that started
are done, no unit of those launches is to come, and no bundle of the instance is still to be taken: `q` tells it by word
0 of its header, and one that cannot be read counts as one (R205, R207, log 107). An instance without units has none that
could finish. -/
def instanceOver (s : State) (c : Counter) (job : Nat) (p : Launch → Bool) (q : Word64 → Bool) : Bool :=
  0 < c.started && c.started == c.done && s.launches.all (fun e => !p e.2 || (match e.2.st with
    | .queued | .taken | .waiting | .starting => false
    | .running => (match e.2.vec with | some v => e.2.ended == v.units | none => true)
    | .completing | .done => true)) &&
    !s.slots.any (fun k => k.2.job == job && (untaken s k.2).any (fun w => match w with | some w => q w | none => true))

/-- Cancel a job; a second cancel has no effect, and one of a job whose members have all finished only sets CXL (R206,
R207). The graphs and phases of the job are cancelled with it. -/
def cancelJob (s : State) (j : Nat) : State :=
  let c := s.jobCtr.look Counter.zero j
  let on (m : FMap Counter) : FMap Counter := m.map (fun e => if e.1 / 65536 == j then (e.1, { e.2 with cxl := true }) else e)
  let s1 := { s with jobCtr := s.jobCtr.put j { c with cxl := true } }
  if c.cxl then s
  else if instanceOver s c j (fun l => l.job == j) (fun _ => true) then s1
  else cancelWhere { s1 with graphs := on s1.graphs, phases := on s1.phases } (fun l => l.job == j)

/-- A fatal error of a job (R455). -/
def jobFatal (s : State) (j sub : Nat) (detail : Word64) : State :=
  let x := s.job j
  errorRecord (cancelJob (s.setJob j { x with jctx := x.jctx &&& ~~~1#64 }) j) 1 sub (BitVec.ofNat 64 j) detail

end Sys2Proof.Machine
end

