-- ==== Sys2Proof/Machine/Castling.lean ====
section
/-! DEFINITION. Castling: replacing the image of a firmware role under test (R437 to R440), the measurement log
(R460); and the control of capture and replay (R441, R442). -/

namespace Sys2Proof.Machine
open Sys2Proof

def State.role (s : State) (r : Nat) : Role := s.roles.look Role.idle r
def State.setRole (s : State) (r : Nat) (x : Role) : State := { s with roles := s.roles.put r x }

/-! ### The measurement log (R460) -/

/-- Append a digest; a full log is not written and sets OVF, and the index advances all the same. -/
def measure (s : State) (digest : List Byte) : State :=
  if s.mlogCnt < 256 then { s with mlog := s.mlog.put s.mlogCnt digest, mlogCnt := s.mlogCnt + 1 }
  else { s with mlogOvf := true, mlogCnt := s.mlogCnt + 1 }

/-- Index of the last entry (R437). -/
def lastMidx (s : State) : Nat := (s.mlogCnt - 1) % 2 ^ 32

/-- Every job with JRMS EN = 1 has its signal set to the new MIDX (R440). -/
def remeasure (s : State) : State :=
  s.jobs.foldl (fun s e =>
    if e.2.jrms.getLsbD 63 then updateSignal s (bits e.2.jrms.toNat 0 12) (BitVec.ofNat 64 (lastMidx s)) else s) s

/-- A digest is appended to the log: the jobs' signals follow (R440). -/
def measureRole (s : State) (digest : List Byte) : State := remeasure (measure s digest)

/-! ### Images and hand-over blocks (R438, R439) -/

/-- Header and body of the image at a physical address. -/
def readImage (s : State) (pa : Nat) : Option (List Byte × List Byte) :=
  match physRead s pa 0x200 with
  | none => none
  | some (hdr, _) => (physRead s (pa + 0x200) (numOfBytes ((hdr.drop 8).take 8))).map (fun b => (hdr, b.1))

/-- The message both signatures sign (R439). -/
def imageMessage (hdr body : List Byte) : List Byte := shake256 (hdr.take 0x40 ++ body) 64

/-- Both signatures of an image (R439). -/
def imageSigned (owner hdr body : List Byte) : Bool :=
  let m := imageMessage hdr body
  ed448Verify (bytesOfNum 57 Config.vendorKey) m ((hdr.drop 0x40).take 114) &&
    ed448Verify owner m ((hdr.drop 0xC0).take 114)

/-- SHAKE256 of an image, as the measurement log holds it (R440). -/
def imageDigest (hdr body : List Byte) : List Byte := shake256 (hdr ++ body) 64

/-- `n` bytes of the boot store (R461). -/
def bootBytes (off n : Nat) : List Byte := (List.range n).map (fun i => Config.bootStore (off + i))

/-- Directory entry `i` of the boot store: its two words and whether the rest is zero (R461). -/
def bootEntry (i : Nat) : Nat × Nat × Bool :=
  (numOfBytes (bootBytes (32 * i) 8), numOfBytes (bootBytes (32 * i + 8) 8), numOfBytes (bootBytes (32 * i + 16) 16) == 0)

/-- The entries of one TYPE, as offset and length. -/
def bootItems (t : Nat) : List (Nat × Nat) :=
  ((List.range 16).map bootEntry).filterMap (fun e =>
    if bits e.1 56 8 == t then some (e.2.1, bits e.1 0 32) else none)

/-- Bytes of the one item of a TYPE. -/
def bootItem (t : Nat) : List Byte :=
  match bootItems t with
  | (off, len) :: _ => bootBytes off len
  | [] => []

/-- The owner key: the one OWNERDIG accepts (R460, R461). -/
def ownerKey : List Byte := bootItem 1

/-! ### Bring-up (R459 to R461) -/

/-- STEP and ERR of BOOTSTAT. -/
def bootStat (step err : Nat) : Word64 := BitVec.ofNat 64 (step * 2 ^ 60 + err * 2 ^ 56)

/-- Whether a role gives up a step that has not succeeded: the firmware's choice (R459, log 33). -/
def stepFails (s : State) (step : Nat) : Bool × State := (Config.stepFails step s.freeCtr, { s with freeCtr := s.freeCtr + 1 })

/-- A tune has failed: with no other link tuning or in use, the fabric role goes on or gives up, ERR 4 (R459, log 33). -/
def bootLinkFails (s : State) : State :=
  if s.boot == bootStat 3 0 && s.links.all (fun e => e.2.state == 0) then
    match stepFails s 4 with
    | (true, s) => { s with boot := bootStat 3 4 }
    | (false, s) => s
  else s

/-- LOAD, LEN and the entry of the control-core image (R461). -/
def controlImage : Nat × Nat × Nat :=
  let img := bootItem 5
  let load := numOfBytes ((img.drop 0x18).take 8)
  (load, numOfBytes ((img.drop 8).take 8), load + numOfBytes ((img.drop 0x10).take 8))

/-- Tables have been committed: step 5 is complete once the extents of the control-core image are granted; else the
management role goes on or gives up, ERR 5 (R459, log 33). -/
def bootExtents (s : State) : State :=
  if s.boot == bootStat 4 0 then
    if (physRead s controlImage.1 controlImage.2.1).isSome then { s with boot := bootStat 5 0 }
    else match stepFails s 5 with
      | (true, s) => { s with boot := bootStat 4 5 }
      | (false, s) => s
  else s

/-- The steps that the package takes by itself, one at a time: a link that is UP completes step 4; the control-core image
is copied to its LOAD address, and harts 0 to 15 leave reset at its entry with a0 their number: step 6; the root ports
train: step 7 (R459, R461, log 33). -/
def bootSettle (s : State) : State :=
  if s.boot == bootStat 3 0 then
    if s.links.any (fun e => e.2.state == 3) then { s with boot := bootStat 4 0 } else s
  else if s.boot == bootStat 5 0 then
    { physWrite s controlImage.1 (((bootItem 5).drop 0x200).take controlImage.2.1) false with
      boot := bootStat 6 0,
      controls := (List.range 16).map (fun h => (h, Control.started (BitVec.ofNat 64 controlImage.2.2) h)) }
  else if s.boot == bootStat 6 0 then { s with boot := bootStat 7 0 }
  else s

/-- Whether bring-up has come to its end: queues accept kicks (R459). -/
def bootOver (s : State) : Bool := s.boot == bootStat 7 0

/-- Whether the directory of the boot store is right: each of the types 1 to 5 once, no other, and zeros (R461). -/
def bootDirectoryOk : Bool :=
  let es := (List.range 16).map bootEntry
  es.all (fun e => bits e.1 56 8 < 6 && bits e.1 32 24 == 0 && e.2.2) &&
    [1, 2, 3, 4, 5].all (fun t => (bootItems t).length == 1)

/-- Header and body of an item of the boot store. -/
def bootImage (t : Nat) : List Byte × List Byte := ((bootItem t).take 0x200, (bootItem t).drop 0x200)

/-- The boot ROM: the owner key and four images are checked, their digests measured, and the roles started, at
addresses the manual leaves open (R459 to R461, log 33). -/
def bootRom (s : State) : State :=
  let key := ownerKey
  let dig := shake256 key 64
  if !bootDirectoryOk then { s with boot := bootStat 2 2 }
  else if s.ownerDig != [] && s.ownerDig != dig then { s with boot := bootStat 2 3 }
  else
    let s := { s with ownerDig := dig }
    let imgs := [2, 3, 4, 5].map bootImage
    if !imgs.all (fun i => imageSigned key i.1 i.2) then { s with boot := bootStat 2 2 }
    else
      let digs := imgs.map (fun i => imageDigest i.1 i.2)
      let s := digs.foldl measure s
      let s := [0, 1, 2].foldl (fun s r =>
        let (v, s) := freeValue s
        (s.setHart r { Hart.zero with pc := v }).setRole r
          { s.role r with digest := digs.getD r [] }) s
      { s with boot := bootStat 3 0 }

/-- What a reset leaves: every register at its reset value and SRAM zero; the modules, the fuses and the model's own
fields stay (R459, R460). -/
def resetPackage (s : State) : State :=
  { State.reset with
    sched := s.sched, cur := s.cur, freeCtr := s.freeCtr, nextId := s.nextId, modSize := s.modSize,
    modRevoked := s.modRevoked, ownerDig := s.ownerDig,
    mem := { State.reset.mem with far := s.mem.far, farPsn := s.mem.farPsn } }

/-- PACKAGE_RESET: reset, self-test with its fences, and the boot ROM (R459). -/
def execPackageReset (s : State) : Result :=
  let n := s.freeCtr
  let s := { resetPackage s with freeCtr := n + 1 }
  let s := { s with cmFence := (List.range 1024).filter (Config.coreFails n) }
  if [0, 1, 2, 3].any (fun d => (List.range 256).all (fun k => Config.coreFails n (256 * d + k))) then
    .next { s with boot := bootStat 1 1 }
  else .next (bootRom { s with boot := bootStat 2 0 })

/-- Whether a hand-over block is right for a role: ROLE, SCHEMA, LEN and DIGEST (R438). -/
def handOverOk (s : State) (r : Nat) (x : Role) : Bool :=
  let pa := bits x.hob.toNat 7 45 * 128
  match physRead s pa 128 with
  | none => false
  | some (h, _) =>
    let w := numOfBytes (h.take 8)
    let len := bits w 0 32
    if bits w 56 8 != r || bits w 32 16 != x.schema.toNat || 2 ^ 24 < len then false
    else match physRead s (pa + 128) len with
      | none => false
      | some (b, _) => shake256 b 64 == (h.drop 8).take 64

/-! ### The states of castling (R440) -/

/-- CASTLING_START (CMD 1): the header is checked. -/
def execCastlingStart (role : Nat) (s : State) : Result :=
  let x := s.role role
  if x.state != 0 then .next s
  else if [0, 1, 2].any (fun r => (s.role r).state != 0) then .next (s.setRole role { x with why := 2 })
  else
    let pa := bits x.img.toNat 9 43 * 512
    let ok := match physRead s pa 0x200 with
      | none => false
      | some (h, _) =>
        let w := numOfBytes (h.take 8)
        bits w 56 8 == role && bits w 32 16 ≤ x.schema.toNat && x.schema.toNat ≤ bits w 16 16
    .next (if ok then raiseOn (s.setRole role { x with state := 2, why := 0, image := pa }) role 3
      else s.setRole role { x with why := 1 })

/-- Whether a command comes from the image of a role: from its hart, the number of which is the role's (R440, R459). -/
def fromRole (s : State) (role : Nat) : Bool :=
  match s.cur with
  | .hart h => h == role
  | _ => true

/-- HAND_OVER_WRITTEN (CMD 2 from the outgoing image): it freezes; its hart stands behind the store. -/
def execHandOverWritten (role : Nat) (s : State) : Result :=
  let x := s.role role
  if x.state != 2 || !fromRole s role then .next s else .next (s.setRole role { x with state := 3 })

/-- A hart no longer waits on any signal. -/
def forgetHart (s : State) (h : Nat) : State :=
  { s with waiters := s.waiters.map (fun (e : Nat × List Waiter) => (e.1, e.2.filter (fun w => match w with
      | .hart k _ _ _ => k != h
      | .slot _ => true))) }

/-- The new image starts at ENTRY with a0 = the HOB address; the outgoing one is held. -/
def startImage (s : State) (role : Nat) (hdr : List Byte) : State :=
  let x := s.role role
  let entry := x.image + 0x200 + numOfBytes ((hdr.drop 0x10).take 8)
  let s := forgetHart { s with heldHarts := s.heldHarts.put role { s.hart role with wait := .none } } role
  s.setHart role { Hart.zero with pc := BitVec.ofNat 64 entry,
                                  x := [(10, BitVec.ofNat 64 (bits x.hob.toNat 7 45 * 128))] }

/-- CASTLING_VERIFY_DONE: signatures and DIGEST decide. -/
def execCastlingVerifyDone (role : Nat) (s : State) : Result :=
  let x := s.role role
  if x.state != 3 then .next s
  else match readImage s x.image with
    | none => .next (s.setRole role { x with state := 0, why := 3 })
    | some (hdr, body) =>
      if !imageSigned ownerKey hdr body then .next (s.setRole role { x with state := 0, why := 3 })
      else if !handOverOk s role x then .next (s.setRole role { x with state := 0, why := 4 })
      else
        let d := imageDigest hdr body
        let s := measureRole (s.setRole role { x with state := 4, newDigest := d, probStart := s.now, lastBeat := s.now }) d
        .next (startImage s role hdr)

/-- HBEAT: one that comes 1,000,000 ns after the last ends no gap: the role is REVERTED. -/
def execHbeat (role : Nat) (s : State) : Result :=
  let x := s.role role
  if x.state != 4 || 1000000 ≤ s.now - x.lastBeat then .next s
  else .next (s.setRole role { x with lastBeat := s.now })

/-- PROBATION_TIMEOUT: the new image is stopped, and the outgoing one resumes with a0 = 1. -/
def execProbationTimeout (role : Nat) (s : State) : Result :=
  let x := s.role role
  if x.state != 4 || s.now - x.lastBeat < 1000000 then .next s
  else
    let s := measureRole (s.setRole role { x with state := 5 }) x.digest
    let h := s.heldHarts.look Hart.zero role
    let s := (forgetHart s role).setHart role { h with x := h.x.put 10 1 }
    .next (postEvent { s with heldHarts := s.heldHarts.del role } 0x03 role)

/-- PROBATION_END, 500 ms after its start: the role is IDLE again. DATA of CASTEND holds the role in [7:0] and the
final state in [15:8] (log 34). -/
def execProbationEnd (role : Nat) (s : State) : Result :=
  let x := s.role role
  if !(x.state == 4 || x.state == 5) || s.now - x.probStart < 500000000 ||
      (x.state == 4 && 1000000 ≤ s.now - x.lastBeat) then .next s
  else
    let y := { x with state := 0, digest := if x.state == 4 then x.newDigest else x.digest, newDigest := [] }
    .next (postEvent { s.setRole role y with heldHarts := s.heldHarts.del role } 0x04 (role + x.state * 256))

/-! ### Capture and replay (R441, R442) -/

/-- CAPTURE_OFF (MODE 0). -/
def execCaptureOff (s : State) : Result := .next { s with cap := { s.cap with mode := 0 } }

/-- CAPTURE (MODE 1): recording starts at the front of the buffer. -/
def execCapture (s : State) : Result :=
  if s.cap.mode == 1 then .next s else .next { s with cap := { s.cap with mode := 1, ptr := 0 } }

/-- REPLAY_MODE (MODE 2): the records are followed from the first. -/
def execReplayMode (s : State) : Result :=
  if s.cap.mode == 2 then .next s
  else .next { s with cap := { s.cap with mode := 2, diff := false, diffAt := 0, index := 0, tiles := 0,
                                          replayAt := 0 } }

end Sys2Proof.Machine
end

