-- ==== Sys2Proof/Machine/Flags.lean ====
section
/-! DEFINITION. The five flags (R128), the rounding modes (R126), and the condition codes (R218, R293). -/

namespace Sys2Proof.Machine
open Sys2Proof

/-! ### Flags (R128) -/

/-- The flag word: NV [4], DZ [3], OF [2], UF [1], NX [0] (R128). -/
abbrev Flags := BitVec 5

def flagNV : Flags := 0x10#5
def flagDZ : Flags := 0x08#5
def flagOF : Flags := 0x04#5
def flagUF : Flags := 0x02#5
def flagNX : Flags := 0x01#5

/-- A flag when its condition holds. -/
def Flags.when (b : Bool) (f : Flags) : Flags := if b then f else 0

/-! ### Rounding (R126) -/

/-- The rounding modes (R126). RN of q32 is `rne` read by the q32 operations. -/
inductive Rnd where
  | rne
  | rz
  | rd
  | ru
  | rna
  | rmed
  deriving DecidableEq, Repr

/-- TMODE.FTZ (R225). -/
def tmodeFtz (tm : BitVec 5) : Bool := tm.getLsbD 4
/-- TMODE.QM (R225). -/
def tmodeQm (tm : BitVec 5) : Bool := tm.getLsbD 0

/-- The code in force: the prefix field, or TMODE [3:1] when it is 000 or absent (R126). -/
def rndCode (p : Option LanePfx) (tm : BitVec 5) : Nat :=
  match p with
  | some x => if x.rnd = 0 then (tm.extractLsb' 1 3).toNat else x.rnd.toNat
  | none => (tm.extractLsb' 1 3).toNat

/-- The mode of an operation that is not q32 (R126). -/
def binRnd : Nat → Rnd
  | 2 => .rz
  | 3 => .rd
  | 4 => .ru
  | 5 => .rna
  | _ => .rne

/-- The mode of a q32 operation: RN for RNE, RNA and the reserved code (R126). -/
def ratRnd : Nat → Rnd
  | 2 => .rz
  | 3 => .rd
  | 4 => .ru
  | 6 => .rmed
  | _ => .rne

/-! ### Condition codes (R218, R219) -/

/-- N, Z, C, V in [3:0]. -/
def nzcv (n z c v : Bool) : BitVec 4 :=
  BitVec.ofNat 4 ((if n then 8 else 0) + (if z then 4 else 0) + (if c then 2 else 0) + (if v then 1 else 0))

/-- Whether a condition holds on a condition-code register (R218). -/
def condHolds (code : Nat) (x : BitVec 4) : Bool :=
  let n := x.getLsbD 3
  let z := x.getLsbD 2
  let c := x.getLsbD 1
  let v := x.getLsbD 0
  match code with
  | 0 => true
  | 1 => z
  | 2 => !z
  | 3 => !c
  | 4 => c
  | 5 => n
  | 6 => !n
  | 7 => v
  | 8 => !v
  | 9 => c && !z
  | 10 => !c || z
  | 11 => n == v
  | 12 => n != v
  | 13 => !z && n == v
  | 14 => z || n != v
  | _ => false

/-- The codes of a 32-bit word delivered: N its top bit, Z whether it is 0 (R293). -/
def wordNzcv (r : Word32) (c v : Bool) : BitVec 4 := nzcv (r.getLsbD 31) (r == 0) c v

end Sys2Proof.Machine
end

