-- ==== Sys2Proof/Machine/Formats.lean ====
section
/-! DEFINITION. Exact values, the binary floating formats (R122 to R124), rounding into them (R125, R128) and their
arithmetic (R298 to R301). -/

namespace Sys2Proof.Machine
open Sys2Proof

/-! ### Exact values -/

/-- A value before rounding: NaN (signalling or not), an infinity, or a signed fraction with a positive denominator
(a zero keeps its sign, R124). -/
inductive Val where
  | nan (sig : Bool)
  | inf (neg : Bool)
  | fin (neg : Bool) (num den : Nat)
  deriving DecidableEq, Repr

def Val.isNan : Val → Bool
  | .nan _ => true
  | _ => false
def Val.isSig : Val → Bool
  | .nan b => b
  | _ => false
def Val.isInf : Val → Bool
  | .inf _ => true
  | _ => false
def Val.isZero : Val → Bool
  | .fin _ n _ => n == 0
  | _ => false
def Val.sign : Val → Bool
  | .nan _ => false
  | .inf s => s
  | .fin s _ _ => s

/-- n times 2^x as a fraction. -/
def scaled (n : Nat) (x : Int) : Nat × Nat :=
  if 0 ≤ x then (n * 2 ^ x.toNat, 1) else (n, 2 ^ (-x).toNat)

/-- The integer with the sign. -/
def signed (neg : Bool) (n : Nat) : Int := if neg then -(n : Int) else n

/-- The fraction of an integer numerator over a positive denominator; an exact zero takes sign `z`. -/
def fracOf (n : Int) (d : Nat) (z : Bool) : Val :=
  if n = 0 then .fin z 0 1 else .fin (decide (n < 0)) n.natAbs d

/-- Compare two finite or infinite values: less, equal, greater. -/
def Val.cmp : Val → Val → Ordering
  | .fin s a b, .fin t c d => compare (signed s (a * d)) (signed t (c * b))
  | .fin _ _ _, .inf t => if t then .gt else .lt
  | .inf s, .fin _ _ _ => if s then .lt else .gt
  | .inf s, .inf t => if s == t then .eq else if s then .lt else .gt
  | _, _ => .eq

/-! ### Formats (R123) -/

/-- Parameters of a binary floating format (R123), its largest finite magnitude, the code of ∞ and the canonical
NaN where it has them. -/
structure FpFmt where
  e : Nat
  m : Nat
  bias : Nat
  maxCode : Nat
  inf : Option Nat
  nan : Option Nat
  deriving DecidableEq, Repr

def fp32 : FpFmt := ⟨8, 23, 127, 0x7F7FFFFF, some 0x7F800000, some 0x7FC00000⟩
def bf16 : FpFmt := ⟨8, 7, 127, 0x7F7F, some 0x7F80, some 0x7FC0⟩
def fp16 : FpFmt := ⟨5, 10, 15, 0x7BFF, some 0x7C00, some 0x7E00⟩
def e4m3 : FpFmt := ⟨4, 3, 7, 0x7E, none, some 0x7F⟩
def e5m2 : FpFmt := ⟨5, 2, 15, 0x7B, some 0x7C, some 0x7E⟩
def e3m2 : FpFmt := ⟨3, 2, 3, 0x1F, none, none⟩
def e2m3 : FpFmt := ⟨2, 3, 1, 0x1F, none, none⟩
def e2m1 : FpFmt := ⟨2, 1, 1, 0x7, none, none⟩

/-- The floating format of a lane element code (R118). -/
def fpOf : Nat → FpFmt
  | 3 => bf16
  | 4 => fp16
  | 8 => e4m3
  | 9 => e5m2
  | 0xA => e3m2
  | 0xB => e2m3
  | 0xC => e2m1
  | _ => fp32

/-- The sign bit as a number. -/
def FpFmt.signBit (f : FpFmt) : Nat := 2 ^ (f.e + f.m)

/-- A code with its sign. -/
def FpFmt.code (f : FpFmt) (neg : Bool) (mag : Nat) : Nat := (if neg then f.signBit else 0) + mag

/-- The canonical NaN; 0 where the format has none (R123, R139). -/
def FpFmt.nanCode (f : FpFmt) : Nat := f.nan.getD 0

/-- The value of a code (R122 to R124). Bits above the format's width are ignored (R119). -/
def FpFmt.val (f : FpFmt) (x : Nat) : Val :=
  let s := x.testBit (f.e + f.m)
  let c := x % f.signBit
  let ex := c / 2 ^ f.m
  let fr := c % 2 ^ f.m
  let isNan := match f.inf with
    | some i => decide (i < c)
    | none => f.nan == some c
  if isNan then .nan (f.inf.isSome && !fr.testBit (f.m - 1))
  else if f.inf == some c then .inf s
  else
    let p := if ex == 0 then scaled fr (1 - f.bias - f.m) else scaled (2 ^ f.m + fr) (ex - f.bias - f.m)
    .fin s p.1 p.2

/-- Whether a code is a subnormal. -/
def FpFmt.isSub (f : FpFmt) (x : Nat) : Bool :=
  let c := x % f.signBit
  c != 0 && c < 2 ^ f.m

/-- An operand under FTZ: a subnormal reads as a zero of its sign (R125). -/
def FpFmt.read (f : FpFmt) (ftz : Bool) (x : Nat) : Nat :=
  if ftz && f.isSub x then f.code (x.testBit (f.e + f.m)) 0 else x % (2 * f.signBit)

/-! ### Rounding -/

/-- floor(log2(num / den)) of a positive fraction. -/
def ilog2 (num den : Nat) : Int :=
  let k : Int := (Nat.log2 num : Int) - Nat.log2 den
  let p := scaled 1 k
  if den * p.1 ≤ num * p.2 then k else k - 1

/-- num / den to an integer under a mode, and whether it was inexact. -/
def roundDiv (r : Rnd) (neg : Bool) (num den : Nat) : Nat × Bool :=
  let q := num / den
  let x := num % den
  if x == 0 then (q, false)
  else
    let up := match r with
      | .rne => decide (den < 2 * x) || (2 * x == den && q % 2 == 1)
      | .rna => decide (den ≤ 2 * x)
      | .rz => false
      | .rd => neg
      | .ru => !neg
      | .rmed => decide (den < 2 * x) || (2 * x == den && q % 2 == 1)
    (if up then q + 1 else q, true)

/-- num / den over 2^x to an integer. -/
def roundQuantum (r : Rnd) (neg : Bool) (num den : Nat) (x : Int) : Nat × Bool :=
  let p := scaled 1 x
  roundDiv r neg (num * p.2) (den * p.1)

/-- Whether a mode carries an overflow of this sign away from zero (R139). -/
def overflowsAway (r : Rnd) (neg : Bool) : Bool :=
  match r with
  | .rne | .rna | .rmed => true
  | .rz => false
  | .rd => neg
  | .ru => !neg

/-- Round a nonnegative fraction with a sign into a format: the code and its flags (R125, R128, R139).
A format without infinities saturates. -/
def FpFmt.round (f : FpFmt) (r : Rnd) (ftz : Bool) (neg : Bool) (num den : Nat) : Nat × Flags :=
  if num == 0 then (f.code neg 0, 0)
  else
    let ex := ilog2 num den
    let low : Int := 1 - f.bias
    let q := max ex low - f.m
    let n := roundQuantum r neg num den q
    let c := (q + f.m + f.bias - 1).toNat * 2 ^ f.m + n.1
    if f.maxCode < c then
      (match f.inf with
        | some i => if overflowsAway r neg then f.code neg i else f.code neg f.maxCode
        | none => f.code neg f.maxCode, flagOF ||| flagNX)
    else
      -- tiny after rounding as if the exponent had no lower end (R128)
      let tiny := decide (ex < low) &&
        (ex < low - 1 || decide ((roundQuantum r neg num den (ex - f.m)).1 < 2 ^ (f.m + 1)))
      if ftz && f.isSub c then (f.code neg 0, flagUF ||| flagNX)
      else (f.code neg c, Flags.when n.2 flagNX ||| Flags.when (n.2 && tiny) flagUF)

/-- Round a value that is no NaN; infinities pass (R298). -/
def FpFmt.deliver (f : FpFmt) (r : Rnd) (ftz : Bool) (v : Val) : Nat × Flags :=
  match v with
  | .nan _ => (f.nanCode, 0)
  | .inf s => (f.code s (f.inf.getD f.maxCode), 0)
  | .fin s n d => f.round r ftz s n d

/-! ### Arithmetic on exact values -/

/-- Whether any of the values is a signalling NaN (R124). -/
def sigFlags (vs : List Val) : Flags := Flags.when (vs.any Val.isSig) flagNV

/-- An exact sum: infinities of both signs are invalid; an exact zero takes the common sign of its terms, else
that of the mode (R124). -/
def addVal (r : Rnd) : Val → Val → Val × Flags
  | .fin s a b, .fin t c d =>
    (fracOf (signed s (a * d) + signed t (c * b)) (b * d) (if s == t then s else r == .rd), 0)
  | .inf s, .inf t => if s == t then (.inf s, 0) else (.nan false, flagNV)
  | .inf s, .fin _ _ _ => (.inf s, 0)
  | .fin _ _ _, .inf t => (.inf t, 0)
  | _, _ => (.nan false, 0)

def negVal : Val → Val
  | .nan s => .nan s
  | .inf s => .inf (!s)
  | .fin s n d => .fin (!s) n d

/-- An exact product: 0 times ∞ is invalid (R128). -/
def mulVal : Val → Val → Val × Flags
  | .fin s a b, .fin t c d => (.fin (s != t) (a * c) (b * d), 0)
  | .inf s, .inf t => (.inf (s != t), 0)
  | .inf s, .fin t c _ => if c == 0 then (.nan false, flagNV) else (.inf (s != t), 0)
  | .fin s a _, .inf t => if a == 0 then (.nan false, flagNV) else (.inf (s != t), 0)
  | _, _ => (.nan false, 0)

/-- An exact quotient (R128, R298). -/
def divVal : Val → Val → Val × Flags
  | .fin s a b, .fin t c d =>
    if c == 0 then (if a == 0 then (.nan false, flagNV) else (.inf (s != t), flagDZ))
    else (.fin (s != t) (a * d) (b * c), 0)
  | .inf _, .inf _ => (.nan false, flagNV)
  | .inf s, .fin t _ _ => (.inf (s != t), 0)
  | .fin s _ _, .inf t => (.fin (s != t) 0 1, 0)
  | _, _ => (.nan false, 0)

/-! ### Lane float arithmetic on one element -/

/-- Read, compute exactly and round once; a NaN operand gives the canonical NaN, with the flags that the operation
raises beside it: 0 × ∞ is invalid whatever C is (R124, R125, R128, R298, log 22). -/
def FpFmt.arith (f : FpFmt) (r : Rnd) (ftz : Bool) (xs : List Nat) (op : List Val → Val × Flags) : Nat × Flags :=
  let vs := xs.map (fun x => f.val (f.read ftz x))
  let sf := sigFlags vs
  let v := op vs
  if vs.any Val.isNan then (f.nanCode, sf ||| v.2)
  else
    let o := f.deliver r ftz v.1
    (o.1, sf ||| v.2 ||| o.2)

def opAdd (r : Rnd) : List Val → Val × Flags
  | [a, b] => addVal r a b
  | _ => (.nan false, 0)
def opSub (r : Rnd) : List Val → Val × Flags
  | [a, b] => addVal r a (negVal b)
  | _ => (.nan false, 0)
def opMul : List Val → Val × Flags
  | [a, b] => mulVal a b
  | _ => (.nan false, 0)
def opFma (r : Rnd) : List Val → Val × Flags
  | [a, b, c] =>
    let p := mulVal a b
    let q := addVal r p.1 c
    (q.1, p.2 ||| q.2)
  | _ => (.nan false, 0)
def opDiv : List Val → Val × Flags
  | [a, b] => divVal a b
  | _ => (.nan false, 0)

/-- FMIN, FMAX: a single NaN gives the other operand, equal operands give A (R299). -/
def FpFmt.minMax (f : FpFmt) (isMax ftz : Bool) (a b : Nat) : Nat × Flags :=
  let x := f.read ftz a
  let y := f.read ftz b
  let u := f.val x
  let v := f.val y
  let sf := sigFlags [u, v]
  if u.isNan && v.isNan then (f.nanCode, sf)
  else if u.isNan then (y, sf)
  else if v.isNan then (x, sf)
  else
    let takeB := match u.cmp v with
      | .lt => isMax
      | .gt => !isMax
      | .eq => false
    (if takeB then y else x, sf)

/-- FRND: an integral value in the format; NX is never set (R301). -/
def FpFmt.integral (f : FpFmt) (r : Rnd) (ftz : Bool) (a : Nat) : Nat × Flags :=
  let x := f.read ftz a
  match f.val x with
  | .nan s => (f.nanCode, Flags.when s flagNV)
  | .inf _ => (x, 0)
  | .fin s n d => ((f.round .rne false s (roundDiv r s n d).1 1).1, 0)

/-- FSAT: clamped to +0 … 1.0; −0 and NaN give +0 (R301). -/
def FpFmt.clamp (f : FpFmt) (ftz : Bool) (a : Nat) : Nat × Flags :=
  let x := f.read ftz a
  let v := f.val x
  let one := f.bias * 2 ^ f.m
  (if v.isNan || v.sign then 0
   else if v.cmp (.fin false 1 1) == .gt then one else x, sigFlags [v])

/-- FCMP: N less, Z and C equal, C greater, V unordered (R218, R301). -/
def FpFmt.compare (f : FpFmt) (ftz : Bool) (a b : Nat) : BitVec 4 × Flags :=
  let u := f.val (f.read ftz a)
  let v := f.val (f.read ftz b)
  (if u.isNan || v.isNan then nzcv false false false true
   else match u.cmp v with
     | .lt => nzcv true false false false
     | .eq => nzcv false true true false
     | .gt => nzcv false false true false, sigFlags [u, v])

/-- FCLASS of f32 (R301). -/
def classOf (x : Nat) : Nat :=
  match fp32.val x with
  | .nan s => if s then 0x100 else 0x200
  | .inf s => if s then 1 else 0x80
  | .fin s n _ =>
    if n == 0 then (if s then 8 else 0x10)
    else if fp32.isSub x then (if s then 4 else 0x20)
    else if s then 2 else 0x40

/-- The codes of a float result of f32: value below zero, a zero, NaN (R293). -/
def floatNzcv (x : Nat) : BitVec 4 :=
  let v := fp32.val x
  nzcv (v.sign && !v.isZero && !v.isNan) v.isZero false v.isNan

/-! ### Dot products (R300) -/

/-- Exact products of two elements, and the flags of their operands. -/
def dotTerm (f : FpFmt) (ftz : Bool) (a b : Nat) : Val × Flags :=
  let u := f.val (f.read ftz a)
  let v := f.val (f.read ftz b)
  if u.isNan || v.isNan then (.nan false, sigFlags [u, v]) else mulVal u v

/-- The sum of exact terms: NaN where a term is one; infinities of both signs are invalid. -/
def sumVals (r : Rnd) : List Val → Val × Flags
  | [] => (.fin false 0 1, 0)
  | [v] => (v, 0)
  | v :: vs =>
    let t := sumVals r vs
    let s := addVal r v t.1
    (if v.isNan || t.1.isNan then .nan false else s.1, t.2 ||| s.2)

/-- Whether every term is a zero of one sign, or the sum of zeros is signed by the mode (R124). -/
def zeroSign (r : Rnd) (vs : List Val) : Bool :=
  if vs.all (fun v => v.isZero && v.sign) then true
  else if vs.all (fun v => v.isZero && !v.sign) then false
  else r == .rd

/-- C plus the products, rounded once to f32; infinities of both signs set NV beside a NaN too (R128, R300). -/
def dotProduct (f : FpFmt) (r : Rnd) (ftzIn ftz : Bool) (pairs : List (Nat × Nat)) (c : Nat) : Nat × Flags :=
  let cv := fp32.val (fp32.read ftz c)
  let ts := pairs.map (fun p => dotTerm f ftzIn p.1 p.2)
  let fl := (ts.map (·.2)).foldl (· ||| ·) (sigFlags [cv])
  let vs := ts.map (·.1) ++ [cv]
  let clash := vs.any (fun v => v.isInf && v.sign) && vs.any (fun v => v.isInf && !v.sign)
  if clash then (fp32.nanCode, fl ||| flagNV)
  else if vs.any Val.isNan then (fp32.nanCode, fl)
  else
    let v := match (sumVals r vs).1 with
      | .fin s n d => if n == 0 then .fin (zeroSign r vs) 0 1 else .fin s n d
      | x => x
    let o := fp32.deliver r ftz v
    (o.1, fl ||| o.2)

end Sys2Proof.Machine
end

