-- ==== Sys2Proof/Machine/Rational.lean ====
section
/-! DEFINITION. The q32 word (R134 to R136), its rounding (R137, R138) and the q32 operations (R302 to R307). -/

namespace Sys2Proof.Machine
open Sys2Proof

/-! ### The word -/

def qNar : Nat := 0
def qZero : Nat := 0x04000001
/-- ±∞ as canonical words (R136). -/
def qInf (neg : Bool) : Nat := if neg then 0x80000001 else 1
/-- The largest finite magnitude (R136). -/
def qMax : Nat := 2 ^ 25 - 1

/-- Read a q32 word: NaR is a NaN, a fraction is reduced (R135). -/
def qRead (x : Nat) : Val × Flags :=
  let s := x.testBit 31
  let k := bits x 26 5
  let p := bits x 0 26
  let n := p / 2 ^ k
  let d := p % 2 ^ k
  if k == 0 then
    if p == 1 then (.inf s, 0) else (.nan false, Flags.when (p != 0) flagNV)
  else if 26 ≤ k then (.nan false, flagNV)
  else if d == 0 then (if n == 0 then .nan false else .inf s, flagNV)
  else if n == 0 then (.fin false 0 1, 0)
  else (.fin s (n / Nat.gcd n d) (d / Nat.gcd n d), 0)

/-- Bits of a number: 0 for 0. -/
def bitLen (n : Nat) : Nat := if n == 0 then 0 else Nat.log2 n + 1

/-- Whether a reduced fraction fits a word and the denominator limit, 0 for none (R136, R306). -/
def qFits (limit n d : Nat) : Bool := bitLen n + bitLen d ≤ 26 && (limit == 0 || d ≤ limit)

/-- The canonical word of a fraction that fits (R136). -/
def qWord (neg : Bool) (n d : Nat) : Nat :=
  if n == 0 then qZero
  else (if neg then 2 ^ 31 else 0) + bitLen d * 2 ^ 26 + n * 2 ^ bitLen d + d

/-- The canonical word of a value that needs no rounding (R136). -/
def qEncode : Val → Nat
  | .nan _ => qNar
  | .inf s => qInf s
  | .fin s n d => qWord s n d

/-! ### Neighbours (R137, R306) -/

/-- The most steps `j` for which (n + j dn) / (d + j dd) still fits. -/
def qReach (limit n d dn dd : Nat) : Nat :=
  let box (k : Nat) : Nat :=
    let top := if limit == 0 then 2 ^ k - 1 else min (2 ^ k - 1) limit
    if n ≤ 2 ^ (26 - k) - 1 && d ≤ top then
      if dn == 0 then (top - d) / dd
      else if dd == 0 then (2 ^ (26 - k) - 1 - n) / dn
      else min ((2 ^ (26 - k) - 1 - n) / dn) ((top - d) / dd)
    else 0
  (List.range 26).foldl (fun m k => max m (box (k + 1))) 0

/-- The neighbours of a / b among the fractions that fit: each round takes a whole run of mediants on one side. -/
def qWalk (limit a b : Nat) : Nat → Nat × Nat → Nat × Nat → (Nat × Nat) × (Nat × Nat)
  | 0, lo, hi => (lo, hi)
  | fuel + 1, lo, hi =>
    if qFits limit (lo.1 + hi.1) (lo.2 + hi.2) then
      let x := a * lo.2 - lo.1 * b
      let y := hi.1 * b - a * hi.2
      if (lo.1 + hi.1) * b < a * (lo.2 + hi.2) then
        let j := min ((x - 1) / y) (qReach limit lo.1 lo.2 hi.1 hi.2)
        qWalk limit a b fuel (lo.1 + j * hi.1, lo.2 + j * hi.2) hi
      else
        let j := min ((y - 1) / x) (qReach limit hi.1 hi.2 lo.1 lo.2)
        qWalk limit a b fuel lo (hi.1 + j * lo.1, hi.2 + j * lo.2)
    else (lo, hi)

/-- Whether the mode takes the lower neighbour of the magnitude a / b (R137, R138). -/
def qTakesLow (r : Rnd) (neg : Bool) (a b : Nat) (lo hi : Nat × Nat) : Bool :=
  let tie := if lo.2 == hi.2 then lo.1 % 2 == 0 else decide (lo.2 < hi.2)
  match r with
  | .rz => true
  | .rd => !neg
  | .ru => neg
  | .rmed =>
    let m := compare (a * (lo.2 + hi.2)) (b * (lo.1 + hi.1))
    m == .lt || (m == .eq && tie)
  | .rne | .rna =>
    let m := compare ((a * lo.2 - lo.1 * b) * hi.2) ((hi.1 * b - a * hi.2) * lo.2)
    m == .lt || (m == .eq && tie)

/-- Round a fraction into F_limit, the whole representable set for limit 0 (R136 to R138, R306). -/
def qRound (limit : Nat) (r : Rnd) (neg : Bool) (num den : Nat) : Nat × Flags :=
  let a := num / Nat.gcd num den
  let b := den / Nat.gcd num den
  if num == 0 then (qZero, 0)
  else if qFits limit a b then (qWord neg a b, 0)
  else if qMax * b < a then
    let big := decide (2 ^ 25 * b ≤ a)
    match r with
    | .rne | .rna | .rmed => if big then (qInf neg, flagOF ||| flagNX) else (qWord neg qMax 1, flagNX)
    | .rz => (qWord neg qMax 1, Flags.when big flagOF ||| flagNX)
    | .rd => if neg then (qInf true, flagOF ||| flagNX) else (qWord false qMax 1, Flags.when big flagOF ||| flagNX)
    | .ru => if neg then (qWord true qMax 1, Flags.when big flagOF ||| flagNX) else (qInf false, flagOF ||| flagNX)
  else
    let w := qWalk limit a b 64 (0, 1) (1, 0)
    let c := if qTakesLow r neg a b w.1 w.2 then w.1 else w.2
    (qWord neg c.1 c.2, flagNX ||| Flags.when (c.1 == 0) flagUF)

/-- Deliver an exact value as a canonical word (R136 to R138). -/
def qDeliver (r : Rnd) : Val → Nat × Flags
  | .nan _ => (qNar, 0)
  | .inf s => (qInf s, 0)
  | .fin s n d => qRound 0 r s n d

/-! ### Operations -/

/-- Read operands, compute exactly, round once; NaR in any gives NaR (R302). -/
def qArith (r : Rnd) (xs : List Nat) (op : List Val → Val × Flags) : Nat × Flags :=
  let vs := xs.map qRead
  let rf := (vs.map (·.2)).foldl (· ||| ·) 0
  if vs.any (fun v => v.1.isNan) then (qNar, rf)
  else
    let v := op (vs.map (·.1))
    let o := qDeliver r v.1
    (o.1, rf ||| v.2 ||| o.2)

/-- The quotient of R302: it differs from the binary one where infinities meet zero. -/
def qDivVal : List Val → Val × Flags
  | [.inf s, .fin t n _] => (.inf (if n == 0 then s else s != t), 0)
  | [.fin s n d, .fin t m e] =>
    if m == 0 then (if n == 0 then (.nan false, flagNV) else (.inf s, flagDZ))
    else (.fin (s != t) (n * e) (d * m), 0)
  | [.fin _ _ _, .inf _] => (.fin false 0 1, 0)
  | [.inf _, .inf _] => (.nan false, flagNV)
  | _ => (.nan false, 0)

/-- FMIN, FMAX on q32 (R303). -/
def qMinMax (isMax : Bool) (a b : Nat) : Nat × Flags :=
  let u := qRead a
  let v := qRead b
  let f := u.2 ||| v.2
  if u.1.isNan || v.1.isNan then (qNar, f)
  else
    let takeB := match u.1.cmp v.1 with
      | .lt => isMax
      | .gt => !isMax
      | .eq => false
    (qEncode (if takeB then v.1 else u.1), f)

/-- FABS, FNEG on q32 (R303). -/
def qAbs (a : Nat) : Nat × Flags :=
  let u := qRead a
  (qEncode (match u.1 with
    | .fin _ n d => .fin false n d
    | .inf _ => .inf false
    | .nan s => .nan s), u.2)
def qNeg (a : Nat) : Nat × Flags :=
  let u := qRead a
  (qEncode (negVal u.1), u.2)

/-- FCMP on q32 (R218, R303). -/
def qCompare (a b : Nat) : BitVec 4 × Flags :=
  let u := qRead a
  let v := qRead b
  (if u.1.isNan || v.1.isNan then nzcv false false false true
   else match u.1.cmp v.1 with
     | .lt => nzcv true false false false
     | .eq => nzcv false true true false
     | .gt => nzcv false false true false, u.2 ||| v.2)

/-- QNUM, QDEN (R304). -/
def qNum (a : Nat) : Word32 × Flags :=
  let u := qRead a
  (match u.1 with
    | .nan _ => 0
    | .inf s => BitVec.ofInt 32 (signed s 1)
    | .fin s n _ => BitVec.ofInt 32 (signed s n), u.2)
def qDen (a : Nat) : Word32 × Flags :=
  let u := qRead a
  (match u.1 with
    | .fin _ _ d => BitVec.ofNat 32 d
    | _ => 0, u.2)

/-- QMAKE: A as i32 over B as n32 (R305). -/
def qMake (r : Rnd) (a b : Word32) : Nat × Flags :=
  let n := a.toInt
  if b = 0 then
    if a = 0 then (qNar, flagNV) else (qInf (decide (n < 0)), flagDZ)
  else qRound 0 r (decide (n < 0)) n.natAbs b.toNat

/-- QLIM: rounding to the fractions with denominator at most B (R306). -/
def qLim (r : Rnd) (a : Nat) (b : Word32) : Nat × Flags :=
  let u := qRead a
  if b = 0 then (qNar, u.2 ||| flagNV)
  else match u.1 with
    | .fin s n d =>
      let o := qRound b.toNat r s n d
      (o.1, u.2 ||| o.2)
    | v => (qEncode v, u.2)

/-- A value as numerator and denominator, ±∞ as ±1/0 (R307). -/
def ratioOf : Val → Int × Nat
  | .fin s n d => (signed s n, d)
  | .inf s => (signed s 1, 0)
  | .nan _ => (0, 0)

/-- QMED: the mediant (R307). -/
def qMed (r : Rnd) (a b : Nat) : Nat × Flags :=
  let u := qRead a
  let v := qRead b
  let f := u.2 ||| v.2
  if u.1.isNan || v.1.isNan then (qNar, f)
  else
    let n := (ratioOf u.1).1 + (ratioOf v.1).1
    let d := (ratioOf u.1).2 + (ratioOf v.1).2
    if d == 0 then (if n = 0 then (qNar, f ||| flagNV) else (qInf (decide (n < 0)), f))
    else
      let o := qRound 0 r (decide (n < 0)) n.natAbs d
      (o.1, f ||| o.2)

/-- The codes of a q32 result (R293). -/
def ratNzcv (x : Nat) : BitVec 4 :=
  let v := (qRead x).1
  nzcv (v.sign && !v.isNan) v.isZero false v.isNan

end Sys2Proof.Machine
end

