-- ==== Sys2Proof/Machine/Access.lean ====
section
/-! DEFINITION. What every scratchpad access shares: the geometry of window slots (R54, R67), the offset checks
(R41, R79), atomics (R256), and the words an error was found in (R81). -/

namespace Sys2Proof.Machine
open Sys2Proof

/-! ### Windows -/

/-- Bits of an element of a tensor format (R102, R120). -/
def tensorBits : Nat → Nat
  | 0x00 | 0x01 | 0x08 | 0x09 => 8
  | 0x02 | 0x05 | 0x06 => 16
  | 0x03 | 0x04 | 0x10 => 32
  | 0x0A | 0x0B => 6
  | 0x0C => 4
  | _ => 0

/-- RB, BYTES, STRIDE and the base of slot `j` (R54). -/
def Win.rb (w : Win) : Nat := w.tw * tensorBits w.fmt / 8
def Win.bytes (w : Win) : Nat := w.tr * w.rb + (if w.scl then w.tr * w.tw / 32 else 0)
def Win.stride (w : Win) : Nat := (w.bytes + 127) / 128 * 128
def Win.slotBase (w : Win) (j : Nat) : Nat := w.base + j * w.stride

/-- Whether two byte ranges share a byte. -/
def overlaps (a n b m : Nat) : Bool := a < b + m && b < a + n

/-- State of slot `j` (R57). -/
def Win.slotState (w : Win) (j : Nat) : SlotState := w.st.look .free j

/-- Set the state of slot `j`. -/
def Win.setSlotState (w : Win) (j : Nat) (x : SlotState) : Win := { w with st := w.st.put j x }

/-- The ARMED slots of a unit, as (window, slot, base, stride) (R67). -/
def UnitRec.armedSlots (u : UnitRec) : List (Nat × Nat × Nat × Nat) :=
  u.windows.flatMap (fun w => ((List.range w.2.slots).filter (fun j => w.2.slotState j == .armed)).map
    (fun j => (w.1, j, w.2.slotBase j, w.2.stride)))

/-- The first armed slot that `n` bytes at an offset reach: window and slot. -/
def UnitRec.armedAt (u : UnitRec) (off n : Nat) : Option (Nat × Nat) :=
  (u.armedSlots.find? (fun a => overlaps off n a.2.2.1 a.2.2.2)).map (fun a => (a.1, a.2.1))

/-- TINFO of a WINDOW trap (R72). -/
def windowInfo (win slot code : Nat) : Word64 := BitVec.ofNat 64 (slot * 4096 + win * 256 + code)

/-! ### Offsets (R41, R79) -/

/-- Whether an offset of an access of `n` bytes is misaligned; b128 needs 8 only (R79). -/
def misaligned (off n : Nat) : Bool := off % (if n == 16 then 8 else n) != 0

/-- Whether the access passes alignment and bounds (R41, R79). -/
def UnitRec.offsetOk (u : UnitRec) (off n : Nat) : Bool := !misaligned off n && off + n ≤ u.need.spad

/-- Offset in the core's scratchpad. -/
def UnitRec.spadOff (u : UnitRec) (off : Nat) : Nat := u.base4k * 4096 + off

/-- The offset in the allocation of the first poisoned word of an access (R82). -/
def UnitRec.poisonAt (u : UnitRec) (s : State) (off n : Nat) : Option Nat :=
  (spadPoison s u.core (u.spadOff off) n).map (· - u.base4k * 4096)

/-- Note the damaged words a read reaches: 3 for an uncorrectable one, 4 for a corrected one (R81). -/
def eccRead (s : State) (core off n : Nat) : State :=
  if s.mem.ecc.isEmpty then s
  else { s with mem := { s.mem with ecc := s.mem.ecc.map (fun e =>
    if overlaps (spadKey core off) n (8 * e.1) 8 then (e.1, if e.2 == 1 then 4 else if e.2 == 2 then 3 else e.2)
    else e) } }

/-! ### Atomics (R256) -/

/-- The new value of a word of `n` bits. -/
def atomicOp (n op m b c : Nat) : Nat :=
  let w := 2 ^ n
  let sg (x : Nat) : Int := if x < w / 2 then x else (x : Int) - w
  match op with
  | 0x0 => (m + b) % w
  | 0x1 => (m + (w - b % w)) % w
  | 0x2 => if sg b < sg m then b else m
  | 0x3 => if sg m < sg b then b else m
  | 0x4 => min m b
  | 0x5 => max m b
  | 0x6 => m &&& b
  | 0x7 => m ||| b
  | 0x8 => m ^^^ b
  | 0x9 => b
  | 0xA => if m == c then b else m
  | 0xB => (fp32.arith .rne false [m, b] (opAdd .rne)).1
  | 0xD => b
  | _ => m

end Sys2Proof.Machine
end

