-- ==== Sys2Proof/Machine/Convert.lean ====
section
/-! DEFINITION. Conversions (R139, R308, R309) and microscaling (R130 to R132, R310 to R312), one element at a time. -/

namespace Sys2Proof.Machine
open Sys2Proof

/-! ### Elements of a word (R118, R119) -/

/-- Bits of an element's place in the word. -/
def elemBits (fmt : Nat) : Nat := 32 / fmtElems fmt

/-- Element `j` of a word. -/
def elemOf (fmt : Nat) (w : Word32) (j : Nat) : Nat := bits w.toNat (elemBits fmt * j) (elemBits fmt)

/-- A word of elements, element 0 lowest. -/
def elemsWord (fmt : Nat) (xs : List Nat) : Word32 :=
  BitVec.ofNat 32 (xs.foldr (fun x acc => acc * 2 ^ elemBits fmt + x % 2 ^ elemBits fmt) 0)

/-- Whether a lane format is an integer, and whether it is signed (R121). -/
def isIntFmt (fmt : Nat) : Bool := [0, 1, 5, 6, 7].contains fmt
def isSignedFmt (fmt : Nat) : Bool := [0, 5, 6].contains fmt

/-- An integer element as an integer. -/
def intOf (fmt : Nat) (x : Nat) : Int :=
  if isSignedFmt fmt && x.testBit (elemBits fmt - 1) then (x : Int) - 2 ^ elemBits fmt else x

def intMin (fmt : Nat) : Int := if isSignedFmt fmt then -(2 ^ (elemBits fmt - 1) : Nat) else 0
def intMax (fmt : Nat) : Int := if isSignedFmt fmt then (2 ^ (elemBits fmt - 1) - 1 : Nat) else (2 ^ elemBits fmt - 1 : Nat)

/-- An integer modulo the element width. -/
def wrapInt (fmt : Nat) (x : Int) : Nat := (x % (2 ^ elemBits fmt : Nat)).toNat
/-- An integer clamped to the element's range. -/
def clampInt (fmt : Nat) (x : Int) : Nat :=
  wrapInt fmt (if x < intMin fmt then intMin fmt else if intMax fmt < x then intMax fmt else x)
def intFits (fmt : Nat) (x : Int) : Bool := decide (intMin fmt ≤ x ∧ x ≤ intMax fmt)

/-! ### Conversion of one element (R139) -/

/-- The exact value of a source element, with the flags of reading it. -/
def sourceVal (fmt x : Nat) : Val × Flags :=
  if fmt == 0xE then qRead x
  else if isIntFmt fmt then (fracOf (intOf fmt x) 1 false, 0)
  else ((fpOf fmt).val x, 0)

/-- Into an integer format (R139, R140). -/
def toInteger (fmt : Nat) (r : Rnd) : Val → Nat × Flags
  | .nan _ => (0, flagNV)
  | .inf s => (wrapInt fmt (if s then intMin fmt else intMax fmt), flagNV)
  | .fin s n d =>
    let q := roundDiv r s n d
    let x := signed s q.1
    if intFits fmt x then (wrapInt fmt x, Flags.when q.2 flagNX) else (clampInt fmt x, flagNV)

/-- Into a floating format (R139); FTZ does not apply. -/
def toFloat (f : FpFmt) (r : Rnd) : Val → Nat × Flags
  | .nan s => (f.nanCode, Flags.when (s || f.nan.isNone) flagNV)
  | .inf s => if f.inf.isSome then (f.code s (f.inf.getD 0), 0) else (f.code s f.maxCode, flagOF)
  | .fin s n d => f.round r false s n d

/-- An exact value into a lane format, `code` the rounding code in force (R126, R139). -/
def convertVal (dst code : Nat) (v : Val) : Nat × Flags :=
  if dst == 0xE then qDeliver (ratRnd code) v
  else if isIntFmt dst then toInteger dst (binRnd code) v
  else toFloat (fpOf dst) (binRnd code) v

/-- What an escape becomes: the destination's NaN, NaR, 0, or the code itself (R133). -/
def escapeResult (dst : Nat) : Nat :=
  if dst == 0xC then 8 else if dst == 0xE then qNar else if isIntFmt dst then 0 else (fpOf dst).nanCode

/-- One element of CVT (R308): `esc` and `trunc` are the options. -/
def convertElem (dst src code : Nat) (esc trunc : Bool) (x : Nat) : Nat × Flags :=
  if esc && src == 0xC && x % 16 == 8 then (escapeResult dst, 0)
  else
    let v := sourceVal src x
    let o := convertVal dst (if trunc then 2 else code) v.1
    (o.1, v.2 ||| o.2)

/-- One element of CVTSR with `w` random bits `r` (R309). -/
def convertRandom (dst src : Nat) (r w : Nat) (x : Nat) : Nat × Flags :=
  let f := fpOf dst
  match (fpOf src).val x with
  | .fin s n d =>
    let lo := f.round .rz false false n d
    let hi := f.round .ru false false n d
    if (lo.2 ||| hi.2) &&& flagOF != 0 then toFloat f .rne (.fin s n d)
    else if lo.1 == hi.1 then (f.code s lo.1, 0)
    else match f.val lo.1, f.val hi.1 with
      | .fin _ ln ld, .fin _ hn hd =>
        -- f = (n/d - lo) / (hi - lo)
        let num := (n * ld - ln * d) * hd
        let den := (hn * ld - ln * hd) * d
        (f.code s (if r % 2 ^ w < num * 2 ^ w / den then hi.1 else lo.1), flagNX)
      | _, _ => (f.code s lo.1, flagNX)
  | v => toFloat f .rne v

/-! ### Microscaling -/

/-- emax of an element format (R132). -/
def emaxOf : Nat → Int
  | 8 => 8
  | 9 => 15
  | 0xA => 4
  | 0xB => 2
  | 0xC => 2
  | _ => 0

/-- The scale of a block of values (R132). -/
def blockScaleOf (fmt : Nat) (vs : List Val) : Nat :=
  if vs.any (fun v => v.isNan || v.isInf) then 0xFF
  else
    let ks := vs.filterMap (fun v => match v with
      | .fin _ n d => if n == 0 then none else some (ilog2 n d)
      | _ => none)
    match ks with
    | [] => 0x7F
    | k :: ks =>
      let x := ks.foldl max k - emaxOf fmt
      (max (-127) (min 127 x) + 127).toNat

/-- The scale of a block of f32 words (R132). -/
def blockScale (fmt : Nat) (xs : List Nat) : Nat := blockScaleOf fmt (xs.map fp32.val)

/-- value times 2^x. -/
def Val.shift (v : Val) (x : Int) : Val :=
  match v with
  | .fin s n d =>
    let p := scaled 1 x
    .fin s (n * p.1) (d * p.2)
  | v => v

/-- A value quantised by a scale code (R132, R311). -/
def mxQuantVal (fmt scale : Nat) (v : Val) : Nat × Flags :=
  let f := fpOf fmt
  if scale == 0xFF then
    if fmt != 6 && f.nan.isSome then (f.nanCode, 0) else (0, flagNV)
  else if v.isNan || v.isInf then convertVal fmt 1 v
  else if fmt == 6 then
    match v.shift (6 - ((scale : Int) - 127)) with
    | .fin s n d => (clampInt 6 (signed s (roundDiv .rne s n d).1), 0)
    | _ => (0, 0)
  else
    match v.shift (127 - (scale : Int)) with
    | .fin s n d =>
      let c := f.round .rne false s n d
      (if c.2 &&& flagOF != 0 then f.code s f.maxCode else c.1, 0)
    | _ => (0, 0)

/-- MXQ of one f32 word by a scale code (R311). -/
def mxQuant (fmt scale x : Nat) : Nat × Flags := mxQuantVal fmt scale (fp32.val x)

/-- MXDQ of one element by a scale code (R312). -/
def mxDequant (fmt scale x : Nat) : Nat × Flags :=
  if scale == 0xFF then (fp32.nanCode, 0)
  else
    let v := if fmt == 6 then (fracOf (intOf 6 x) 1 false).shift (-6) else (fpOf fmt).val x
    match v with
    | .nan _ => (fp32.nanCode, 0)
    | .inf s => (fp32.code s 0x7F800000, 0)
    | .fin s n d =>
      match (Val.fin s n d).shift ((scale : Int) - 127) with
      | .fin s n d => fp32.round .rne false s n d
      | _ => (0, 0)

end Sys2Proof.Machine
end

