-- ==== Sys2Proof/Machine/Scalar.lean ====
section
/-! DEFINITION. Register arithmetic (R266 to R268), branches and jumps (R269, R270), TIME (R286) and TRAP (R289):
the instructions teams and matrix programs share. -/

namespace Sys2Proof.Machine
open Sys2Proof

/-! ### Values -/

/-- Leading zero bits of the low `n` bits (R266, R296). -/
def clzNat (n x : Nat) : Nat := if x == 0 then n else n - 1 - Nat.log2 x

/-- Trailing zero bits among `n` bits. -/
def ctzFrom (x : Nat) : Nat → Nat
  | 0 => 0
  | n + 1 => if x % 2 == 1 then 0 else 1 + ctzFrom (x / 2) n

/-- One bits among the low `n` bits. -/
def popFrom (x : Nat) : Nat → Nat
  | 0 => 0
  | n + 1 => x % 2 + popFrom (x / 2) n

def boolWord (b : Bool) : Word64 := if b then 1 else 0

/-- High 64 bits of the signed product (R266). -/
def mulHighS (a b : Word64) : Word64 := BitVec.ofInt 64 (a.toInt * b.toInt / 2 ^ 64)
/-- High 64 bits of the unsigned product (R266). -/
def mulHighN (a b : Word64) : Word64 := BitVec.ofNat 64 (a.toNat * b.toNat / 2 ^ 64)
/-- Signed quotient toward zero; a divisor of 0 gives all ones (R266, R267). -/
def divS (a b : Word64) : Word64 := if b = 0 then BitVec.allOnes 64 else BitVec.ofInt 64 (a.toInt.tdiv b.toInt)
def divN (a b : Word64) : Word64 := if b = 0 then BitVec.allOnes 64 else BitVec.ofNat 64 (a.toNat / b.toNat)
/-- Signed remainder with the dividend's sign; a divisor of 0 gives the dividend (R266, R267). -/
def remS (a b : Word64) : Word64 := if b = 0 then a else BitVec.ofInt 64 (a.toInt.tmod b.toInt)
def remN (a b : Word64) : Word64 := if b = 0 then a else BitVec.ofNat 64 (a.toNat % b.toNat)
def sltW (a b : Word64) : Bool := decide (a.toInt < b.toInt)
def sltNW (a b : Word64) : Bool := decide (a.toNat < b.toNat)
/-- Shifts by gb [5:0] (R266). -/
def shAmt (b : Word64) : Nat := b.toNat % 64
def sllW (a : Word64) (n : Nat) : Word64 := a <<< n
def srlW (a : Word64) (n : Nat) : Word64 := a >>> n
def sraW (a : Word64) (n : Nat) : Word64 := a.sshiftRight n

/-- Extensions of imm16 (R232). -/
def sext16 (i : BitVec 16) : Word64 := i.signExtend 64
def zext16 (i : BitVec 16) : Word64 := i.setWidth 64

/-! ### The two shapes -/

/-- gd from ga and gb (R263, R266). -/
def scalarOp2 (f : Word64 → Word64 → Word64) (d a b : BitVec 5) (s : State) : Result :=
  withRegs s [a, b, d] (fun th => .next (retireWith s d (f (th.rd a) (th.rd b))))

/-- gd from ga (R263, R266, R268). -/
def scalarOp1 (f : Word64 → Word64) (d a : BitVec 5) (s : State) : Result :=
  withRegs s [a, d] (fun th => .next (retireWith s d (f (th.rd a))))

/-- ADD (R266). -/
def execAdd (d a b : BitVec 5) (s : State) : Result :=
  scalarOp2 (fun x y => x + y) d a b s

/-- SUB (R266). -/
def execSub (d a b : BitVec 5) (s : State) : Result :=
  scalarOp2 (fun x y => x - y) d a b s

/-- AND (R266). -/
def execAnd (d a b : BitVec 5) (s : State) : Result :=
  scalarOp2 (fun x y => x &&& y) d a b s

/-- OR (R266). -/
def execOr (d a b : BitVec 5) (s : State) : Result :=
  scalarOp2 (fun x y => x ||| y) d a b s

/-- XOR (R266). -/
def execXor (d a b : BitVec 5) (s : State) : Result :=
  scalarOp2 (fun x y => x ^^^ y) d a b s

/-- ANDN (R266). -/
def execAndn (d a b : BitVec 5) (s : State) : Result :=
  scalarOp2 (fun x y => x &&& ~~~y) d a b s

/-- SLL (R266). -/
def execSll (d a b : BitVec 5) (s : State) : Result :=
  scalarOp2 (fun x y => sllW x (shAmt y)) d a b s

/-- SRL (R266). -/
def execSrl (d a b : BitVec 5) (s : State) : Result :=
  scalarOp2 (fun x y => srlW x (shAmt y)) d a b s

/-- SRA (R266). -/
def execSra (d a b : BitVec 5) (s : State) : Result :=
  scalarOp2 (fun x y => sraW x (shAmt y)) d a b s

/-- MUL (R266). -/
def execMul (d a b : BitVec 5) (s : State) : Result :=
  scalarOp2 (fun x y => x * y) d a b s

/-- MULHS (R266). -/
def execMulhs (d a b : BitVec 5) (s : State) : Result :=
  scalarOp2 (mulHighS) d a b s

/-- MULHN (R266). -/
def execMulhn (d a b : BitVec 5) (s : State) : Result :=
  scalarOp2 (mulHighN) d a b s

/-- DIV (R266, R267). -/
def execDiv (d a b : BitVec 5) (s : State) : Result :=
  scalarOp2 (divS) d a b s

/-- DIVN (R266, R267). -/
def execDivn (d a b : BitVec 5) (s : State) : Result :=
  scalarOp2 (divN) d a b s

/-- REM (R266, R267). -/
def execRem (d a b : BitVec 5) (s : State) : Result :=
  scalarOp2 (remS) d a b s

/-- REMN (R266, R267). -/
def execRemn (d a b : BitVec 5) (s : State) : Result :=
  scalarOp2 (remN) d a b s

/-- MIN (R266). -/
def execMin (d a b : BitVec 5) (s : State) : Result :=
  scalarOp2 (fun x y => if sltW y x then y else x) d a b s

/-- MAX (R266). -/
def execMax (d a b : BitVec 5) (s : State) : Result :=
  scalarOp2 (fun x y => if sltW x y then y else x) d a b s

/-- MINN (R266). -/
def execMinn (d a b : BitVec 5) (s : State) : Result :=
  scalarOp2 (fun x y => if sltNW y x then y else x) d a b s

/-- MAXN (R266). -/
def execMaxn (d a b : BitVec 5) (s : State) : Result :=
  scalarOp2 (fun x y => if sltNW x y then y else x) d a b s

/-- SLT (R266). -/
def execSlt (d a b : BitVec 5) (s : State) : Result :=
  scalarOp2 (fun x y => boolWord (sltW x y)) d a b s

/-- SLTN (R266). -/
def execSltn (d a b : BitVec 5) (s : State) : Result :=
  scalarOp2 (fun x y => boolWord (sltNW x y)) d a b s

/-- SEQ (R266). -/
def execSeq (d a b : BitVec 5) (s : State) : Result :=
  scalarOp2 (fun x y => boolWord (x == y)) d a b s

/-- CLZ (R266). -/
def execClz (d a : BitVec 5) (s : State) : Result :=
  scalarOp1 (fun x => BitVec.ofNat 64 (clzNat 64 x.toNat)) d a s

/-- CTZ (R266). -/
def execCtz (d a : BitVec 5) (s : State) : Result :=
  scalarOp1 (fun x => BitVec.ofNat 64 (ctzFrom x.toNat 64)) d a s

/-- POPC (R266). -/
def execPopc (d a : BitVec 5) (s : State) : Result :=
  scalarOp1 (fun x => BitVec.ofNat 64 (popFrom x.toNat 64)) d a s

/-- ADDI (R268). -/
def execAddi (d a : BitVec 5) (i : BitVec 16) (s : State) : Result :=
  scalarOp1 (fun x => x + sext16 i) d a s

/-- ANDI (R268). -/
def execAndi (d a : BitVec 5) (i : BitVec 16) (s : State) : Result :=
  scalarOp1 (fun x => x &&& zext16 i) d a s

/-- ORI (R268). -/
def execOri (d a : BitVec 5) (i : BitVec 16) (s : State) : Result :=
  scalarOp1 (fun x => x ||| zext16 i) d a s

/-- XORI (R268). -/
def execXori (d a : BitVec 5) (i : BitVec 16) (s : State) : Result :=
  scalarOp1 (fun x => x ^^^ zext16 i) d a s

/-- GSH (R268). -/
def execGsh (d a : BitVec 5) (i : BitVec 16) (s : State) : Result :=
  scalarOp1 (fun x => (x <<< 16) ||| zext16 i) d a s

/-- SLTI (R268). -/
def execSlti (d a : BitVec 5) (i : BitVec 16) (s : State) : Result :=
  scalarOp1 (fun x => boolWord (sltW x (sext16 i))) d a s

/-- SLTIN (R232, R268). -/
def execSltin (d a : BitVec 5) (i : BitVec 16) (s : State) : Result :=
  scalarOp1 (fun x => boolWord (sltNW x (sext16 i))) d a s

/-- SLLI (R268). -/
def execSlli (d a : BitVec 5) (n : BitVec 6) (s : State) : Result :=
  scalarOp1 (fun x => sllW x n.toNat) d a s

/-- SRLI (R268). -/
def execSrli (d a : BitVec 5) (n : BitVec 6) (s : State) : Result :=
  scalarOp1 (fun x => srlW x n.toNat) d a s

/-- SRAI (R268). -/
def execSrai (d a : BitVec 5) (n : BitVec 6) (s : State) : Result :=
  scalarOp1 (fun x => sraW x n.toNat) d a s

/-- GHI (R232, R268). -/
def execGhi (d : BitVec 5) (i : BitVec 16) (s : State) : Result :=
  withRegs s [d] (fun _ => .next (retireWith s d (sext16 i <<< 16)))

/-! ### Branches and jumps -/

/-- The target of a branch: its address plus 4 times the offset (R232, R269). -/
def branchTarget (pc : Word64) (o : BitVec 16) : Word64 := pc + (sext16 o <<< 2)

/-- A register branch (R269). -/
def branch (test : Word64 → Word64 → Bool) (a b : BitVec 5) (o : BitVec 16) (s : State) : Result :=
  withRegs s [a, b] (fun th => .next (s.onThread s.cur (fun t =>
    if test (th.rd a) (th.rd b) then t.goto (branchTarget t.spc o) else t.next_)))

/-- BEQ (R269). -/
def execBeq (a b : BitVec 5) (o : BitVec 16) (s : State) : Result :=
  branch (fun x y => x == y) a b o s

/-- BNE (R269). -/
def execBne (a b : BitVec 5) (o : BitVec 16) (s : State) : Result :=
  branch (fun x y => x != y) a b o s

/-- BLT (R269). -/
def execBlt (a b : BitVec 5) (o : BitVec 16) (s : State) : Result :=
  branch (sltW) a b o s

/-- BGE (R269). -/
def execBge (a b : BitVec 5) (o : BitVec 16) (s : State) : Result :=
  branch (fun x y => !sltW x y) a b o s

/-- BLTN (R269). -/
def execBltn (a b : BitVec 5) (o : BitVec 16) (s : State) : Result :=
  branch (sltNW) a b o s

/-- BGEN (R269). -/
def execBgen (a b : BitVec 5) (o : BitVec 16) (s : State) : Result :=
  branch (fun x y => !sltNW x y) a b o s

/-- JAL: the link goes to g31 (R270). -/
def execJal (o : BitVec 26) (s : State) : Result :=
  withRegs s [31] (fun _ => .next (s.onThread s.cur (fun t =>
    (t.wr 31 (t.spc + 4)).goto (t.spc + (o.signExtend 64 <<< 2)))))

/-- JALR: ga is read before the link is written; a misaligned target is ILLEGAL 0x18 (R270). -/
def execJalr (a : BitVec 5) (i : BitVec 16) (s : State) : Result :=
  withRegs s [a, 31] (fun th =>
    let target := th.rd a + sext16 i
    if target.toNat % 4 != 0 then illegalWord s (.jalr a i) 0x18
    else .next (s.onThread s.cur (fun t => (t.wr 31 (t.spc + 4)).goto target)))

/-! ### Time and traps -/

/-- TIME: the package time base (R286). -/
def execTime (d : BitVec 5) (s : State) : Result :=
  withRegs s [d] (fun _ => .next (retireWith s d (BitVec.ofNat 64 s.now)))

/-- TRAP: cause USER, TINFO [15:0] the immediate (R289). -/
def execTrap (i : BitVec 16) (s : State) : Result := trapNow s 0x0F (zext16 i)

end Sys2Proof.Machine
end

