-- ==== Sys2Proof/Machine/Special.lean ====
section
/-! DEFINITION. The special functions of f32 (R313, R314). Each value that is not listed as exact lies between two
neighbouring codes found from a fixed-point enclosure; which of the codes that the stated accuracy allows is
delivered, the manual leaves open (log 20). -/

namespace Sys2Proof.Machine
open Sys2Proof

/-! ### Fixed point with 640 fraction bits -/

def fixBits : Nat := 640
def fixOne : Nat := 2 ^ fixBits
/-- The width of an enclosure on either side. -/
def fixSlack : Nat := 2 ^ 40
def fixMul (a b : Nat) : Nat := a * b / fixOne

/-- Integer square root by Newton's rounds from above. -/
def isqrtFrom (n : Nat) : Nat → Nat → Nat
  | 0, g => g
  | fuel + 1, g =>
    let h := (g + n / g) / 2
    if h < g then isqrtFrom n fuel h else g
def isqrt (n : Nat) : Nat := if n == 0 then 0 else isqrtFrom n 4096 (2 ^ (Nat.log2 n / 2 + 1))

/-- The sum of z^(2k+1) / (2k+1), with alternating signs for `alt`. -/
def oddSeries (alt : Bool) (z2 : Nat) : Nat → Nat → Nat → Int → Int
  | 0, _, _, acc => acc
  | fuel + 1, k, t, acc =>
    let q : Int := (t / (2 * k + 1) : Nat)
    oddSeries alt z2 fuel (k + 1) (fixMul t z2) (if alt && k % 2 == 1 then acc - q else acc + q)

/-- atanh z and atan z for z below one half. -/
def fixAtanh (z : Nat) : Nat := (oddSeries false (fixMul z z) 420 0 z 0).toNat
def fixAtan (z : Nat) : Nat := (oddSeries true (fixMul z z) 420 0 z 0).toNat

def fixLn2 : Nat := 2 * fixAtanh (fixOne / 3)
def fixPi : Nat := 16 * fixAtan (fixOne / 5) - 4 * fixAtan (fixOne / 239)

/-- The sum of y^k / k!. -/
def expSeries (y : Nat) : Nat → Nat → Nat → Nat → Nat
  | 0, _, _, acc => acc
  | fuel + 1, k, t, acc => expSeries y fuel (k + 1) (fixMul t y / (k + 1)) (acc + t)
def fixExp (y : Nat) : Nat := expSeries y 140 0 fixOne 0

/-- The alternating sum of y^(2k+1) / (2k+1)!. -/
def sinSeries (y2 : Nat) : Nat → Nat → Nat → Int → Int
  | 0, _, _, acc => acc
  | fuel + 1, k, t, acc =>
    sinSeries y2 fuel (k + 1) (fixMul t y2 / ((2 * k + 2) * (2 * k + 3)))
      (if k % 2 == 0 then acc + t else acc - t)
def fixSin (y : Nat) : Nat := (sinSeries (fixMul y y) 90 0 y 0).toNat

/-! ### Choosing among neighbours -/

/-- The place of an f32 code that is no NaN in the order of the values. -/
def floatOrd (x : Nat) : Int := if x.testBit 31 then -((x % 2 ^ 31 : Nat) : Int) else x

/-- The highest code from `lo` on, of at most `n` more, that `pick` takes; `lo` when it takes none. -/
def highestCode (pick : Nat → Bool) (lo : Nat) : Nat → Nat
  | 0 => lo
  | n + 1 => if pick (lo + n + 1) then lo + n + 1 else highestCode pick lo n

/-- Deliver an inexact result of which the magnitude lies between two fractions: one of the two codes about it, or of
the `wide` codes beyond on either side, at most `cap`; NX, and UF with FTZ applied when it is subnormal (R314). -/
def between (pick : Nat → Bool) (wide cap : Nat) (ftz neg : Bool) (lo hi : Nat × Nat) : Nat × Flags :=
  let a := (fp32.round .rz false false lo.1 lo.2).1 - wide
  let b := min cap ((fp32.round .ru false false hi.1 hi.2).1 + wide)
  let c := highestCode pick a (b - a)
  if c < 2 ^ 23 then (fp32.code neg (if ftz then 0 else c), flagUF ||| flagNX)
  else (fp32.code neg c, flagNX)

/-- A free choice for each operand (R313, log 20). -/
def byOperand (op x : Nat) : Nat → Bool := fun _ => Config.specialUp op (BitVec.ofNat 32 x)

/-- A free choice for each code: the place from which on the operands reach it. A larger operand never gets a lower
code: the function is monotonic (R313, log 20). -/
def byPlace (op : Nat) (neg : Bool) (place : Int) : Nat → Bool := fun c =>
  decide (Config.specialFrom op neg c ≤ place)

/-- The enclosure of a fixed-point value times 2^x. -/
def nearFix (v : Nat) (x : Int) : (Nat × Nat) × (Nat × Nat) :=
  let p := scaled 1 x
  (((v - fixSlack) * p.1, fixOne * p.2), ((v + fixSlack) * p.1, fixOne * p.2))

def plusInf : Nat := 0x7F800000
def minusInf : Nat := 0xFF800000
def floatOne : Nat := 0x3F800000
def maxFinite : Nat := 0x7F7FFFFF

/-- 2^k delivered as a listed exact result, subnormal included (R313). -/
def exactPow (neg : Bool) (k : Int) : Nat × Flags :=
  let p := scaled 1 k
  fp32.round .rne false neg p.1 p.2

/-- The k with n / d = 2^k, if there is one. -/
def powOfTwo (n d : Nat) : Option Int :=
  let k := ilog2 n d
  let p := scaled 1 k
  if n * p.2 == d * p.1 then some k else none

/-! ### The functions -/

/-- An inexact EXP2. -/
def betweenExp (ftz : Bool) (x : Nat) (lo hi : Nat × Nat) : Nat × Flags :=
  between (byPlace 0x50 false (floatOrd x)) 0 maxFinite ftz false lo hi

def specExp2 (ftz : Bool) (x : Nat) (s : Bool) (n d : Nat) : Nat × Flags :=
  let whole : Int := if s then -((n + d - 1) / d : Nat) else (n / d : Nat)
  let frac := if n % d == 0 then 0 else if s then d - n % d else n % d
  if 128 ≤ whole then (plusInf, flagOF ||| flagNX)
  else if whole < -200 then betweenExp ftz x (0, 1) (1, 2 ^ 200)
  else if frac == 0 && -149 ≤ whole then exactPow false whole
  else
    let e := nearFix (fixExp (fixMul (frac * fixOne / d) fixLn2)) whole
    betweenExp ftz x e.1 e.2

def specLog2 (ftz : Bool) (x : Nat) (n d : Nat) : Nat × Flags :=
  match powOfTwo n d with
  | some k => fp32.round .rne false (decide (k < 0)) k.natAbs 1
  | none =>
    let e := ilog2 n d
    let p := scaled 1 e
    let m := n * p.2 * fixOne / (d * p.1)
    let l := 2 * fixAtanh ((m - fixOne) * fixOne / (m + fixOne)) * fixOne / fixLn2
    let r : Int := e * (fixOne : Int) + l
    let b := nearFix r.natAbs 0
    between (byPlace 0x51 (decide (r < 0)) (if r < 0 then -floatOrd x else floatOrd x)) 0 maxFinite ftz (decide (r < 0)) b.1 b.2

def specRcp (ftz : Bool) (x : Nat) (s : Bool) (n d : Nat) : Nat × Flags :=
  match powOfTwo n d with
  | some k => exactPow s (-k)
  | none =>
    let o := fp32.round .rne false s d n
    if o.2 &&& flagOF != 0 then o else between (byOperand 0x52 x) 0 maxFinite ftz s (d, n) (d, n)

def specRsq (ftz : Bool) (x : Nat) (n d : Nat) : Nat × Flags :=
  let near :=
    let r := isqrt (d * fixOne * fixOne / n)
    between (byOperand 0x53 x) 0 maxFinite ftz false (r, fixOne) (r + 1, fixOne)
  match powOfTwo n d with
  | some k => if k % 2 = 0 then exactPow false (-(k / 2)) else near
  | none => near

def specSqrt (n d : Nat) : Nat × Flags :=
  let r := isqrt (n * fixOne * fixOne / d)
  if r * r * d == n * fixOne * fixOne then fp32.round .rne false false r fixOne
  else fp32.round .rne false false (2 * r + 1) (2 * fixOne)

/-- sin(π num / den) for a fraction between 0 and 1/2. -/
def sinOfPi (op : Nat) (ftz : Bool) (x : Nat) (neg : Bool) (num den : Nat) : Nat × Flags :=
  let b := nearFix (fixSin (fixMul (num * fixOne / den) fixPi)) 0
  between (byOperand op x) 0 floatOne ftz neg b.1 b.2

def specSin (ftz : Bool) (x : Nat) (s : Bool) (n d : Nat) : Nat × Flags :=
  if 2 * n % d == 0 then
    let h := 2 * n / d
    if h % 2 == 0 then (fp32.code (s && n != 0) 0, 0)
    else (fp32.code (s != (h % 4 == 3)) floatOne, 0)
  else
    let t := n % (2 * d)
    let flip := d < t
    let u := if flip then t - d else t
    sinOfPi 0x55 ftz x (s != flip) (if d < 2 * u then d - u else u) d

def specCos (ftz : Bool) (x : Nat) (n d : Nat) : Nat × Flags :=
  if 2 * n % d == 0 then
    let h := 2 * n / d
    if h % 2 == 1 then (0, 0) else (fp32.code (h % 4 == 2) floatOne, 0)
  else
    let t := n % (2 * d)
    let u := if d < t then 2 * d - t else t
    if d < 2 * u then sinOfPi 0x56 ftz x true (2 * u - d) (2 * d)
    else sinOfPi 0x56 ftz x false (d - 2 * u) (2 * d)

def specTanh (ftz : Bool) (x : Nat) (s : Bool) (n d : Nat) : Nat × Flags :=
  if 64 * d ≤ n then between (byPlace 0x57 false (x % 2 ^ 31 : Nat)) 1 floatOne ftz s (2 ^ 100 - 1, 2 ^ 100) (1, 1)
  else
    let y := 2 * n * fixOne / d
    let k := y / fixLn2
    let e := fixExp (y - k * fixLn2) * 2 ^ k
    let b := nearFix ((e - fixOne) * fixOne / (e + fixOne)) 0
    between (byPlace 0x57 false (x % 2 ^ 31 : Nat)) 1 floatOne ftz s b.1 b.2

/-- The special function of opcode `op` on an f32 code (R313, R314). -/
def specialFn (op : Nat) (ftz : Bool) (a : Nat) : Nat × Flags :=
  let x := fp32.read ftz a
  match fp32.val x with
  | .nan sg => (fp32.nanCode, Flags.when sg flagNV)
  | .inf s =>
    match op with
    | 0x50 => (if s then 0 else plusInf, 0)
    | 0x51 => if s then (fp32.nanCode, flagNV) else (plusInf, 0)
    | 0x52 => (fp32.code s 0, 0)
    | 0x53 => if s then (fp32.nanCode, flagNV) else (0, 0)
    | 0x54 => if s then (fp32.nanCode, flagNV) else (plusInf, 0)
    | 0x57 => (fp32.code s floatOne, 0)
    | _ => (fp32.nanCode, flagNV)
  | .fin s n d =>
    match op with
    | 0x50 => specExp2 ftz x s n d
    | 0x51 =>
      if n == 0 then (minusInf, flagDZ) else if s then (fp32.nanCode, flagNV) else specLog2 ftz x n d
    | 0x52 => if n == 0 then (fp32.code s plusInf, flagDZ) else specRcp ftz x s n d
    | 0x53 =>
      if n == 0 then (fp32.code s plusInf, flagDZ) else if s then (fp32.nanCode, flagNV) else specRsq ftz x n d
    | 0x54 => if n == 0 then (x, 0) else if s then (fp32.nanCode, flagNV) else specSqrt n d
    | 0x55 => specSin ftz x s n d
    | 0x56 => specCos ftz x n d
    | _ => if n == 0 then (x, 0) else specTanh ftz x s n d

end Sys2Proof.Machine
end

