-- ==== Sys2Proof/Machine/LaneFns.lean ====
section
/-! DEFINITION. What each lane opcode computes from the words one active lane read (R293, R296 to R314, R321). -/

namespace Sys2Proof.Machine
open Sys2Proof

/-- What a lane computed: its words, its flags and its condition codes. -/
structure LaneOut where
  vals : List Word32
  flags : Flags
  cc : BitVec 4
  deriving DecidableEq, Repr

/-- What a lane computes with beside its sources: the word, the captured TMODE, its team lane index and the key. -/
structure LaneEnv where
  w : LaneWord
  tm : BitVec 5
  lane : Nat
  key0 : Word32
  key1 : Word32
  deriving DecidableEq, Repr

/-- Operands as 32-bit words. -/
structure Abcd where
  a : Word32
  b : Word32
  c : Word32
  d : Word32
  deriving DecidableEq, Repr

abbrev LaneFn := LaneEnv → Abcd → LaneOut

def LaneEnv.fmt (x : LaneEnv) : Nat := x.w.fmt.toNat
def LaneEnv.sub (x : LaneEnv) : Nat := x.w.sub.toNat
def LaneEnv.ftz (x : LaneEnv) : Bool := tmodeFtz x.tm
/-- The rounding code in force (R126). -/
def LaneEnv.code (x : LaneEnv) : Nat := rndCode x.w.pfx x.tm
/-- The IMM field; 0 beside a literal (R238, R239). -/
def LaneEnv.imm (x : LaneEnv) : Nat := if x.w.litsel == 0 then auxImm x.w.aux else 0

/-- A word whose codes are N and Z of the word, C and V as given (R293). -/
def outWord (r : Word32) (c v : Bool) : LaneOut := ⟨[r], 0, wordNzcv r c v⟩

/-! ### Integers (R296, R297) -/

/-- Map elements of two words. -/
def elems2 (fmt : Nat) (f : Nat → Nat → Nat) (a b : Word32) : Word32 :=
  elemsWord fmt ((List.range (fmtElems fmt)).map (fun j => f (elemOf fmt a j) (elemOf fmt b j)))
def elems1 (fmt : Nat) (f : Nat → Nat) (a : Word32) : Word32 :=
  elemsWord fmt ((List.range (fmtElems fmt)).map (fun j => f (elemOf fmt a j)))

/-- An integer result, wrapped or clamped. -/
def narrow (sat : Bool) (fmt : Nat) (x : Int) : Nat := if sat then clampInt fmt x else wrapInt fmt x

/-- Carry out of a 32-bit sum, and no borrow of a difference (R293). -/
def carryOut (a b : Word32) (cin : Nat) : Bool := decide (2 ^ 32 ≤ a.toNat + b.toNat + cin)
def noBorrow (a b : Word32) (bin : Nat) : Bool := decide (b.toNat + bin ≤ a.toNat)

/-- IADD and ISUB (R296). -/
def fnAddSub (neg : Bool) : LaneFn := fun x s =>
  let sat := x.sub == 1
  let op (p q : Int) : Int := if neg then p - q else p + q
  let r := elems2 x.fmt (fun p q => narrow sat x.fmt (op (intOf x.fmt p) (intOf x.fmt q))) s.a s.b
  let exact := op (intOf x.fmt s.a.toNat) (intOf x.fmt s.b.toNat)
  let v := if sat then !intFits x.fmt exact else !intFits 0 (op s.a.toInt s.b.toInt)
  outWord r (if neg then noBorrow s.a s.b 0 else carryOut s.a s.b 0) v
def fnIadd : LaneFn := fnAddSub false
def fnIsub : LaneFn := fnAddSub true

/-- The C bit of a condition-code operand. -/
def carryBit (c : Word32) : Nat := if c.getLsbD 1 then 1 else 0

def fnIadc : LaneFn := fun _ s =>
  let k := carryBit s.c
  outWord (s.a + s.b + BitVec.ofNat 32 k) (carryOut s.a s.b k) (!intFits 0 (s.a.toInt + s.b.toInt + k))
def fnIsbb : LaneFn := fun _ s =>
  let k := 1 - carryBit s.c
  outWord (s.a - s.b - BitVec.ofNat 32 k) (noBorrow s.a s.b k) (!intFits 0 (s.a.toInt - s.b.toInt - k))

/-- V of the products: the exact result does not fit the fmt (R293). -/
def exactV (fmt : Nat) (x : Int) : Bool := !intFits (if fmt == 1 then 1 else 0) x

def fnImul : LaneFn := fun x s =>
  let r := elems2 x.fmt (fun p q => wrapInt x.fmt (intOf x.fmt p * intOf x.fmt q)) s.a s.b
  outWord r false (exactV x.fmt (intOf x.fmt s.a.toNat * intOf x.fmt s.b.toNat))
def fnImulh : LaneFn := fun x s =>
  let p := intOf x.fmt s.a.toNat * intOf x.fmt s.b.toNat
  outWord (BitVec.ofInt 32 (p / 2 ^ 32)) false false
def fnImad : LaneFn := fun x s =>
  let p := intOf x.fmt s.a.toNat * intOf x.fmt s.b.toNat + intOf x.fmt s.c.toNat
  outWord (BitVec.ofInt 32 p) false (exactV x.fmt p)
def fnMinMax (isMax : Bool) : LaneFn := fun x s =>
  outWord (elems2 x.fmt (fun p q =>
    if (if isMax then intOf x.fmt p < intOf x.fmt q else intOf x.fmt q < intOf x.fmt p) then q else p) s.a s.b)
    false false
def fnImin : LaneFn := fnMinMax false
def fnImax : LaneFn := fnMinMax true

/-- IABS and INEG: V when the result saturated (R293, R296). -/
def fnAbsNeg (neg : Bool) : LaneFn := fun x s =>
  let sat := x.sub == 1
  let op (p : Int) : Int := if neg then -p else (p.natAbs : Int)
  outWord (elems1 x.fmt (fun p => narrow sat x.fmt (op (intOf x.fmt p))) s.a) false
    (sat && !intFits x.fmt (op (intOf x.fmt s.a.toNat)))
def fnIabs : LaneFn := fnAbsNeg false
def fnIneg : LaneFn := fnAbsNeg true

def fnBits (f : Word32 → Word32 → Word32) : LaneFn := fun _ s => outWord (f s.a s.b) false false
def fnMov : LaneFn := fnBits (fun a _ => a)
def fnAnd : LaneFn := fnBits (fun a b => a &&& b)
def fnOr : LaneFn := fnBits (fun a b => a ||| b)
def fnXor : LaneFn := fnBits (fun a b => a ^^^ b)
def fnAndn : LaneFn := fnBits (fun a b => a &&& ~~~b)
def fnNot : LaneFn := fnBits (fun a _ => ~~~a)
/-- The amount B [4:0]. -/
def amount (b : Word32) : Nat := b.toNat % 32
def fnShl : LaneFn := fnBits (fun a b => a <<< amount b)
def fnShr : LaneFn := fnBits (fun a b => a >>> amount b)
def fnSar : LaneFn := fnBits (fun a b => a.sshiftRight (amount b))
def fnRotl : LaneFn := fnBits (fun a b => (a <<< amount b) ||| (a >>> (32 - amount b)))
def fnClz : LaneFn := fnBits (fun a _ => BitVec.ofNat 32 (clzNat 32 a.toNat))
def fnPopc : LaneFn := fnBits (fun a _ => BitVec.ofNat 32 (popFrom a.toNat 32))
/-- The low `n` bits of a number in reverse. -/
def reverseBits (x : Nat) : Nat → Nat
  | 0 => 0
  | n + 1 => x % 2 * 2 ^ n + reverseBits (x / 2) n
def fnBrev : LaneFn := fnBits (fun a _ => BitVec.ofNat 32 (reverseBits a.toNat 32))

/-- Start and length of a bit field: [4:0] and [12:8]. -/
def fieldStart (b : Word32) : Nat := bits b.toNat 0 5
def fieldLen (b : Word32) : Nat := min (bits b.toNat 8 5) (32 - fieldStart b)
def fnBfx : LaneFn := fun x s =>
  let l := fieldLen s.b
  let v := bits s.a.toNat (fieldStart s.b) l
  let r := if x.fmt == 0 && l != 0 && v.testBit (l - 1) then v + (2 ^ 32 - 2 ^ l) else v
  outWord (BitVec.ofNat 32 r) false false
def fnBfi : LaneFn := fun _ s =>
  let m : Word32 := BitVec.ofNat 32 ((2 ^ fieldLen s.c - 1) * 2 ^ fieldStart s.c)
  outWord ((s.a &&& ~~~m) ||| ((s.b <<< fieldStart s.c) &&& m)) false false

/-- Byte `i` of PERM. -/
def permByte (a b c : Word32) (i : Nat) : Nat :=
  let sel := bits c.toNat (4 * i) 4
  let x := bits (a.toNat + b.toNat * 2 ^ 32) (8 * (sel % 8)) 8
  if 8 ≤ sel then (if x.testBit 7 then 0xFF else 0) else x
def fnPerm : LaneFn := fun _ s =>
  outWord (BitVec.ofNat 32 (permByte s.a s.b s.c 0 + permByte s.a s.b s.c 1 * 2 ^ 8 +
    permByte s.a s.b s.c 2 * 2 ^ 16 + permByte s.a s.b s.c 3 * 2 ^ 24)) false false

/-- ICMP sets the flags of A − B (R293). -/
def fnIcmp : LaneFn := fun _ s =>
  ⟨[], 0, wordNzcv (s.a - s.b) (noBorrow s.a s.b 0) (!intFits 0 (s.a.toInt - s.b.toInt))⟩

/-- SEL: a bit operation (R296). -/
def fnSel : LaneFn := fun x s =>
  outWord (if condHolds x.sub (s.c.setWidth 4) then s.a else s.b) false false

def fnIdot4 : LaneFn := fun x s =>
  let t := (List.range 4).foldl (fun acc j =>
    acc + intOf x.fmt (elemOf x.fmt s.a j) * intOf x.fmt (elemOf x.fmt s.b j)) s.c.toInt
  outWord (BitVec.ofInt 32 t) false (exactV x.fmt t)

/-- Whether a division has one of R297's fixed results. -/
def divCorner (fmt : Nat) (a b : Word32) : Bool := b == 0 || (fmt == 0 && a == 0x80000000#32 && b == BitVec.allOnes 32)
def fnIdiv : LaneFn := fun x s =>
  let q := if s.b = 0 then BitVec.allOnes 32
    else BitVec.ofInt 32 ((intOf x.fmt s.a.toNat).tdiv (intOf x.fmt s.b.toNat))
  outWord q false (divCorner x.fmt s.a s.b)
def fnIrem : LaneFn := fun x s =>
  let r := if s.b = 0 then s.a else BitVec.ofInt 32 ((intOf x.fmt s.a.toNat).tmod (intOf x.fmt s.b.toNat))
  outWord r false (divCorner x.fmt s.a s.b)

/-! ### Floats and q32 (R298 to R307) -/

/-- Apply an element operation to each element, gathering the flags. -/
def floatElems (fmt : Nat) (f : FpFmt → Nat → Nat → Nat → Nat × Flags) (s : Abcd) : LaneOut :=
  let rs := (List.range (fmtElems fmt)).map (fun j =>
    f (fpOf fmt) (elemOf fmt s.a j) (elemOf fmt s.b j) (elemOf fmt s.c j))
  let r := elemsWord fmt (rs.map (·.1))
  ⟨[r], (rs.map (·.2)).foldl (· ||| ·) 0, floatNzcv r.toNat⟩

/-- A q32 result. -/
def outRat (r : Nat × Flags) : LaneOut := ⟨[BitVec.ofNat 32 r.1], r.2, ratNzcv r.1⟩

/-- Whether the operation is q32 under the captured TMODE (R126, R298). -/
def LaneEnv.isRat (x : LaneEnv) (op : Nat) : Bool := isQ32 (tmodeQm x.tm) op x.fmt

def fnArith2 (op : Nat) (f : Rnd → List Val → Val × Flags) (g : List Val → Val × Flags) : LaneFn := fun x s =>
  if x.isRat op then outRat (qArith (ratRnd x.code) [s.a.toNat, s.b.toNat] g)
  else floatElems x.fmt (fun fm a b _ => fm.arith (binRnd x.code) x.ftz [a, b] (f (binRnd x.code))) s
def fnFadd : LaneFn := fnArith2 0x20 opAdd (opAdd .rne)
def fnFsub : LaneFn := fnArith2 0x21 opSub (opSub .rne)
def fnFmul : LaneFn := fnArith2 0x22 (fun _ => opMul) opMul
def fnFdiv : LaneFn := fnArith2 0x29 (fun _ => opDiv) qDivVal
def fnFfma : LaneFn := fun x s =>
  if x.isRat 0x23 then outRat (qArith (ratRnd x.code) [s.a.toNat, s.b.toNat, s.c.toNat] (opFma .rne))
  else floatElems x.fmt (fun fm a b c => fm.arith (binRnd x.code) x.ftz [a, b, c] (opFma (binRnd x.code))) s
def fnFminFmax (op : Nat) (isMax : Bool) : LaneFn := fun x s =>
  if x.isRat op then outRat (qMinMax isMax s.a.toNat s.b.toNat)
  else floatElems x.fmt (fun fm a b _ => fm.minMax isMax x.ftz a b) s
def fnFmin : LaneFn := fnFminFmax 0x24 false
def fnFmax : LaneFn := fnFminFmax 0x25 true
def fnFabs : LaneFn := fun x s =>
  if x.isRat 0x26 then outRat (qAbs s.a.toNat)
  else floatElems x.fmt (fun fm a _ _ => (a % fm.signBit, 0)) s
def fnFneg : LaneFn := fun x s =>
  if x.isRat 0x27 then outRat (qNeg s.a.toNat)
  else floatElems x.fmt (fun fm a _ _ => (fm.code (!a.testBit (fm.e + fm.m)) (a % fm.signBit), 0)) s
def fnFcmp : LaneFn := fun x s =>
  let r := if x.isRat 0x28 then qCompare s.a.toNat s.b.toNat else fp32.compare x.ftz s.a.toNat s.b.toNat
  ⟨[], r.2, r.1⟩
def fnFdot (ftzIn : Bool) : LaneFn := fun x s =>
  let ps := (List.range (fmtElems x.fmt)).map (fun j => (elemOf x.fmt s.a j, elemOf x.fmt s.b j))
  let r := dotProduct (fpOf x.fmt) (binRnd x.code) (ftzIn && x.ftz) x.ftz ps s.c.toNat
  ⟨[BitVec.ofNat 32 r.1], r.2, floatNzcv r.1⟩
def fnFdot2 : LaneFn := fnFdot true
def fnFdot4 : LaneFn := fnFdot false
def fnFrnd : LaneFn := fun x s => floatElems x.fmt (fun fm a _ _ => fm.integral (binRnd x.code) x.ftz a) s
def fnFsgn : LaneFn := fun x s =>
  floatElems x.fmt (fun fm a b _ => (fm.code (b.testBit (fm.e + fm.m)) (a % fm.signBit), 0)) s
def fnFsat : LaneFn := fun x s => floatElems x.fmt (fun fm a _ _ => fm.clamp x.ftz a) s
def fnFclass : LaneFn := fun _ s => outWord (BitVec.ofNat 32 (classOf s.a.toNat)) false false

def fnQnum : LaneFn := fun _ s =>
  let r := qNum s.a.toNat
  ⟨[r.1], r.2, wordNzcv r.1 false false⟩
def fnQden : LaneFn := fun _ s =>
  let r := qDen s.a.toNat
  ⟨[r.1], r.2, wordNzcv r.1 false false⟩
def fnQmake : LaneFn := fun x s => outRat (qMake (ratRnd x.code) s.a s.b)
def fnQlim : LaneFn := fun x s => outRat (qLim (ratRnd x.code) s.a.toNat s.b)
def fnQmed : LaneFn := fun x s => outRat (qMed (ratRnd x.code) s.a.toNat s.b.toNat)

/-! ### Conversions and microscaling (R260, R308 to R312) -/

/-- Gather element results into a word. -/
def outElems (fmt : Nat) (rs : List (Nat × Flags)) : LaneOut :=
  ⟨[elemsWord fmt (rs.map (·.1))], (rs.map (·.2)).foldl (· ||| ·) 0, 0⟩

/-- Source `i` of a packing conversion. -/
def Abcd.src (s : Abcd) : Nat → Word32
  | 0 => s.a
  | 1 => s.b
  | 2 => s.c
  | _ => s.d

def fnCvt : LaneFn := fun x s =>
  let src := x.sub
  let ns := fmtElems src
  let nd := fmtElems x.fmt
  outElems x.fmt ((List.range nd).map (fun j =>
    let e := if ns < nd then elemOf src (s.src (j / ns)) (j % ns) else elemOf src s.a (bits x.imm 2 3 * nd + j)
    convertElem x.fmt src x.code (x.imm.testBit 0) (x.imm.testBit 1) e))
def fnCvtsr : LaneFn := fun x s =>
  let ns := fmtElems x.sub
  let wd := elemBits x.fmt
  outElems x.fmt ((List.range (fmtElems x.fmt)).map (fun j =>
    convertRandom x.fmt x.sub (bits s.b.toNat (wd * j) wd) wd
      (elemOf x.sub (if j < ns then s.a else s.c) (j % ns))))
/-- MXSCL delivers the scale chosen for its warp, given as A (R310). -/
def fnMxscl : LaneFn := fun _ s => ⟨[s.a &&& 0xFF], 0, 0⟩
def fnMxq : LaneFn := fun x s =>
  let r := mxQuant x.fmt (s.b.toNat % 256) s.a.toNat
  let k := x.imm % 8
  ⟨[BitVec.ofNat 32 (r.1 % 2 ^ elemBits x.fmt * 2 ^ (elemBits x.fmt * k))], r.2, 0⟩
def fnMxdq : LaneFn := fun x s =>
  let r := mxDequant x.fmt (s.b.toNat % 256) (elemOf x.fmt s.a (x.imm % 8))
  ⟨[BitVec.ofNat 32 r.1], r.2, 0⟩

/-- A special function (R313). -/
def fnSpecial (op : Nat) : LaneFn := fun x s =>
  let r := specialFn op x.ftz s.a.toNat
  ⟨[BitVec.ofNat 32 r.1], r.2, 0⟩

/-! ### RNG (R321) -/

/-- One round of Philox4x32-10. -/
def philox : Nat → Word32 × Word32 × Word32 × Word32 → Word32 → Word32 → List Word32
  | 0, (x0, x1, x2, x3), _, _ => [x0, x1, x2, x3]
  | n + 1, (x0, x1, x2, x3), k0, k1 =>
    let p := 0xD2511F53 * x0.toNat
    let q := 0xCD9E8D57 * x2.toNat
    philox n (BitVec.ofNat 32 (q / 2 ^ 32) ^^^ x1 ^^^ k0, BitVec.ofNat 32 q,
      BitVec.ofNat 32 (p / 2 ^ 32) ^^^ x3 ^^^ k1, BitVec.ofNat 32 p) (k0 + 0x9E3779B9#32) (k1 + 0xBB67AE85#32)
def fnRng : LaneFn := fun x s => ⟨philox 10 (s.a, s.b, s.c, BitVec.ofNat 32 x.lane) x.key0 x.key1, 0, 0⟩

/-- What a lanewise opcode computes (R258). -/
def laneFn : Nat → LaneFn
  | 0x01 => fnIadd
  | 0x02 => fnIsub
  | 0x03 => fnIadc
  | 0x04 => fnIsbb
  | 0x05 => fnImul
  | 0x06 => fnImulh
  | 0x07 => fnImad
  | 0x08 => fnImin
  | 0x09 => fnImax
  | 0x0A => fnIabs
  | 0x0B => fnIneg
  | 0x0C => fnAnd
  | 0x0D => fnOr
  | 0x0E => fnXor
  | 0x0F => fnAndn
  | 0x10 => fnNot
  | 0x11 => fnShl
  | 0x12 => fnShr
  | 0x13 => fnSar
  | 0x14 => fnRotl
  | 0x15 => fnClz
  | 0x16 => fnPopc
  | 0x17 => fnBrev
  | 0x18 => fnBfx
  | 0x19 => fnBfi
  | 0x1A => fnPerm
  | 0x1B => fnIcmp
  | 0x1C => fnSel
  | 0x1D => fnIdot4
  | 0x1E => fnIdiv
  | 0x1F => fnIrem
  | 0x20 => fnFadd
  | 0x21 => fnFsub
  | 0x22 => fnFmul
  | 0x23 => fnFfma
  | 0x24 => fnFmin
  | 0x25 => fnFmax
  | 0x26 => fnFabs
  | 0x27 => fnFneg
  | 0x28 => fnFcmp
  | 0x29 => fnFdiv
  | 0x2A => fnFdot2
  | 0x2B => fnFdot4
  | 0x2C => fnFrnd
  | 0x2D => fnFsgn
  | 0x2E => fnFsat
  | 0x2F => fnFclass
  | 0x30 => fnQnum
  | 0x31 => fnQden
  | 0x32 => fnQmake
  | 0x33 => fnQlim
  | 0x34 => fnQmed
  | 0x40 => fnCvt
  | 0x41 => fnCvtsr
  | 0x42 => fnMxscl
  | 0x43 => fnMxq
  | 0x44 => fnMxdq
  | 0x50 => fnSpecial 0x50
  | 0x51 => fnSpecial 0x51
  | 0x52 => fnSpecial 0x52
  | 0x53 => fnSpecial 0x53
  | 0x54 => fnSpecial 0x54
  | 0x55 => fnSpecial 0x55
  | 0x56 => fnSpecial 0x56
  | 0x57 => fnSpecial 0x57
  | 0x70 => fnRng
  | _ => fnMov

/-! ### Combining the lanes of a warp or team (R142, R315 to R318) -/

/-- One step of a reduction: the earlier value first (R142, R317). -/
def combineStep (x : LaneEnv) (acc v : Word32) : Word32 × Flags :=
  match x.sub with
  | 0 => (acc + v, 0)
  | 1 => (if v.toInt < acc.toInt then v else acc, 0)
  | 2 => (if acc.toInt < v.toInt then v else acc, 0)
  | 3 => (if v.toNat < acc.toNat then v else acc, 0)
  | 4 => (if acc.toNat < v.toNat then v else acc, 0)
  | 5 => (acc &&& v, 0)
  | 6 => (acc ||| v, 0)
  | 7 => (acc ^^^ v, 0)
  | 8 =>
    let r := fp32.arith (binRnd x.code) x.ftz [acc.toNat, v.toNat] (opAdd (binRnd x.code))
    (BitVec.ofNat 32 r.1, r.2)
  | 9 =>
    let r := fp32.minMax false x.ftz acc.toNat v.toNat
    (BitVec.ofNat 32 r.1, r.2)
  | 0xA =>
    let r := fp32.minMax true x.ftz acc.toNat v.toNat
    (BitVec.ofNat 32 r.1, r.2)
  | _ =>
    let r := qArith (ratRnd x.code) [acc.toNat, v.toNat] (opAdd .rne)
    (BitVec.ofNat 32 r.1, r.2)

/-- The first active value, read as an operand (R142). -/
def combineFirst (x : LaneEnv) (v : Word32) : Word32 × Flags :=
  if 8 ≤ x.sub && x.sub ≤ 0xA then
    let r := fp32.read x.ftz v.toNat
    match fp32.val r with
    | .nan sg => (BitVec.ofNat 32 fp32.nanCode, Flags.when sg flagNV)
    | _ => (BitVec.ofNat 32 r, 0)
  else if x.sub == 0xB then
    let r := qRead v.toNat
    (BitVec.ofNat 32 (qEncode r.1), r.2)
  else (v, 0)

/-- The identity of a reduction (R317). -/
def combineIdentity : Nat → Word32
  | 1 => 0x7FFFFFFF#32
  | 2 => 0x80000000#32
  | 3 => 0xFFFFFFFF#32
  | 5 => 0xFFFFFFFF#32
  | 9 => 0x7F800000#32
  | 0xA => 0xFF800000#32
  | 0xB => 0x04000001#32
  | _ => 0

/-- Running combinations after each value, in order, and the flags of all steps. -/
def combineRun (x : LaneEnv) : Option Word32 → List Word32 → List Word32 × Flags
  | _, [] => ([], 0)
  | acc, v :: vs =>
    let r := match acc with
      | none => combineFirst x v
      | some a => combineStep x a v
    let t := combineRun x (some r.1) vs
    (r.1 :: t.1, r.2 ||| t.2)

/-- The combination of every value; the identity when there is none. -/
def combineAll (x : LaneEnv) (vs : List Word32) : Word32 × Flags :=
  let r := combineRun x none vs
  (r.1.getLastD (combineIdentity x.sub), r.2)

/-- What each of the lanes receives from a scan, and the flags of the steps that lead to a delivered value: an exclusive
scan forms no combination of the last lane's value (R318, R128). -/
def scanResults (x : LaneEnv) (vs : List Word32) : List Word32 × Flags :=
  if x.imm.testBit 0 then
    let r := combineRun x none vs.dropLast
    ((combineIdentity x.sub :: r.1).take vs.length, r.2)
  else combineRun x none vs

/-- VOTE (R316). -/
def voteValue (sub : Nat) (vs : List Word32) : Word32 :=
  let n := (vs.filter (· != 0)).length
  match sub with
  | 0 => if n == 0 then 0 else 1
  | 1 => if n == vs.length then 1 else 0
  | _ => BitVec.ofNat 32 n

/-- A team result in a g register: sign-extended for IADD, IMIN and IMAX (R316, R317). -/
def teamWord (op sub : Nat) (v : Word32) : Word64 :=
  if op == 0x63 && sub ≤ 2 then v.signExtend 64 else v.setWidth 64

end Sys2Proof.Machine
end

