-- ==== Sys2Proof/Machine/Masks.lean ====
section
/-! DEFINITION. Mask operations (R220, R275 to R277) and branches on masks (R271). -/

namespace Sys2Proof.Machine
open Sys2Proof

/-- Mask `m` of a team (R220). -/
def Team.mask (t : Team) (m : Nat) : BitVec 1024 := t.k.look 0 m

/-- Write mask `m`; bits of lanes not launched stay 0 (R220). -/
def Team.setMask (t : Team) (m : Nat) (v : BitVec 1024) : Team :=
  { t with k := t.k.put m (v &&& launchedMask t.warps) }

/-- Whether an entry writes mask `m`; accesses write k0 (R220). -/
def LaneEntry.writesMask (e : LaneEntry) (m : Nat) : Bool :=
  (e.op == 0x66 && e.sub % 8 == m) || (m == 0 && isMemOp e.op)

/-- Whether an entry reads mask `m`: as its selected mask, by KGET, and k0 always (R220, R221). -/
def LaneEntry.readsMask (e : LaneEntry) (m : Nat) : Bool :=
  m == 0 || e.mask == m || (e.op == 0x67 && e.sub % 8 == m)

/-- Whether a KSET of the team waits for a port element that decides a bit of mask `m` (R236, R320). -/
def ksetPending (s : State) (core slot m : Nat) : Bool :=
  s.pendings.any (fun e => e.2.core == core && e.2.slot == slot && e.2.op == 0x66 && !e.2.discard &&
    (match e.2.deferred with | some d => d.entry.sub % 8 == m | none => false))

/-- A scalar reader of mask `m` need not wait (R220). -/
def maskReadable (s : State) (c sl : Nat) (t : Team) (m : Nat) : Bool :=
  !t.enqueued.any (·.writesMask m) && !ksetPending s c sl m &&
    (m != 0 || (!gangBusy s c sl && !portStoreBusy s c sl))

/-- A scalar writer of mask `m` need not wait (R220). -/
def maskWritable (s : State) (c sl : Nat) (t : Team) (m : Nat) : Bool :=
  !ksetPending s c sl m && !t.enqueued.any (fun e => e.readsMask m || e.writesMask m)

/-- A mask written from masks read (R220, R275). -/
def maskOp (d : BitVec 3) (reads : List (BitVec 3)) (f : Team → BitVec 1024) (s : State) : Result :=
  withTeam s (fun c sl t _ =>
    if reads.all (fun m => maskReadable s c sl t m.toNat) && maskWritable s c sl t d.toNat then
      .next (retire (s.setTeam c sl (t.setMask d.toNat (f t))))
    else .next (block s .laneStream))

/-- KAND (R275). -/
def execKand (d a b : BitVec 3) (s : State) : Result :=
  maskOp d [a, b] (fun t => t.mask a.toNat &&& t.mask b.toNat) s
/-- KOR (R275). -/
def execKor (d a b : BitVec 3) (s : State) : Result :=
  maskOp d [a, b] (fun t => t.mask a.toNat ||| t.mask b.toNat) s
/-- KXOR (R275). -/
def execKxor (d a b : BitVec 3) (s : State) : Result :=
  maskOp d [a, b] (fun t => t.mask a.toNat ^^^ t.mask b.toNat) s
/-- KANDN (R275). -/
def execKandn (d a b : BitVec 3) (s : State) : Result :=
  maskOp d [a, b] (fun t => t.mask a.toNat &&& ~~~t.mask b.toNat) s
/-- KNOT (R275). -/
def execKnot (d a : BitVec 3) (s : State) : Result := maskOp d [a] (fun t => ~~~t.mask a.toNat) s
/-- KMOV (R275). -/
def execKmov (d a : BitVec 3) (s : State) : Result := maskOp d [a] (fun t => t.mask a.toNat) s
/-- KALL (R275). -/
def execKall (d : BitVec 3) (s : State) : Result := maskOp d [] (fun t => launchedMask t.warps) s
/-- KCLR (R275). -/
def execKclr (d : BitVec 3) (s : State) : Result := maskOp d [] (fun _ => 0) s

/-- gd from the live lanes of a mask (R276). -/
def maskSummary (d : BitVec 5) (k : BitVec 3) (f : BitVec 1024 → Word64) (s : State) : Result :=
  withTeam s (fun c sl t _ =>
    if maskReadable s c sl t k.toNat && maskReadable s c sl t 0 then
      withRegs s [d] (fun _ => .next (retireWith s d (f (t.mask k.toNat &&& t.mask 0))))
    else .next (block s .laneStream))

/-- KCNT (R276). -/
def execKcnt (d : BitVec 5) (k : BitVec 3) (s : State) : Result :=
  maskSummary d k (fun m => BitVec.ofNat 64 (popFrom m.toNat 1024)) s
/-- KFST (R276). -/
def execKfst (d : BitVec 5) (k : BitVec 3) (s : State) : Result :=
  maskSummary d k (fun m => if m = 0 then BitVec.allOnes 64 else BitVec.ofNat 64 (ctzFrom m.toNat 1024)) s

/-- Word `w` of a mask. -/
def maskWord (m : BitVec 1024) (w : Nat) : Word32 := m.extractLsb' (32 * w) 32

/-- Replace word `w` of a mask. -/
def setMaskWord (m : BitVec 1024) (w : Nat) (v : Word32) : BitVec 1024 :=
  (m &&& ~~~((0xFFFFFFFF#1024) <<< (32 * w))) ||| ((v.setWidth 1024) <<< (32 * w))

/-- KRDW: a word of a mask as stored (R277). -/
def execKrdw (d a : BitVec 5) (k : BitVec 3) (s : State) : Result :=
  withTeam s (fun c sl t _ =>
    if maskReadable s c sl t k.toNat then
      withRegs s [a, d] (fun th =>
        .next (retireWith s d ((maskWord (t.mask k.toNat) ((th.rd a).toNat % 32)).setWidth 64)))
    else .next (block s .laneStream))

/-- KWRW: a word of a mask from gb (R277). -/
def execKwrw (a b : BitVec 5) (k : BitVec 3) (s : State) : Result :=
  withRegs s [a, b] (fun th =>
    maskOp k [] (fun t =>
      setMaskWord (t.mask k.toNat) ((th.rd a).toNat % 32) ((th.rd b).setWidth 32)) s)

/-- A branch on a mask ANDed with k0 (R271). -/
def maskBranch (test : BitVec 1024 → BitVec 1024 → Bool) (k : BitVec 3) (o : BitVec 16) (s : State) : Result :=
  withTeam s (fun c sl t _ =>
    if maskReadable s c sl t k.toNat && maskReadable s c sl t 0 then
      .next (s.onThread s.cur (fun th =>
        if test (t.mask k.toNat &&& t.mask 0) (t.mask 0) then th.goto (branchTarget th.spc o) else th.next_))
    else .next (block s .laneStream))

/-- BK ANY (R271). -/
def execBkAny (k : BitVec 3) (o : BitVec 16) (s : State) : Result := maskBranch (fun m _ => m != 0) k o s
/-- BK NONE (R271). -/
def execBkNone (k : BitVec 3) (o : BitVec 16) (s : State) : Result := maskBranch (fun m _ => m == 0) k o s
/-- BK ALL (R271). -/
def execBkAll (k : BitVec 3) (o : BitVec 16) (s : State) : Result := maskBranch (fun m k0 => m == k0) k o s

end Sys2Proof.Machine
end

