-- ==== Sys2Proof/Machine/Operands.lean ====
section
/-! DEFINITION. The operands of a lane instruction: which lanes are active (R221, R222), what a source code reads
(R234, R235, R240, R315), what a destination receives (R212, R213, R222), condition codes (R219). -/

namespace Sys2Proof.Machine
open Sys2Proof

/-- A lane instruction at the head of its team's queue. -/
structure Pass where
  core : Nat
  slot : Nat
  t : Team
  u : UnitRec
  e : LaneEntry
  op : Nat
  w : LaneWord
  now : Nat
  deriving DecidableEq, Repr

/-- What a lane read: its team lane index and the values of A to D as numbers. -/
abbrev Row := Nat × List Nat

/-! ### Registers of a lane -/

/-- The lanes a team launched. -/
def Team.lanes (t : Team) : List Nat := List.range (32 * t.warps)

/-- v register `r` of a lane (R212). -/
def Team.vcell (t : Team) (lane r : Nat) : Cell := t.v.look Cell.zero (lane * 64 + r)

/-- Entry qj of a lane. -/
def Team.qcell (t : Team) (lane j : Nat) : Cell := ((t.q.look [] lane)[j]?).getD Cell.zero

/-- Condition-code register `n` of a lane (R218). -/
def Team.cond (t : Team) (lane n : Nat) : BitVec 4 := (t.c.look 0 lane).extractLsb' (4 * n) 4

/-- Write condition-code register `n` of a lane. -/
def Team.setCond (t : Team) (lane n : Nat) (v : BitVec 4) : Team :=
  { t with c := t.c.put lane ((t.c.look 0 lane &&& ~~~((0xF#16) <<< (4 * n))) ||| ((v.setWidth 16) <<< (4 * n))) }

/-- Cells joined lowest first, and the first pending result among them, 0 for none. -/
def joinCells : List Cell → Nat × Nat
  | [] => (0, 0)
  | c :: cs =>
    let r := joinCells cs
    (c.val.toNat + 2 ^ 32 * r.1, if c.pend == 0 then r.2 else c.pend)

/-! ### Active lanes (R221, R222) -/

/-- The mask a prefix selects, k0 without one (R243). -/
def maskNo (w : LaneWord) : Nat :=
  match w.pfx with
  | some p => p.mask.toNat
  | none => 0

/-- Zero policy (R243). -/
def zeroPol (w : LaneWord) : Bool :=
  match w.pfx with
  | some p => p.pol == 1
  | none => false

/-- The selected mask ANDed with k0. -/
def Pass.sel (x : Pass) : BitVec 1024 := x.t.mask (maskNo x.w) &&& x.t.mask 0

/-- The warps that are swept, in order (R222). -/
def Pass.swept (x : Pass) : List Nat := (List.range x.t.warps).filter (fun w => maskWord x.sel w != 0)

/-- Whether a lane is active (R221). -/
def Pass.active (x : Pass) (lane : Nat) : Bool :=
  x.sel.getLsbD lane && condHolds x.w.gcond.toNat (x.t.cond lane x.w.gcc.toNat)

def Pass.activeLanes (x : Pass) : List Nat := x.t.lanes.filter x.active

/-! ### Sources -/

def Pass.fmt (x : Pass) : Nat := x.w.fmt.toNat
def Pass.sub (x : Pass) : Nat := x.w.sub.toNat

/-- The codes of the sources the word reads, in the order A, B, C, D (R234). -/
def Pass.codes (x : Pass) : List Nat := (laneCodes x.w).take (laneReads x.op x.fmt x.sub)

/-- The 32-bit words source `i` supplies: two or four for B of STS and STG b64, b128 (R323). -/
def Pass.srcWords (x : Pass) (i : Nat) : Nat :=
  if (x.op == 0x81 || x.op == 0x84) && i == 1 then (if x.sub == 3 then 2 else if x.sub == 4 then 4 else 1) else 1

/-- What a code reads in a lane: its value, and the pending result it waits for, 0 when full (R215, R235). -/
def Pass.readCode (x : Pass) (code lane n : Nat) : Nat × Nat :=
  if codeIsV code then joinCells ((List.range n).map (fun j => x.t.vcell lane (code + j)))
  else if codeIsQ code then joinCells [x.t.qcell lane (code - 0x40)]
  else if codeIsG code then
    let g := (x.e.caps.look 0 (code - 0x50)).toNat
    (if n == 1 then g % 2 ^ 32 else g, 0)
  else if codeIsCc code then ((x.t.cond lane (code - 0x90)).toNat, 0)
  else match code with
    | 0x71 => (lane % 32, 0)
    | 0x72 => (lane / 32, 0)
    | 0x73 => (lane, 0)
    | 0x74 => (32 * x.t.warps, 0)
    | 0x75 => (x.u.index % 2 ^ 22, 0)
    | 0x76 => (x.t.index, 0)
    | 0x77 => (x.core, 0)
    | 0x78 => (x.now % 2 ^ 32, 0)
    | 0x79 => (0xFFFFFFFF, 0)
    | 0x7A => (0x3F800000, 0)
    | 0xFE => (x.w.aux.toNat, 0)
    | _ => (0, 0)

/-- Lane `s` of the lane's own warp, or the lane itself when `s` lies outside (R240, R315). -/
def pickLane (lane : Nat) (s : Int) : Nat := if 0 ≤ s ∧ s < 32 then lane / 32 * 32 + s.toNat else lane

/-- The lane SHFL names, from B (R315). -/
def shflLane (sub b lane : Nat) : Nat :=
  let j : Int := (lane % 32 : Nat)
  match sub with
  | 0 => pickLane lane (b % 32 : Nat)
  | 1 => pickLane lane (j - b)
  | 2 => pickLane lane (j + b)
  | _ => pickLane lane ((lane % 32) ^^^ (b % 32) : Nat)

/-- The lane a modifier names for source `i` (R239, R240). -/
def modLane (w : LaneWord) (op i lane : Nat) : Nat :=
  if w.litsel != 0 || isMemOp op || auxXsrc w.aux != i then lane
  else
    let j : Int := (lane % 32 : Nat)
    let n := auxXarg w.aux
    match auxXmod w.aux with
    | 1 => pickLane lane (j - n)
    | 2 => pickLane lane (j + n)
    | 3 => pickLane lane ((lane % 32) ^^^ n : Nat)
    | 4 => pickLane lane (n : Nat)
    | _ => lane

/-- The lane source `i` is read from: its own, or the one its modifier names; A of SHFL is the value that the lane B
names would read (R240, R315). -/
def Pass.srcLane (x : Pass) (lane i : Nat) : Nat :=
  if x.op == 0x60 && i == 0 then
    modLane x.w x.op 0
      (shflLane x.sub (x.readCode ((x.codes[1]?).getD 0xFF) (modLane x.w x.op 1 lane) 1).1 lane)
  else modLane x.w x.op i lane

/-- Read source `i` in a lane, through its modifier or SHFL. -/
def Pass.readSrc (x : Pass) (lane i : Nat) (code : Nat) : Nat × Nat :=
  x.readCode code (x.srcLane lane i) (x.srcWords i)

/-- Every source of a lane. -/
def Pass.readAll (x : Pass) (lane : Nat) : List (Nat × Nat) :=
  (x.codes.zipIdx).map (fun c => x.readSrc lane c.2 c.1)

/-- The rows of the active lanes. -/
def Pass.rows (x : Pass) : List Row := x.activeLanes.map (fun l => (l, (x.readAll l).map (·.1)))

/-- Whether a lane knows from where it reads source `i`: A of SHFL hangs on B, which may be empty or a port element. -/
def Pass.srcKnown (x : Pass) (lane i : Nat) : Bool :=
  !(x.op == 0x60 && i == 0) ||
  (let b := (x.codes[1]?).getD 0xFF
   !codeIsPort b && (x.readSrc lane 1 b).2 == 0)

/-- The empty values with ea 1: the lane whose value is empty, the source, its code (R216). -/
def Pass.emptyReads (x : Pass) : List (Nat × Nat × Nat) :=
  x.activeLanes.flatMap (fun l =>
    (x.codes.zipIdx).filterMap (fun c =>
      if laneEa x.w c.2 && x.srcKnown l c.2 && (x.readSrc l c.2 c.1).2 != 0 then some (x.srcLane l c.2, c.2, c.1)
      else none))

/-- The value that EMPTY-READ reports: that of the lowest lane, and of its sources the first (R216). -/
def Pass.emptyTrap (x : Pass) : Option (Nat × Nat × Nat) :=
  x.emptyReads.foldl (fun m c => match m with
    | none => some c
    | some d => if c.1 * 4 + c.2.1 < d.1 * 4 + d.2.1 then some c else m) none

/-- Whether a value that the instruction reads is empty (R216); SHFL with a port element as B may read A of any
lane of its warp. -/
def Pass.sourceEmpty (x : Pass) : Bool :=
  x.activeLanes.any (fun l => (x.readAll l).any (fun r => r.2 != 0)) ||
  (x.op == 0x60 && codeIsPort x.w.srcB.toNat &&
    x.swept.any (fun w => (List.range 32).any (fun j => (x.readCode x.w.srcA.toNat (32 * w + j) 1).2 != 0)))

/-- The port a code list names, if any (R236). -/
def portIn (cs : List Nat) : Option Nat := (cs.find? codeIsPort).map (· - 0x80)

def Pass.portSrc (x : Pass) : Option Nat := portIn x.codes
def Pass.portDst (x : Pass) : Option Nat := if codeIsPort x.w.dst.toNat then some (x.w.dst.toNat - 0x80) else none

/-- Which source is the port. -/
def Pass.portIndex (x : Pass) : Nat := x.codes.findIdx codeIsPort

/-- The latency class under the captured QM (R210, R259). -/
def Pass.long (x : Pass) : Bool := laneClass (tmodeQm x.e.tmode) x.op x.fmt x.sub x.codes == .long

/-- What a lane computes with. -/
def Pass.env (x : Pass) (lane : Nat) : LaneEnv :=
  ⟨x.w, x.e.tmode, lane, x.t.keylo.setWidth 32, x.t.keyhi.setWidth 32⟩

/-- A row's values as words. -/
def Row.abcd (r : Row) : Abcd :=
  let g (i : Nat) : Word32 := BitVec.ofNat 32 ((r.2[i]?).getD 0)
  ⟨g 0, g 1, g 2, g 3⟩

/-! ### Destinations -/

/-- Registers a named destination covers (R212, R321, R323). -/
def destRegs (op sub : Nat) : Nat :=
  if op == 0x70 then 4
  else if op == 0x80 || op == 0x83 then (if sub == 3 then 2 else if sub == 4 then 4 else 1)
  else 1

/-- Whether a named register that would be written is empty (R217). -/
def Pass.destBusy (x : Pass) : Bool :=
  let d := x.w.dst.toNat
  codeIsV d && (if zeroPol x.w then x.t.lanes else x.activeLanes).any (fun l =>
    (List.range (destRegs x.op x.sub)).any (fun j => (x.t.vcell l (d + j)).pend != 0))

/-- Write consecutive v registers of a lane. -/
def Team.putCells (t : Team) (lane : Nat) : Nat → List Cell → Team
  | _, [] => t
  | r, c :: cs => Team.putCells { t with v := t.v.put (lane * 64 + r) c } lane (r + 1) cs

/-- Write a named destination: `outs` for the lanes that have a result, zero under zero policy elsewhere (R222). -/
def Team.writeNamed (t : Team) (w : LaneWord) (n : Nat) (outs : FMap (List Cell)) (keep : List Nat) : Team :=
  t.lanes.foldl (fun (t : Team) l =>
    match outs.find l with
    | some cs => t.putCells l w.dst.toNat cs
    | none => if zeroPol w && !keep.contains l then t.putCells l w.dst.toNat (List.replicate n Cell.zero) else t) t

/-- Push the queue of every launched lane (R213); a lane in `keep` pushes what it holds under either policy (R325). -/
def Team.pushAll (t : Team) (w : LaneWord) (outs : FMap (List Cell)) (keep : List Nat) : Team :=
  { t with q := t.lanes.foldl (fun (q : FMap (List Cell)) l =>
      let c := match outs.find l with
        | some (c :: _) => c
        | _ => if zeroPol w && !keep.contains l then Cell.zero else t.qcell l 0
      q.put l ((c :: q.look [] l).take 16)) t.q }

/-- Deliver to a named register or to the queue; `keep` are lanes whose destination stays (R325). -/
def Team.deliver (t : Team) (op : Nat) (w : LaneWord) (outs : FMap (List Cell)) (keep : List Nat) : Team :=
  let d := w.dst.toNat
  if codeIsV d then t.writeNamed w (destRegs op w.sub.toNat) outs keep
  else if d == 0x40 then t.pushAll w outs keep
  else t

/-- Write condition codes where ccd asks for them (R219). -/
def Team.putCc (t : Team) (w : LaneWord) (lane : Nat) (v : BitVec 4) : Team :=
  if 4 ≤ w.ccd.toNat then t.setCond lane (w.ccd.toNat - 4) v else t

end Sys2Proof.Machine
end

