-- ==== Sys2Proof/Machine/LanePass.lean ====
section
/-! DEFINITION. The passes of a lane instruction (R210, R222): what holds it back or traps it before its first pass
(R113, R115 to R117, R216, R217), pipelined results, long-class results (R214), pushes and pops of ports (R111,
R112), and the arrival of a port element (R236). -/

namespace Sys2Proof.Machine
open Sys2Proof

/-! ### Ports -/

/-- Field of pipe `p` in PIPECFG: EN, DIR, PEER (R114). -/
def pipeEn (cfg : Word32) (p : Nat) : Bool := bits cfg.toNat (8 * (p - 4) + 7) 1 == 1
def pipeDir (cfg : Word32) (p : Nat) : Nat := bits cfg.toNat (8 * (p - 4) + 6) 1
def pipePeer (cfg : Word32) (p : Nat) : Nat := bits cfg.toNat (8 * (p - 4)) 5

/-- Key of a pipe (R115). -/
def pipeKey (p push pop : Nat) : Nat := p * 1024 + push * 32 + pop

/-- PIPECFG of a team of the unit, resident or ended. -/
def peerConfig (s : State) (u : Nat) (r : UnitRec) (i : Nat) : Option Word32 :=
  match (s.teamsOf u).find? (fun t => t.2.index == i) with
  | some t => some t.2.pipecfg
  | none => match r.savedTeams.find i with
    | some t => some t.pipecfg
    | none => (r.last.find i).map (·.pipecfg)

/-- Whether pipe `p` joins the team and a peer, the team pushing for `dir` 1 (R115). -/
def pipeJoined (s : State) (u : Nat) (r : UnitRec) (t : Team) (p dir : Nat) : Bool :=
  pipeEn t.pipecfg p && pipeDir t.pipecfg p == dir && pipePeer t.pipecfg p != t.index &&
  (match peerConfig s u r (pipePeer t.pipecfg p) with
   | some c => pipeEn c p && pipeDir c p == 1 - dir && pipePeer c p == t.index
   | none => false)

/-- Key of the pipe that a team pushes (`dir` 1) or pops (`dir` 0). -/
def pipeOf (t : Team) (p dir : Nat) : Nat :=
  if dir == 1 then pipeKey p t.index (pipePeer t.pipecfg p) else pipeKey p (pipePeer t.pipecfg p) t.index

/-- Whether the ports of the core's cluster are bound to the unit (R110). -/
def portsBound (s : State) (core u : Nat) : Bool :=
  match (s.cluster (clusterOf core)).binding with
  | some b => b.unit == u
  | none => false

/-- TINFO of a PORT trap (R117). -/
def portInfo (p code : Nat) : Word64 := BitVec.ofNat 64 (p * 256 + code)

/-- The code of the PORT trap a use of port `p` meets, 0 for none (R110, R115, R117). -/
def portCode (s : State) (core : Nat) (t : Team) (r : UnitRec) (p dir : Nat) : Nat :=
  if (dir == 1 && p == 2) || (dir == 0 && (p < 2 || p == 3)) then 2
  else if p < 4 then (if portsBound s core t.unit then 0 else 1)
  else if !pipeJoined s t.unit r t p dir then 3
  else if dir == 0 && (r.pipes.look [] (pipeOf t p 0)).isEmpty && r.exited.contains (pipePeer t.pipecfg p) then 4
  else 0

/-- The PORT trap of an instruction, as port and code. -/
def Pass.portTrap (x : Pass) (s : State) : Option Word64 :=
  match x.portDst, x.portSrc with
  | some p, _ => let c := portCode s x.core x.t x.u p 1; if c == 0 then none else some (portInfo p c)
  | none, some p => let c := portCode s x.core x.t x.u p 0; if c == 0 then none else some (portInfo p c)
  | none, none => none

/-- Whether port `p` has room for `n` rows or 32 `n` elements more (R110, R113). -/
def portRoom (s : State) (core : Nat) (t : Team) (r : UnitRec) (p n : Nat) : Bool :=
  let c := s.cluster (clusterOf core)
  match p with
  | 0 => c.p0.length + n ≤ 64
  | 1 => c.p1.length + n ≤ 64
  | 3 => c.p3.length + n ≤ 32
  | _ => (r.pipes.look [] (pipeOf t p 1)).length + 32 * n ≤ 1024

/-! ### Before the first pass -/

/-- The lane stream waits; a team that blocks leaves the active set (R216, R228). -/
def laneBlock (s : State) (x : Pass) (w : Wait) : State :=
  s.setTeam x.core x.slot { x.t with laneWait := w, set_ := if w.blocks then .pending else x.t.set_ }

/-- What a lane instruction waits for before its first pass: its sources and its destination (R216), or room for its
rows (R113). -/
def Pass.headWait (x : Pass) (s : State) : Option Wait :=
  if x.sourceEmpty || x.destBusy then some .laneSource
  else match x.portDst with
    | some p => if portRoom s x.core x.t x.u p x.swept.length then none else some (.port p)
    | none => none

/-- The lane instruction at the head of the acting team's queue goes to its passes `k`, unless it traps
EMPTY-READ or PORT or waits. In handler mode the lane stream stands still (R393). -/
def withHead (op : Nat) (w : LaneWord) (s : State) (k : Pass → Result) : Result :=
  withTeam s (fun c sl t u =>
    if t.th.handler then .next s
    else match t.queue with
      | [] => .next s
      | e :: _ =>
        let x : Pass := ⟨c, sl, t, u, e, op, w, s.now⟩
        match x.emptyTrap with
        | some (l, i, code) =>
          .next (takeTrap s s.cur 0x02 0 t.th.spc none (BitVec.ofNat 64 (l * 65536 + i * 256 + code)))
        | none => match x.portTrap s with
          | some info => .next (takeTrap s s.cur 0x07 0 t.th.spc none info)
          | none =>
            match x.headWait s with
            | some w => .next (laneBlock s x w)
            | none => k x)

/-! ### Values -/

/-- Operations whose results mix the lanes of a warp, or of the team; SHFL mixes them as its sources are read, or
when a port element is one of them. -/
def isWarpOp (op : Nat) : Bool := op == 0x60 || op == 0x42 || op == 0x62 || op == 0x64
def isTeamOp (op : Nat) : Bool := op == 0x61 || op == 0x63 || op == 0x65

/-- Which lanes share one computation. -/
def groupKey (op lane : Nat) : Nat := if isTeamOp op then 0 else if isWarpOp op then lane / 32 else lane

/-- Results of one group of lanes; flags of the group stand at its first lane. -/
def groupValues (op : Nat) (env : Nat → LaneEnv) (rows : List Row) : List (Nat × LaneOut) :=
  match rows with
  | [] => []
  | r :: _ =>
    let e := env r.1
    let as := rows.map (fun q => (Row.abcd q).a)
    let first (fl : Flags) (i : Nat) : Flags := if i == 0 then fl else 0
    if op == 0x42 then
      let sc : Word32 := BitVec.ofNat 32 (blockScale e.fmt (as.map BitVec.toNat))
      rows.map (fun q => (q.1, ⟨[sc], 0, 0⟩))
    else if op == 0x61 then rows.map (fun q => (q.1, ⟨[voteValue e.sub as], 0, 0⟩))
    else if op == 0x62 || op == 0x63 then
      let v := combineAll e as
      rows.zipIdx.map (fun q => (q.1.1, ⟨[v.1], first v.2 q.2, 0⟩))
    else if op == 0x64 || op == 0x65 then
      let v := scanResults e as
      (rows.zip v.1).zipIdx.map (fun q => (q.1.1.1, ⟨[q.1.2], first v.2 q.2, 0⟩))
    else rows.map (fun q => (q.1, laneFn op (env q.1) q.abcd))

/-- Results of every active lane. -/
def laneValues (op : Nat) (env : Nat → LaneEnv) (rows : List Row) : List (Nat × LaneOut) :=
  if isWarpOp op then
    (List.range 32).flatMap (fun w => groupValues op env (rows.filter (fun r => r.1 / 32 == w)))
  else groupValues op env rows

/-- The team value of VOTE and REDT (R316, R317). -/
def teamValue (op : Nat) (env : LaneEnv) (rows : List Row) : Word64 :=
  let as := rows.map (fun q => (Row.abcd q).a)
  teamWord op env.sub (if op == 0x61 then voteValue env.sub as else (combineAll env as).1)

/-- A 64-bit word as two words, low first. -/
def halves (v : Word64) : List Word32 := [v.setWidth 32, v.extractLsb' 32 32]

/-! ### The end of the passes -/

/-- Flags of a lane instruction enter FSTAT; an enabled one makes ARITH pending (R128, R294). -/
def Team.raise (t : Team) (op : Nat) (long : Bool) (elpc : Word64) (fl : Flags) : Team :=
  let hit := fl &&& t.ften
  let t := { t with fstat := t.fstat ||| fl }
  if hit = 0 then t
  else { t with th := t.th.post ⟨0x03, 0,
    BitVec.ofNat 64 (op * 65536 + (if long then 256 else 0) + hit.toNat), false, some elpc⟩ }

/-- The instruction has made its last pass and leaves the queue. -/
def finishPass (s : State) (x : Pass) (t : Team) (fl : Flags) : State :=
  s.setTeam x.core x.slot
    (Team.raise { t with queue := t.queue.drop 1, laneWait := .none } x.op false x.e.lpc fl)

/-- The flags of every lane. -/
def flagsOf (outs : List (Nat × LaneOut)) : Flags := (outs.map (·.2.flags)).foldl (· ||| ·) 0

/-- Full cells of a lane's words. -/
def fullCells (o : Nat × LaneOut) : Nat × List Cell := (o.1, o.2.vals.map (fun v => ⟨v, 0⟩))

/-! ### Pushes (R111) -/

/-- The words a swept warp gives a port. -/
def portWords (outs : FMap LaneOut) (w : Nat) : List Word32 :=
  (List.range 32).map (fun j => match outs.find (32 * w + j) with
    | some o => o.vals.headD 0
    | none => 0)

/-- The 128 bytes of a row. -/
def rowBytes (ws : List Word32) : List Byte := ws.flatMap (fun v => bytesOfNum 4 v.toNat)

/-! ### Long-class results (R210, R214) -/

/-- A pending result with nothing known of it. -/
def Pass.pending (x : Pass) (instr lane : Nat) : Pending :=
  { core := x.core, slot := x.slot, instr, op := x.op, elpc := x.e.lpc, lane, value := none, discard := false,
    flags := 0, quiet := false, noted := false, deferred := none, store := none, cc := none, psn := none }

/-- The condition codes a result writes when it arrives (R219, log 11). -/
def ccOf (w : LaneWord) (v : BitVec 4) : Option (Nat × BitVec 4) :=
  if 4 ≤ w.ccd.toNat then some (w.ccd.toNat - 4, v) else none

/-- Number the active lanes of a long-class instruction from `id` on. -/
def numbered {α : Type} (id : Nat) (l : List (Nat × α)) : List (Nat × Nat × α) :=
  l.zipIdx.map (fun e => (id + e.2, e.1.1, e.1.2))

/-- Mark the destinations of lanes empty, each for its pending result. -/
def Pass.markEmpty (x : Pass) (t : Team) (ids : List (Nat × Nat)) : Team :=
  t.deliver x.op x.w (ids.map (fun i => (i.2, List.replicate (destRegs x.op x.sub) ⟨0, i.1⟩))) []

/-- The pending result of a g destination; the instruction's flags come with it (R129, R294). -/
def Pass.teamPending (x : Pass) (instr : Nat) (v : Option Word64) (fl : Flags) : FMap Pending → FMap Pending :=
  fun m => if x.e.gpend == 0 then m
    else m.put x.e.gpend { x.pending instr 1024 with value := v.map halves, flags := fl }

/-- The flags that a lane's own pending result brings: none where the result is a g register's. -/
def LaneEntry.laneFlags (e : LaneEntry) (fl : Flags) : Flags := if e.gpend == 0 then fl else 0

/-- A long-class instruction without a port: its results are on their way. -/
def passLong (s : State) (x : Pass) : State :=
  let rows := x.rows
  let vals := laneValues x.op x.env rows
  let outs := numbered (s.nextId + 1) vals
  let ps := outs.foldl (fun (m : FMap Pending) o =>
    m.put o.1 { x.pending s.nextId o.2.1 with
      value := some o.2.2.vals, flags := x.e.laneFlags o.2.2.flags, cc := ccOf x.w o.2.2.cc }) s.pendings
  let ps := x.teamPending s.nextId (some (teamValue x.op (x.env 0) rows)) (flagsOf vals) ps
  let s := { s with pendings := ps, nextId := s.nextId + 1 + outs.length }
  finishPass s x (x.markEmpty x.t (outs.map (fun o => (o.1, o.2.1)))) 0

/-- An instruction whose results are ready within its passes. -/
def passShort (x : Pass) : Team × List (Nat × LaneOut) :=
  let outs := laneValues x.op x.env x.rows
  let t := outs.foldl (fun (t : Team) o => t.putCc x.w o.1 o.2.cc) x.t
  (t.deliver x.op x.w (outs.map fullCells) [], outs)

/-! ### Elements of ports -/

/-- Poison of a popped element: POISON once for the instruction (R86). -/
def notePoison (s : State) (p : Pending) (info : Word64) : State :=
  if p.noted || p.discard then s
  else
    let s := postCause s (.team p.core p.slot) 0x06 0 info
    { s with pendings := s.pendings.map (fun e =>
        if e.2.instr == p.instr && e.2.core == p.core && e.2.slot == p.slot then (e.1, { e.2 with noted := true })
        else e) }

/-- What a popping lane keeps until its element arrives: which source it is, and the others. SHFL keeps A of all
lanes of its warp, then B (R315). -/
def Pass.calcSources (x : Pass) (lane : Nat) (r : List Nat) : Nat × List Nat :=
  if x.op == 0x60 then
    (if x.portIndex == 0 then lane % 32 else 32,
     (List.range 32).map (fun j =>
       (x.readCode ((x.codes[0]?).getD 0xFF) (modLane x.w x.op 0 (lane / 32 * 32 + j)) 1).1) ++
       [(r[1]?).getD 0])
  else (x.portIndex, r)

/-- SHFL of elements: the lane named by B gives its own; that of a lane that was not active has been discarded,
and the value is open (R112, R315, log 12). -/
def settleShfl (d : Calc) (sub : Nat) (rows : List Row) (s : State) : State × List (Nat × LaneOut) :=
  rows.foldl (fun (a : State × List (Nat × LaneOut)) r =>
    let l := shflLane sub ((r.2[32]?).getD 0) r.1
    let src := if d.port == 32 then some r.2 else FMap.find rows l
    match src with
    | some q => (a.1, a.2 ++ [(r.1, ⟨[BitVec.ofNat 32 ((q[l % 32]?).getD 0)], 0, 0⟩)])
    | none =>
      let f := freeValue a.1
      (f.2, a.2 ++ [(r.1, ⟨[f.1.setWidth 32], 0, 0⟩)])) (s, [])

/-- The results of a group all of whose elements have arrived (R236). -/
def settleGroup (s : State) (p : Pending) (d : Calc) : State :=
  let mates := s.pendings.filter (fun e => e.2.instr == p.instr && e.2.core == p.core && e.2.slot == p.slot &&
    e.2.deferred.isSome && !e.2.discard && groupKey p.op e.2.lane == groupKey p.op p.lane)
  if mates.all (fun e => match e.2.deferred with | some c => c.got | none => false) then
    match laneDecode (tmodeQm d.entry.tmode) d.entry.parcels with
    | .error _ => s
    | .ok i => match laneOf i with
      | none => s
      | some (op, w) =>
        let env (lane : Nat) : LaneEnv := ⟨w, d.entry.tmode, lane, d.key0, d.key1⟩
        let rows : List Row := mates.map (fun e =>
          (e.2.lane, match e.2.deferred with | some c => c.srcs | none => []))
        let (s, outs) := if op == 0x60 then settleShfl d w.sub.toNat rows s else (s, groupValues op env rows)
        let ps := s.pendings.map (fun (e : Nat × Pending) =>
          if mates.any (·.1 == e.1) then
            match (FMap.find outs e.2.lane) with
            | some o => (e.1, { e.2 with value := some o.vals, flags := d.entry.laneFlags o.flags, cc := ccOf w o.cc })
            | none => e
          else if e.1 == d.entry.gpend && d.entry.gpend != 0 then
            (e.1, { e.2 with value := some (halves (teamValue op (env 0) rows)), flags := flagsOf outs })
          else e)
        { s with pendings := ps }
  else s

/-- A port element is given to the pop that claimed it (R112): an inactive lane's is discarded, poisoned or not (DESIGN
CHOICE, log 90); a store keeps it as its data; a result is computed once its group is complete. -/
def assignElement (s : State) (id : Nat) (v : Word32) (psn : Bool) : State :=
  match s.pendings.find id with
  | none => s
  | some p =>
    if p.discard then { s with pendings := s.pendings.del id }
    else
      let s := if psn then notePoison s p 0x02 else s
      match s.pendings.find id with
      | none => s
      | some p =>
        if p.store.isSome then { s with pendings := s.pendings.put id { p with value := some [v] } }
        else match p.deferred with
          | none => s
          | some d =>
            let d := { d with got := true, srcs := d.srcs.set d.port v.toNat }
            settleGroup { s with pendings := s.pendings.put id { p with deferred := some d } } p d

/-- Elements of p2 go to the pops that wait for them, oldest first. -/
def feedP2 (s : State) (cl : Nat) : State :=
  let c := s.cluster cl
  let n := min c.p2.length c.p2Claims.length
  let pairs := (c.p2Claims.take n).zip (c.p2.take n)
  pairs.foldl (fun s e => assignElement s e.1 e.2.1 e.2.2)
    (s.setCluster cl { c with p2 := c.p2.drop n, p2Claims := c.p2Claims.drop n })

/-- Elements of a pipe go to the pops that wait for them. -/
def feedPipe (s : State) (u key : Nat) : State :=
  match s.unit u with
  | none => s
  | some r =>
    let xs := r.pipes.look [] key
    let cs := r.pipeClaims.look [] key
    let n := min xs.length cs.length
    ((cs.take n).zip (xs.take n)).foldl (fun s e => assignElement s e.1 e.2 false)
      (s.setUnit u { r with pipes := r.pipes.put key (xs.drop n), pipeClaims := r.pipeClaims.put key (cs.drop n) })

/-- Push one row per swept warp (R111). -/
def pushPort (s : State) (x : Pass) (p : Nat) (outs : FMap LaneOut) : State :=
  let rows := x.swept.map (portWords outs)
  let k := clusterOf x.core
  let c := s.cluster k
  match p with
  | 0 => s.setCluster k { c with p0 := c.p0 ++ rows.map rowBytes }
  | 1 => s.setCluster k { c with p1 := c.p1 ++ rows.map rowBytes }
  | 3 => s.setCluster k { c with p3 := c.p3 ++ rows.map rowBytes }
  | _ =>
    let key := pipeOf x.t p 1
    feedPipe (s.onUnit x.t.unit (fun r => { r with pipes := r.pipes.put key (r.pipes.look [] key ++ rows.flatten) }))
      x.t.unit key

/-- A pop: one element is claimed for every lane of every swept warp, in team lane order (R112). `mark` says which
active lanes claim for themselves; the others' elements are discarded. -/
def passPop (s : State) (x : Pass) (p : Nat) (team : Team) (takes : Nat → Bool) (store : Row → Option PortStore) :
    State :=
  let lanes := x.swept.flatMap (fun w => (List.range 32).map (fun j => 32 * w + j))
  let rows := x.rows
  let ids := numbered (s.nextId + 1) (lanes.map (fun l => (l, ())))
  let ps := ids.foldl (fun (m : FMap Pending) i =>
    let base := x.pending s.nextId i.2.1
    m.put i.1 (match FMap.find rows i.2.1 with
      | some r =>
        if takes i.2.1 then
          { base with
            store := store (i.2.1, r),
            deferred := some ⟨x.e, (x.calcSources i.2.1 r).1, (x.calcSources i.2.1 r).2, false, x.t.keylo.setWidth 32, x.t.keyhi.setWidth 32⟩ }
        else { base with discard := true }
      | none => { base with discard := true })) s.pendings
  let ps := x.teamPending s.nextId
    (if rows.isEmpty then some (teamValue x.op (x.env 0) []) else none) 0 ps
  let s := { s with pendings := ps, nextId := s.nextId + 1 + ids.length }
  let claims := ids.map (·.1)
  let mine := ids.filter (fun i => (FMap.find rows i.2.1).isSome && takes i.2.1)
  let s := finishPass s x (x.markEmpty team (mine.map (fun i => (i.1, i.2.1)))) 0
  if p == 2 then
    let k := clusterOf x.core
    let c := s.cluster k
    feedP2 (s.setCluster k { c with p2Claims := c.p2Claims ++ claims }) k
  else
    let key := pipeOf x.t p 0
    feedPipe (s.onUnit x.t.unit (fun r =>
      { r with pipeClaims := r.pipeClaims.put key (r.pipeClaims.look [] key ++ claims) })) x.t.unit key

/-- A lane instruction that computes from its sources alone (R296 to R321). -/
def lanewise (op : Nat) (w : LaneWord) (s : State) : Result :=
  withHead op w s (fun x =>
    .next (match x.portSrc with
      | some p => passPop s x p x.t (fun _ => true) (fun _ => none)
      | none =>
        if x.long then passLong s x
        else
          let r := passShort x
          let s := match x.portDst with
            | some p => pushPort s x p r.2
            | none => s
          finishPass s x r.1 (flagsOf r.2)))

end Sys2Proof.Machine
end

