-- ==== Sys2Proof/Machine/LaneMem.lean ====
section
/-! DEFINITION. Lane memory instructions: scratchpad accesses (R322 to R325), gang accesses (R43, R44, R326, R327),
ports in memory instructions (R328), and what arrives for a team later (R214, R236, R326). -/

namespace Sys2Proof.Machine
open Sys2Proof

/-! ### Addresses and orders -/

/-- Bytes of an access (R322, R324). -/
def accessBytes (op sub : Nat) : Nat := if op == 0x82 || op == 0x85 then 4 else memBytes sub

/-- Effective address (R241, R324). -/
def laneAddress (w : LaneWord) (a : Nat) : Nat := (BitVec.ofNat 32 a + auxDisp w.aux).toNat

/-- Orders that hold later accesses back, and those that wait for earlier ones (R150). -/
def ordAcq (o : Nat) : Bool := o == 1 || o == 3 || o == 4
def ordRel (o : Nat) : Bool := 2 ≤ o

/-- The member a gang address names: its unit number and record (R43). -/
def gangMember (s : State) (u : Nat) (r : UnitRec) (m : Nat) : Option (Nat × UnitRec) :=
  if r.gang == 0 then (if m == 0 then some (u, r) else none)
  else if m < r.gangSize then s.units.find? (fun e => e.2.gang == r.gang && e.2.member == m)
  else none

/-- The unit and offset that an address of a lane access names, when it passes the checks (R41, R44, R79). -/
def accessTarget (s : State) (u : Nat) (r : UnitRec) (gang : Bool) (ea n : Nat) : Option (Nat × Nat) :=
  if gang then
    match gangMember s u r (ea / 2 ^ 24) with
    | some (v, q) => if q.offsetOk (ea % 2 ^ 24) n then some (v, ea % 2 ^ 24) else none
    | none => none
  else if r.offsetOk ea n then some (u, ea) else none

/-- A lane is switched off (R79, R324). -/
def Team.switchOff (t : Team) (lane : Nat) : Team :=
  { t with k := t.k.put 0 (t.mask 0 &&& ~~~((1#1024) <<< lane)), fmask := t.fmask ||| ((1#1024) <<< lane) }

/-! ### Waits of memory instructions -/

/-- Whether an access of the lane that is still out touches bytes of a unit's allocation (R153). -/
def laneBusy (s : State) (core slot lane unit off n : Nat) : Bool :=
  s.gangAcc.any (fun e => e.2.core == core && e.2.slot == slot && e.2.lane == lane && e.2.target == unit &&
    overlaps e.2.addr (accessBytes e.2.op e.2.sub) off n) ||
  s.pendings.any (fun e => e.2.core == core && e.2.slot == slot && e.2.lane == lane && !e.2.discard &&
    (match e.2.store with
     | some p => p.gang || overlaps p.addr 4 off n
     | none => false))

/-- Whether a gang access or port store of an active lane is out; with `acq`, one that holds later accesses back. -/
def lanesOut (s : State) (x : Pass) (acq : Bool) : Bool :=
  s.gangAcc.any (fun e => e.2.core == x.core && e.2.slot == x.slot && (e.2.acq || !acq) && x.active e.2.lane) ||
  s.pendings.any (fun e => e.2.core == x.core && e.2.slot == x.slot && !e.2.discard && x.active e.2.lane &&
    (match e.2.store with | some p => p.acq || !acq | none => false))

/-- Operand-log entries that a warp's gang accesses hold (R327). -/
def gangEntries (s : State) (core slot warp : Nat) : Nat :=
  (((s.gangAcc.filter (fun e => e.2.core == core && e.2.slot == slot && e.2.lane / 32 == warp)).map (·.2.instr)) ++
    ((s.pendings.filter (fun e => e.2.core == core && e.2.slot == slot && e.2.lane / 32 == warp && 0x83 ≤ e.2.op &&
      !e.2.discard)).map (·.2.instr))).dedup.length

/-- Whether the memory instruction must wait: for an acquire before it (R150), for the accesses that it orders
before it (R150), for an access to the same byte (R153), for a log entry (R327). -/
def Pass.memWait (x : Pass) (s : State) : Option Wait :=
  let ord := auxOrder x.w.aux
  let n := accessBytes x.op x.sub
  if fencedOut s x.core x.slot || lanesOut s x true || (ordRel ord && lanesOut s x false) then some .laneStream
  else if x.rows.any (fun r =>
      match accessTarget s x.t.unit x.u (0x83 ≤ x.op) (laneAddress x.w (r.2.headD 0)) n with
      | some (v, off) => laneBusy s x.core x.slot r.1 v off n
      | none => false) then some .laneStream
  else if 0x83 ≤ x.op && x.swept.any (fun w =>
      (x.activeLanes.any (fun l => l / 32 == w)) && 4 ≤ gangEntries s x.core x.slot w) then some .gangLog
  else none

/-! ### Scratchpad accesses (R324, R325) -/

/-- What the lanes of a scratchpad access have done so far. -/
structure Access where
  s : State
  t : Team
  outs : FMap (List Word32)
  keep : List Nat              -- lanes that read poison
  psn : Option Nat             -- the word the first of them read
  deriving DecidableEq, Repr

/-- A loaded value as words, extended by sub [3] (R322). -/
def loadWords (sub : Nat) (bs : List Byte) : List Word32 :=
  let n := numOfBytes bs
  match bs.length with
  | 1 => [if 8 ≤ sub then (BitVec.ofNat 8 n).signExtend 32 else BitVec.ofNat 32 n]
  | 2 => [if 8 ≤ sub then (BitVec.ofNat 16 n).signExtend 32 else BitVec.ofNat 32 n]
  | k => (List.range (k / 4)).map (fun j => BitVec.ofNat 32 (n / 2 ^ (32 * j)))

/-- One lane's access. -/
def Pass.access (x : Pass) (a : Access) (r : Row) : Access :=
  let ea := laneAddress x.w (r.2.headD 0)
  let n := accessBytes x.op x.sub
  if !x.u.offsetOk ea n || (x.u.armedAt ea n).isSome then { a with t := a.t.switchOff r.1 }
  else
    let off := x.u.spadOff ea
    let b := (r.2[1]?).getD 0
    if x.op == 0x81 then
      let s := if n < 8 then eccRead a.s x.u.core off n else a.s
      { a with s := spadWrite s x.u.core off (bytesOfNum n b) false }
    else
      let bs := spadRead a.s x.u.core off n
      let psn := x.u.poisonAt a.s ea n
      let s := eccRead a.s x.u.core off n
      let s := if x.op == 0x82 && x.sub != 0xC then
          spadWrite s x.u.core off (bytesOfNum 4
            (atomicOp 32 x.sub (numOfBytes bs) (b % 2 ^ 32) (((r.2[2]?).getD 0) % 2 ^ 32))) false
        else s
      match psn with
      | some w => { a with s, keep := a.keep ++ [r.1], psn := some (a.psn.getD w) }
      | none => { a with s, outs := a.outs ++ [(r.1, loadWords (if x.op == 0x82 then 2 else x.sub) bs)] }

/-- POISON of a scratchpad read, taken before the next lane instruction (R325). -/
def poisonInfo (addr code : Nat) : Word64 := BitVec.ofNat 64 (addr % 2 ^ 32 * 2 ^ 32 + code)

/-- The passes of LDS, STS and ATOMS. -/
def passLocal (s : State) (x : Pass) : State :=
  let a := x.rows.foldl x.access ⟨s, x.t, [], [], none⟩
  let t := a.t.deliver x.op x.w (a.outs.map (fun o => (o.1, o.2.map (fun v => ⟨v, 0⟩)))) a.keep
  let t := match a.psn with
    | some w => { t with th := t.th.post ⟨0x06, 0, poisonInfo w 0x01, false, none⟩ }
    | none => t
  let s := match x.portDst with
    | some p => pushPort a.s x p (a.outs.map (fun o => (o.1, ⟨o.2, 0, 0⟩)))
    | none => a.s
  finishPass s x t 0

/-! ### Gang accesses (R326) -/

/-- The lanes of a gang instruction: those whose address passes, with unit and offset. -/
def gangRows (s : State) (x : Pass) : List (Nat × List Nat × Nat × Nat) :=
  x.rows.filterMap (fun r =>
    (accessTarget s x.t.unit x.u true (laneAddress x.w (r.2.headD 0)) (accessBytes x.op x.sub)).map
      (fun v => (r.1, r.2, v.1, v.2)))

/-- Rows whose address fails are switched off. -/
def offRows (s : State) (x : Pass) (gang : Bool) : List Nat :=
  (x.rows.filter (fun r =>
    (accessTarget s x.t.unit x.u gang (laneAddress x.w (r.2.headD 0)) (accessBytes x.op x.sub)).isNone)).map (·.1)

/-- The passes of LDG, STG and ATOMG. -/
def passGang (s : State) (x : Pass) : State :=
  let rows := gangRows s x
  let n := rows.length
  let ids := rows.zipIdx.map (fun r => (s.nextId + 1 + r.2, r.1))
  let stores := x.op == 0x84
  let acc := ids.foldl (fun (m : FMap GangAccess) i =>
    m.put i.1 { core := x.core, slot := x.slot, instr := s.nextId, lane := i.2.1, op := x.op, sub := x.sub,
                gaddr := laneAddress x.w (i.2.2.1.headD 0), addr := i.2.2.2.2, target := i.2.2.2.1,
                data := (i.2.2.1[1]?).getD 0, compare := BitVec.ofNat 32 ((i.2.2.1[2]?).getD 0),
                pend := if stores then 0 else i.1, acq := if stores then auxOrder x.w.aux == 4 else ordAcq (auxOrder x.w.aux),
                fence := false, seq := x.e.seq, launch := x.u.launch }) s.gangAcc
  let ps := if stores then s.pendings
    else ids.foldl (fun (m : FMap Pending) i => m.put i.1 (x.pending s.nextId i.2.1)) s.pendings
  let t := (offRows s x true).foldl Team.switchOff x.t
  let t := if stores then t else x.markEmpty t (ids.map (fun i => (i.1, i.2.1)))
  finishPass { s with gangAcc := acc, pendings := ps, nextId := s.nextId + 1 + n } x t 0

/-- A lane memory instruction (R322 to R328). -/
def laneMemory (op : Nat) (w : LaneWord) (s : State) : Result :=
  withHead op w s (fun x =>
    match x.memWait s with
    | some r => .next (laneBlock s x r)
    | none => .next (match x.portSrc with
      | some p =>
        let gang := 0x83 ≤ op
        let off := offRows s x gang
        passPop s x p (off.foldl Team.switchOff x.t) (fun l => !off.contains l)
          (fun r => some ⟨gang, laneAddress w (r.2.headD 0), auxOrder w.aux == 4, x.e.seq⟩)
      | none => if op < 0x83 then passLocal s x else passGang s x))

def execLds (w : LaneWord) (s : State) : Result := laneMemory 0x80 w s
def execSts (w : LaneWord) (s : State) : Result := laneMemory 0x81 w s
def execAtoms (w : LaneWord) (s : State) : Result := laneMemory 0x82 w s
def execLdg (w : LaneWord) (s : State) : Result := laneMemory 0x83 w s
def execStg (w : LaneWord) (s : State) : Result := laneMemory 0x84 w s
def execAtomg (w : LaneWord) (s : State) : Result := laneMemory 0x85 w s

/-! ### Results that arrive -/

/-- Fill the v cells that wait for a result, its words upward (R212). -/
def fillCells (id : Nat) : List Word32 → FMap Cell → FMap Cell
  | _, [] => []
  | ws, (k, c) :: m =>
    if c.pend == id then (k, ⟨ws.headD 0, 0⟩) :: fillCells id (ws.drop 1) m else (k, c) :: fillCells id ws m

/-- Fill the queue entry and its copies at the depth they have reached (R214). -/
def fillQueue (id : Nat) (v : Word32) (q : FMap (List Cell)) : FMap (List Cell) :=
  q.map (fun e => (e.1, e.2.map (fun c => if c.pend == id then ⟨v, 0⟩ else c)))

/-- Fill a g register (R211, R317). -/
def Thread.fillG (th : Thread) (id : Nat) (ws : List Word32) : Thread :=
  match th.gPend.find? (fun e => e.2 == id) with
  | some (r, _) =>
    { th with g := th.g.put r (((ws[1]?).getD 0) ++ (ws.headD 0)), gPend := th.gPend.put r 0 }
  | none => th

/-- What a result fills in its team. -/
def Team.fill (t : Team) (id : Nat) (p : Pending) (ws : List Word32) : Team :=
  let t := { t with v := fillCells id ws t.v, q := fillQueue id (ws.headD 0) t.q, th := t.th.fillG id ws }
  let t := match p.cc with
    | some (n, v) => t.setCond p.lane n v
    | none => t
  let t := match p.deferred with
    | some d => if p.op == 0x66 then
        let m := d.entry.sub % 8
        let one : BitVec 1024 := (1#1024) <<< p.lane
        t.setMask m (if ws.headD 0 != 0 then t.mask m ||| one else t.mask m &&& ~~~one)
      else t
    | none => t
  if p.quiet then { t with fstat := t.fstat ||| p.flags } else t.raise p.op true p.elpc p.flags

/-! ### A gang access at its target -/

/-- Give a pending result its words. -/
def setResult (s : State) (id : Nat) (ws : List Word32) : State :=
  match s.pendings.find id with
  | some p => { s with pendings := s.pendings.put id { p with value := some ws } }
  | none => s

/-- Whether an earlier access of the instruction or the lane must come first (R153, R154). -/
def gangBefore (s : State) (id : Nat) (g : GangAccess) : Bool :=
  s.gangAcc.any (fun e => e.1 < id && e.2.core == g.core && e.2.slot == g.slot && e.2.target == g.target &&
    (e.2.instr == g.instr || e.2.lane == g.lane) &&
    overlaps e.2.addr (accessBytes e.2.op e.2.sub) g.addr (accessBytes g.op g.sub))

/-- A result arrives in its team (R214); an instruction whose flags trap does so once (R294), and one that read poison
traps with it (R326). -/
def fillTeam (s : State) (core slot id : Nat) (p : Pending) (ws : List Word32) : State :=
  match s.team core slot with
  | none => s
  | some t =>
    let s := if (p.flags &&& t.ften) != 0 && !p.quiet then { s with pendings := s.pendings.map (fun e =>
          if e.2.instr == p.instr && e.2.core == core && e.2.slot == slot then (e.1, { e.2 with quiet := true }) else e) }
      else s
    let s := s.setTeam core slot (t.fill id p ws)
    match p.psn with
    | some info => notePoison s p info
    | none => s

/-- A refusal at the target returns: the lane is switched off and its destination filled with 0 (R326). -/
def gangRefused (s : State) (g : GangAccess) : State :=
  let s := s.onTeam g.core g.slot (fun t => t.switchOff g.lane)
  match s.pendings.find g.pend with
  | some p =>
    let gone := { s with pendings := s.pendings.del g.pend }
    if p.discard then gone else fillTeam gone g.core g.slot g.pend p (List.replicate (destRegs g.op g.sub) 0)
  | none => s

/-- The access is performed at the target's bank, or refused there as armed (R326). -/
def performGang (s : State) (g : GangAccess) (r : UnitRec) : State :=
  let n := accessBytes g.op g.sub
  let zeros : List Word32 := List.replicate (destRegs g.op g.sub) 0
  if (r.armedAt g.addr n).isSome then
    gangRefused s g
  else
    let off := r.spadOff g.addr
    if g.op == 0x84 then
      let s := if n < 8 then eccRead s r.core off n else s
      spadWrite s r.core off (bytesOfNum n g.data) false
    else
      let bs := spadRead s r.core off n
      let psn := (r.poisonAt s g.addr n).isSome
      let s := eccRead s r.core off n
      let s := if g.op == 0x85 && g.sub != 0xC then
          spadWrite s r.core off (bytesOfNum 4
            (atomicOp 32 g.sub (numOfBytes bs) (g.data % 2 ^ 32) g.compare.toNat)) false
        else s
      if psn then
        match s.pendings.find g.pend with
        | some p =>
          let p := { p with value := some zeros, psn := some (poisonInfo g.gaddr 0x01) }
          { s with pendings := s.pendings.put g.pend p }
        | none => s
      else setResult s g.pend (loadWords (if g.op == 0x85 then 2 else g.sub) bs)

/-- GANG_ACCESS_AT_TARGET: an access in its turn; those of a saved team stay in its log (R326, R327). -/
def execGangAccessAtTarget (id : Nat) (s : State) : Result :=
  match s.gangAcc.find id with
  | none => .next s
  | some g =>
    if 0x10000 ≤ g.core || gangBefore s id g || ((s.unit g.target).map (·.away)).getD false then .next s
    else
      let s := { s with gangAcc := s.gangAcc.del id }
      match s.unit g.target with
      | none => .next (setResult s g.pend (List.replicate (destRegs g.op g.sub) 0))
      | some r => .next (if r.placed then performGang s g r
                         else setResult s g.pend (List.replicate (destRegs g.op g.sub) 0))

/-! ### Stores of elements, and long results -/

/-- Whether an earlier store of the instruction or the lane must come first (R153, R154). -/
def storeBefore (s : State) (id : Nat) (p : Pending) (q : PortStore) : Bool :=
  s.pendings.any (fun e => e.1 < id && e.2.core == p.core && e.2.slot == p.slot && !e.2.discard &&
    (e.2.instr == p.instr || e.2.lane == p.lane) &&
    (match e.2.store with | some o => o.gang == q.gang && overlaps o.addr 4 q.addr 4 | none => false))

/-- The store of a lane whose element has arrived (R328). -/
def performStore (s : State) (id : Nat) (p : Pending) (q : PortStore) (v : Word32) : State :=
  match s.team p.core p.slot with
  | none => s
  | some t => match s.unit t.unit with
    | none => s
    | some r =>
      if q.gang then
        match accessTarget s t.unit r true q.addr 4 with
        | none => s.setTeam p.core p.slot (t.switchOff p.lane)
        | some (u, off) =>
          let g : GangAccess := {
              core := p.core, slot := p.slot, instr := p.instr, lane := p.lane, op := 0x84, sub := 2,
              gaddr := q.addr, addr := off, target := u, data := v.toNat, compare := 0, pend := 0, acq := q.acq,
              fence := false, seq := q.seq, launch := r.launch }
          { s with gangAcc := s.gangAcc.put id g }
      else if (r.armedAt q.addr 4).isSome then s.setTeam p.core p.slot (t.switchOff p.lane)
      else spadWrite (eccRead s r.core (r.spadOff q.addr) 4) r.core (r.spadOff q.addr) (bytesOfNum 4 v.toNat) false

/-- LONG_RESULT_ARRIVAL: a result whose value is known arrives (R129, R214, R294); a store is performed (R328). That of
a saved team waits and fills its entry at the resume (R229). -/
def execLongResultArrival (core slot id : Nat) (s : State) : Result :=
  match s.pendings.find id with
  | none => .next s
  | some p =>
    match p.value with
    | none => .next s
    | some ws =>
      if p.core != core || p.slot != slot then .next s
      else
        let gone := { s with pendings := s.pendings.del id }
        if p.discard then .next gone
        else if 0x10000 ≤ core then .next s
        else match p.store with
          | some q =>
            if storeBefore s id p q then .next s
            else .next (performStore gone id p q (ws.headD 0))
          | none => .next (fillTeam gone core slot id p ws)

end Sys2Proof.Machine
end

