-- ==== Sys2Proof/Machine/ScalarMem.lean ====
section
/-! DEFINITION. Scalar scratchpad accesses GLD, GST and GATM (R278, R279), with the offset checks that TID BINDS and
the chain block share (R79). -/

namespace Sys2Proof.Machine
open Sys2Proof

/-- An offset that passes alignment, bounds and the armed check goes to `k`; otherwise the trap of R79 or R67. An
offset that is both misaligned and out of bounds is misaligned. -/
def withOffset (s : State) (u : UnitRec) (off n : Nat) (k : Result) : Result :=
  if misaligned off n then illegal s off 0x22
  else if !(off < 2 ^ 21 && off + n ≤ u.need.spad) then illegal s off 0x21
  else match u.armedAt off n with
    | some (w, j) => trapNow s 0x0A (windowInfo w j 0x07)
    | none => k

/-- TINFO of a POISON trap (R82). -/
def scratchPoison (w : Nat) : Word64 := BitVec.ofNat 64 (w % 2 ^ 32 * 2 ^ 32 + 0x01)

/-- A read of checked bytes: POISON where a word of them is poisoned (R82). -/
def withClean (s : State) (u : UnitRec) (off n : Nat) (k : List Byte → State → Result) : Result :=
  match u.poisonAt s off n with
  | some w => trapNow s 0x06 (scratchPoison w)
  | none => k (spadRead s u.core (u.spadOff off) n) (eccRead s u.core (u.spadOff off) n)

/-- Offset ga plus the sign-extended displacement (R278). -/
def scalarOffset (x : Word64) (i : BitVec 13) : Nat := (x + i.signExtend 64).toNat

/-- A loaded value, extended by its size code (R278). -/
def loadExtend (sz : Nat) (bs : List Byte) : Word64 :=
  let n := numOfBytes bs
  match sz with
  | 0 => (BitVec.ofNat 8 n).signExtend 64
  | 2 => (BitVec.ofNat 16 n).signExtend 64
  | 4 => (BitVec.ofNat 32 n).signExtend 64
  | _ => BitVec.ofNat 64 n

/-- A scalar access of the acting team goes to `k` once the accesses that a fence orders before it are performed
(R151, R156). -/
def withScalarAccess (s : State) (k : UnitRec → Result) : Result :=
  withTeam s (fun c sl _ u => if fencedOut s c sl then .next (block s .laneStream) else k u)

/-- GLD (R278). -/
def execGld (d a : BitVec 5) (sz : BitVec 3) (i : BitVec 13) (s : State) : Result :=
  if sz = 7 then illegalWord s (.gld d a sz i) 0x17
  else withScalarAccess s (fun u => withRegs s [a, d] (fun th =>
    let off := scalarOffset (th.rd a) i
    let n := 2 ^ (sz.toNat / 2)
    withOffset s u off n (withClean s u off n (fun bs s =>
      .next (retireWith s d (loadExtend sz.toNat bs))))))

/-- GST: the source is the register that d names (R278). -/
def execGst (d a : BitVec 5) (sz : BitVec 3) (i : BitVec 13) (s : State) : Result :=
  if sz = 1 || sz = 3 || sz = 5 || sz = 7 then illegalWord s (.gst d a sz i) 0x17
  else withScalarAccess s (fun u => withRegs s [a, d] (fun th =>
    let off := scalarOffset (th.rd a) i
    let n := 2 ^ (sz.toNat / 2)
    withOffset s u off n
      (let s := if n < 8 then eccRead s u.core (u.spadOff off) n else s
       .next (retire (spadWrite s u.core (u.spadOff off) (bytesOfNum n (th.rd d).toNat) false)))))

/-- Orders that GATM accepts for an op (R149, R279). -/
def gatmOrderOk (o r : Nat) : Bool := if o == 0xC then r ≤ 1 else if o == 0xD then r == 0 || r == 2 else true

/-- GATM (R256, R279). -/
def execGatm (d a b c : BitVec 5) (r : BitVec 2) (o : BitVec 4) (s : State) : Result :=
  if o = 0xB || o = 0xE || o = 0xF then illegalWord s (.gatm d a b c r o) 0x10
  else if !gatmOrderOk o.toNat r.toNat then illegalWord s (.gatm d a b c r o) 0x17
  else withScalarAccess s (fun u => withRegs s [a, b, c, d] (fun th =>
    let off := (th.rd a).toNat
    withOffset s u off 8 (withClean s u off 8 (fun bs s =>
      let s := if o = 0xC then s
        else spadWrite s u.core (u.spadOff off)
          (bytesOfNum 8 (atomicOp 64 o.toNat (numOfBytes bs) (th.rd b).toNat (th.rd c).toNat)) false
      .next (retireWith s d (bytesWord bs))))))

end Sys2Proof.Machine
end

