-- ==== Sys2Proof/Machine/Csr.lean ====
section
/-! DEFINITION. CSR: the control registers of teams (R224 to R227, R280, R281, R398) and of matrix programs (R347),
reads of the store-fault queue (R400, R401), and the resume by TCAUSE (R394, R395). -/

namespace Sys2Proof.Machine
open Sys2Proof

/-! ### Values -/

/-- The operand log as OPLOG reports it (R398). -/
def opLogWord (s : State) (core slot : Nat) (t : Team) : Word64 :=
  let gang := ((List.range t.warps).map (gangEntries s core slot)).sum
  let parked := (t.opLog.zipIdx.filter (fun e =>
    s.reqs.any (fun r => r.2.cmd == e.1 && r.2.st == .parked))).map (fun e => 2 ^ e.2)
  BitVec.ofNat 64 (gang * 2 ^ 24 + t.opLog.length * 2 ^ 16 + parked.sum)

/-- The word that the next read of SFQ returns (R401). -/
def Team.sfqWord (t : Team) : Word64 :=
  match t.sfq with
  | r :: _ => (r.words[t.sfqPos]?).getD 0
  | [] => 0

/-- The queue after a read: word 3 removes the record (R401), and a record that waits for room follows it
(R400). -/
def Team.sfqPop (t : Team) : Team :=
  if t.sfq.isEmpty then t
  else if t.sfqPos < 3 then { t with sfqPos := t.sfqPos + 1 }
  else { t with sfqPos := 0, sfq := t.sfq.drop 1 ++ (t.sfqWait.take 1).map (·.2), sfqWait := t.sfqWait.drop 1,
                opLog := match t.sfqWait with | e :: _ => t.opLog.filter (· != e.1) | [] => t.opLog }

/-- Value of a team control register (R224, R226). -/
def teamCsr (s : State) (core slot : Nat) (t : Team) (u : UnitRec) (n : Nat) : Word64 :=
  match n with
  | 0x00 => teamTid u core slot t
  | 0x01 => t.tmode.setWidth 64
  | 0x02 => t.fstat.setWidth 64
  | 0x03 => t.ften.setWidth 64
  | 0x04 => t.th.tvec
  | 0x05 => t.th.tcause
  | 0x06 => t.th.tepc
  | 0x07 => t.telpc
  | 0x08 => t.th.tinfo
  | 0x09 => t.sfqWord
  | 0x0A => opLogWord s core slot t
  | 0x0B => t.keylo
  | 0x0C => t.keyhi
  | 0x0D => boolWord t.th.preq
  | 0x0E => t.th.tcmp
  | 0x0F => t.pipecfg.setWidth 64
  | 0x10 => t.sysmbx
  | n => (maskWord t.fmask (n - 0x40)).setWidth 64

/-- TCAUSE after a write: H is read-only, RET reads 0, and reserved bits stay 0 (R394). -/
def causeAfter (old new : Word64) : Word64 := (old &&& BitVec.ofNat 64 (2 ^ 63)) ||| (new &&& 0xFFFF)

/-- A team control register written (R7, R114, R225, R227). -/
def Team.setCsr (t : Team) (n : Nat) (v : Word64) : Team :=
  match n with
  | 0x01 => { t with tmode := v.setWidth 5 }
  | 0x02 => { t with fstat := v.setWidth 5 }
  | 0x03 => { t with ften := v.setWidth 5 }
  | 0x04 => { t with th := { t.th with tvec := v } }
  | 0x05 => { t with th := { t.th with tcause := causeAfter t.th.tcause v } }
  | 0x06 => { t with th := { t.th with tepc := v } }
  | 0x07 => { t with telpc := v }
  | 0x08 => { t with th := { t.th with tinfo := v } }
  | 0x0B => { t with keylo := v }
  | 0x0C => { t with keyhi := v }
  | 0x0E => { t with th := { t.th with tcmp := v } }
  | 0x0F => { t with pipecfg := v.setWidth 32 &&& 0xDFDFDFDF#32 }
  | 0x10 => { t with sysmbx := v }
  | _ => t

/-! ### Waits and refusals -/

/-- Every earlier lane instruction has completed and its results have arrived (R129). -/
def resultsDone (s : State) (core slot : Nat) (t : Team) : Bool :=
  accessesDone s core slot t &&
    !s.pendings.any (fun e => e.2.core == core && e.2.slot == slot && !e.2.discard)

/-- Whether a CSR instruction may act (R129, R281); `wr` for a write, set or clear. -/
def csrReady (s : State) (core slot : Nat) (t : Team) (n : Nat) (wr : Bool) : Bool :=
  if n == 0x02 then resultsDone s core slot t
  else if wr && (n == 0x0B || n == 0x0C) then !t.enqueued.any (fun e => e.op == 0x70)
  else if 0x40 ≤ n then passesDone t
  else true

/-- The lowest pipe whose field a write changes while it holds elements (R115); of several the rule does not say which is
named (DESIGN CHOICE, log 89). -/
def pipeHeld (t : Team) (u : UnitRec) (new : Word32) : Option Nat :=
  [4, 5, 6, 7].find? (fun p =>
    bits t.pipecfg.toNat (8 * (p - 4)) 8 != bits new.toNat (8 * (p - 4)) 8 &&
    u.pipes.any (fun e => e.1 / 1024 == p && (e.1 / 32 % 32 == t.index || e.1 % 32 == t.index) && !e.2.isEmpty))

/-! ### Matrix programs -/

/-- TID of a matrix program (R347). -/
def progTid (p : Prog) (cl slot : Nat) : Word64 :=
  BitVec.ofNat 64 (2 ^ 48 + p.job * 2 ^ 42 + cl * 2 ^ 32 + slot)

/-- MXSTAT (R347). -/
def mxStat (s : State) (cl slot : Nat) : Word64 :=
  let c := s.cluster cl
  let held := (c.banks.filter (fun b => b.2.prog == slot && (b.2.st == .held || b.2.st == .zeroing))).map
    (fun b => 2 ^ b.1)
  let bound := match c.binding with
    | some b => if b.prog == slot then
        2 ^ 31 + (match s.unit b.unit with | some u => u.index % 2 ^ 22 | none => 0) * 2 ^ 8 else 0
    | none => 0
  BitVec.ofNat 64 (held.sum * 2 ^ 32 + bound + (c.ops.filter (fun o => o.prog == slot)).length)

/-- Value of a control register of a matrix program. -/
def progCsr (s : State) (cl slot : Nat) (p : Prog) (n : Nat) : Word64 :=
  match n with
  | 0x00 => progTid p cl slot
  | 0x04 => p.th.tvec
  | 0x05 => p.th.tcause
  | 0x06 => p.th.tepc
  | 0x08 => p.th.tinfo
  | 0x0D => boolWord p.th.preq
  | 0x0E => p.th.tcmp
  | _ => mxStat s cl slot

/-- A control register of a matrix program written. -/
def Thread.setCsr (t : Thread) (n : Nat) (v : Word64) : Thread :=
  match n with
  | 0x04 => { t with tvec := v }
  | 0x05 => { t with tcause := causeAfter t.tcause v }
  | 0x06 => { t with tepc := v }
  | 0x08 => { t with tinfo := v }
  | 0x0E => { t with tcmp := v }
  | _ => t

/-! ### The instructions -/

/-- Resume after a write of TCAUSE that leaves RET set (R395). -/
def leavesRet (n : Nat) (new : Word64) : Bool := n == 0x05 && new.getLsbD 62

/-- CSR: the old value goes to gd, the new one is `f old ga`; `wr` is false for a read. -/
def csrOp (i : Instr) (wr : Bool) (f : Word64 → Word64 → Word64) (d a : BitVec 5) (n : BitVec 14) (s : State) :
    Result :=
  match s.cur with
  | .prog _ _ => withProg s (fun cl slot p =>
      if !csrProgKnown n.toNat || (wr && csrProgReadOnly n.toNat) then illegalWord s i 0x10
      else withRegs s [a, d] (fun th =>
        let old := progCsr s cl slot p n.toNat
        let new := f old (th.rd a)
        if !wr then .next (retireWith s d old)
        else if leavesRet n.toNat new then
          resumeStream s (s.onThread s.cur (fun t => (t.setCsr 5 new).wr d old)) i
        else .next (retireWith (s.onThread s.cur (·.setCsr n.toNat new)) d old)))
  | _ => withTeam s (fun c sl t u =>
      if !csrTeamKnown n.toNat || (wr && csrTeamReadOnly n.toNat) then illegalWord s i 0x10
      else withRegs s [a, d] (fun th =>
        if !csrReady s c sl t n.toNat wr then .next (block s .laneStream)
        else
          let old := teamCsr s c sl t u n.toNat
          let new := f old (th.rd a)
          if !wr then .next (retireWith (if n = 9 then s.setTeam c sl t.sfqPop else s) d old)
          else if leavesRet n.toNat new then
            resumeStream s (s.setTeam c sl { t.setCsr 5 new with th := (t.setCsr 5 new).th.wr d old }) i
          else match (if n = 0xF then pipeHeld t u (new.setWidth 32 &&& 0xDFDFDFDF#32) else none) with
            | some p => trapNow s 0x07 (portInfo p 0x05)
            | none => .next (retireWith (s.setTeam c sl (t.setCsr n.toNat new)) d old)))

/-- CSR_RD (R280). -/
def execCsrRd (d : BitVec 5) (n : BitVec 14) (s : State) : Result :=
  csrOp (.csrRd d n) false (fun old _ => old) d 0 n s
/-- CSR_WR (R280). -/
def execCsrWr (d a : BitVec 5) (n : BitVec 14) (s : State) : Result :=
  csrOp (.csrWr d a n) true (fun _ v => v) d a n s
/-- CSR_SET (R280). -/
def execCsrSet (d a : BitVec 5) (n : BitVec 14) (s : State) : Result :=
  csrOp (.csrSet d a n) true (fun old v => old ||| v) d a n s
/-- CSR_CLR (R280). -/
def execCsrClr (d a : BitVec 5) (n : BitVec 14) (s : State) : Result :=
  csrOp (.csrClr d a n) true (fun old v => old &&& ~~~v) d a n s

/-- SFQ_READ: the next word of the oldest store-fault record (R401). -/
def execSfqRead (d : BitVec 5) (s : State) : Result :=
  withTeam s (fun c sl t _ => withRegs s [d] (fun _ =>
    .next (retireWith (s.setTeam c sl t.sfqPop) d t.sfqWord)))

/-- TRAP_RESUME: what a CSR write that leaves RET set does to the stream (R395). -/
def execTrapResume (s : State) : Result := resumeStream s s .trapResume

end Sys2Proof.Machine
end

