-- ==== Sys2Proof/Machine/Tensor.lean ====
section
/-! DEFINITION. Tensor descriptors (R101), their binding checks (R103, R104), where elements and scales lie (R102),
tiles (R59, R60) and unfold views (R105). -/

namespace Sys2Proof.Machine
open Sys2Proof

/-! ### Descriptors -/

/-- A descriptor as read: the snapshot it describes and the fields that must be 0. -/
def parseTensor (bs : List Byte) (unit : Nat) : Tensor × Nat :=
  let w (off n : Nat) : Nat := numOfBytes ((bs.drop off).take n)
  let c := w 0 8
  ({ version := bits c 48 16, tw := bits c 32 16, tr := bits c 16 16, scl := bits c 12 1 == 1,
     esc := bits c 11 1 == 1, rank := bits c 8 3 + 1, loc := bits c 6 2, fmt := bits c 0 6, base := w 0x08 8,
     dims := [w 0x10 4, w 0x14 4, w 0x18 4, w 0x1C 4], pitch := [w 0x20 4, w 0x24 4, w 0x28 4], scale := w 0x30 8,
     aux := BitVec.ofNat 64 (w 0x38 8), unit },
   bits c 13 3 + w 0x2C 4)

def Tensor.dim (t : Tensor) (i : Nat) : Nat := (t.dims[i]?).getD 1
/-- PITCH of dimension `i`, from 1. -/
def Tensor.pitchOf (t : Tensor) (i : Nat) : Nat := (t.pitch[i - 1]?).getD 0
def Tensor.bits (t : Tensor) : Nat := tensorBits t.fmt

/-- Formats that may carry block scales (R103, R120). -/
def scalable (fmt : Nat) : Bool := fmt == 0x00 || (0x08 ≤ fmt && fmt ≤ 0x0C)

/-- Parameters of an unfold view (R104). -/
def Tensor.param (t : Tensor) (lo n : Nat) : Nat := Sys2Proof.bits t.aux.toNat lo n
def Tensor.src (t : Tensor) : Nat := t.param 0 8

/-- The conditions on a view and its source (R104). -/
def viewOk (t : Tensor) (src : Option Tensor) : Bool :=
  match src with
  | none => false
  | some q => t.rank == 3 && !t.scl && !t.esc && 1 ≤ t.param 48 16 && 1 ≤ t.param 28 4 && 1 ≤ t.param 24 4 &&
      1 ≤ t.param 20 4 && 1 ≤ t.param 16 4 && 1 ≤ t.param 12 4 && 1 ≤ t.param 8 4 && q.loc == 0 && q.rank == 4 &&
      q.fmt == t.fmt && t.dim 0 == t.param 8 4 * t.param 12 4 * q.dim 0 && t.dim 2 ≤ q.dim 3

/-- Bytes of `n` elements in a row (R102). -/
def Tensor.rowBytes (t : Tensor) (n : Nat) : Nat := (n * t.bits + 7) / 8

/-- One past the last byte of the tensor, and of its scale array (R102). -/
def Tensor.endByte (t : Tensor) : Nat :=
  t.base + (t.dim 1 - 1) * t.pitchOf 1 + (t.dim 2 - 1) * t.pitchOf 2 + (t.dim 3 - 1) * t.pitchOf 3 + t.rowBytes (t.dim 0)
def Tensor.scaleEnd (t : Tensor) : Nat := t.scale + t.dim 3 * t.dim 2 * t.dim 1 * t.dim 0 / 32

/-- Conditions with code SHAPE (R103). R101 gives ranks 1 to 4 and R103 no code for another one: RANK fields 4 to 7 are
refused with SHAPE too (DESIGN CHOICE, log 103). -/
def shapeOk (t : Tensor) (reserved : Nat) : Bool :=
  reserved == 0 && t.rank ≤ 4 && 1 ≤ t.tr && 1 ≤ t.tw && t.dims.all (fun d => 1 ≤ d) &&
  [1, 2, 3].all (fun i => i < t.rank || (t.dim i == 1 && t.pitchOf i == 0)) &&
  (!(t.fmt == 0x0A || t.fmt == 0x0B) || t.dim 0 % 4 == 0) && (!(t.fmt == 0x0C) || t.dim 0 % 2 == 0) &&
  (t.loc != 2 || t.base == 0) && (t.scl || t.scale == 0) && (t.esc || t.loc == 2 || t.aux == 0)

/-- The lowest code of R109 for which a bind is refused, 0 when it succeeds (R103). R103 sets no condition on AUX [20:0] of an
escaped tensor: one that is no multiple of 4 is bound, and its words are read at that offset (DESIGN CHOICE, log 109). -/
def bindCode (t : Tensor) (reserved spad : Nat) (src : Option Tensor) : Nat :=
  let used := [1, 2, 3].filter (fun i => i < t.rank)
  if t.bits == 0 || (t.scl && !(scalable t.fmt && t.dim 0 % 32 == 0)) || (t.esc && !(t.fmt == 0x0C && t.loc == 0)) then 3
  else if t.loc == 3 then 4
  else if !shapeOk t reserved then 5
  else if (t.loc == 0 && !(t.endByte ≤ spad && (!t.scl || t.scaleEnd ≤ spad))) ||
      (t.loc == 1 && !(t.base < 2 ^ 56 && t.scale < 2 ^ 56)) then 6
  else if t.base % 16 != 0 || t.scale % 16 != 0 || used.any (fun i => t.pitchOf i % 16 != 0) ||
      (t.esc && t.base % 128 != 0) then 7
  else if t.loc == 2 && !viewOk t src then 8
  else 0

/-! ### Elements and tiles -/

/-- Bit address of element (i0, i1, i2, i3): every row is a little-endian bit string (R102). -/
def Tensor.bitOf (t : Tensor) (i0 i1 i2 i3 : Nat) : Nat :=
  8 * (t.base + i1 * t.pitchOf 1 + i2 * t.pitchOf 2 + i3 * t.pitchOf 3) + t.bits * i0

/-- Address of an element's scale byte (R102). -/
def Tensor.scaleOf (t : Tensor) (i0 i1 i2 i3 : Nat) : Nat :=
  t.scale + ((i3 * t.dim 2 + i2) * t.dim 1 + i1) * t.dim 0 / 32 + i0 / 32

/-- A coordinate of a coordinate word (R58). -/
def coordOf (w : Word64) (i : Nat) : Nat := bits w.toNat (16 * i) 16

/-- The origin of a tile lies within the bounds (R60). -/
def Tensor.originOk (t : Tensor) (w : Word64) : Bool :=
  coordOf w 0 * t.tw < t.dim 0 && coordOf w 1 * t.tr < t.dim 1 && coordOf w 2 < t.dim 2 && coordOf w 3 < t.dim 3

/-- Elements of a tile row that lie within dim0, and rows within dim1 (R60, R332). -/
def Tensor.tileCols (t : Tensor) (w : Word64) : Nat := min t.tw (t.dim 0 - coordOf w 0 * t.tw)
def Tensor.tileRows (t : Tensor) (w : Word64) : Nat := min t.tr (t.dim 1 - coordOf w 1 * t.tr)

/-- The source element of view element (k, m, n): none for padding (R105). -/
def viewElement (t q : Tensor) (k m n : Nat) : Option (Nat × Nat × Nat × Nat) :=
  let c := q.dim 0
  let kw := k / c % t.param 12 4
  let kh := k / c / t.param 12 4
  let ih : Int := (m / t.param 48 16 * t.param 16 4 : Nat) - (t.param 32 8 : Nat) + (kh * t.param 24 4 : Nat)
  let iw : Int := (m % t.param 48 16 * t.param 20 4 : Nat) - (t.param 40 8 : Nat) + (kw * t.param 28 4 : Nat)
  if 0 ≤ ih ∧ ih < q.dim 2 ∧ 0 ≤ iw ∧ iw < q.dim 1 then some (k % c, iw.toNat, ih.toNat, n) else none

/-! ### Identifier tables -/

/-- The identifier table of an agent: how many it has, and its entries (R99). -/
def tidTable (s : State) : Agent → Nat × FMap TidEntry
  | .team c t => match s.team c t with
    | some r => match s.unit r.unit with
      | some u => (u.need.tids, u.tids)
      | none => (0, [])
    | none => (0, [])
  | .prog c p => match s.prog c p with
    | some r => (r.tidCount, r.tids)
    | none => (0, [])
  | _ => (0, [])

/-- An identifier's entry. -/
def tidEntry (s : State) (a : Agent) (id : Nat) : TidEntry := (tidTable s a).2.look TidEntry.unbound id

/-- Update an identifier's entry in its agent's table. -/
def onTid (s : State) (a : Agent) (id : Nat) (f : TidEntry → TidEntry) : State :=
  match a with
  | .team c t => match s.team c t with
    | some r => s.onUnit r.unit (fun u => { u with tids := u.tids.put id (f (u.tids.look TidEntry.unbound id)) })
    | none => s
  | .prog c p => s.onProg c p (fun r => { r with tids := r.tids.put id (f (r.tids.look TidEntry.unbound id)) })
  | _ => s

/-- TINFO of a TENSOR-ID trap (R109). -/
def tensorInfo (id code : Nat) : Word64 := BitVec.ofNat 64 (id * 256 + code)

/-- A TENSOR-ID trap of the acting stream. -/
def tensorTrap (s : State) (id code : Nat) : Result := trapNow s 0x0B (tensorInfo id code)

/-- The source of a view in the same table. -/
def viewSource (s : State) (a : Agent) (t : Tensor) : Option Tensor := (tidEntry s a t.src).snap

/-- The snapshot an instruction names: it traps RANGE or UNBOUND, waits for a bind in progress, its view's
source included, and a view is checked against its source, before its user's other checks (R99, R100, R104; DESIGN CHOICE, log 110). -/
def withSnapshot (s : State) (id : Nat) (k : Tensor → Result) : Result :=
  let e := tidEntry s s.cur id
  if (tidTable s s.cur).1 ≤ id then tensorTrap s id 0x01
  else if e.binding then .next (block s (.holders id))
  else match e.snap with
    | none => tensorTrap s id 0x02
    | some t =>
      if t.loc == 2 && (tidEntry s s.cur t.src).binding then .next (block s (.holders t.src))
      else if t.loc == 2 && !viewOk t (viewSource s s.cur t) then tensorTrap s id 0x08
      else k t

/-- One operation more holds an identifier, and its view's source (R62). -/
def holdTid (s : State) (a : Agent) (id : Nat) : State := onTid s a id (fun e => { e with holders := e.holders + 1 })
def releaseTid (s : State) (a : Agent) (id : Nat) : State := onTid s a id (fun e => { e with holders := e.holders - 1 })

end Sys2Proof.Machine
end

