-- ==== Sys2Proof/Machine/Sync.lean ====
section
/-! DEFINITION. What the scalar stream waits on and configures: report points (R282), barriers (R92 to R98, R340),
tags (R88 to R91, R342), fetch windows (R53 to R56, R69 to R72) and tensor identifiers (R99, R100, R108, R344). -/

namespace Sys2Proof.Machine
open Sys2Proof

/-- A report point: a team with a record in its store-fault queue traps STORE-FAULT first (R282, R402). -/
def withReport (s : State) (t : Team) (k : Result) : Result :=
  if t.sfq.isEmpty then k else trapNow s 0x04 (BitVec.ofNat 64 t.sfq.length)

/-! ### Barriers -/

def UnitRec.bar (u : UnitRec) (n : Nat) : Barrier := u.bars.look Barrier.zero n

/-- Count one arrival; the one that completes the count flips the phase (R94). -/
def Barrier.arrive (b : Barrier) : Barrier :=
  if b.arrived + 1 == b.expected then { b with arrived := 0, phase := !b.phase }
  else { b with arrived := b.arrived + 1 }

/-- Whether a thread waits for the phase the barrier is in. -/
def waitsAt (th : Thread) (owner n : Nat) (phase : Bool) : Bool :=
  match th.wait with
  | .barrier v m p => v == owner && m % 512 == n && p == phase
  | _ => false

/-- Whether a thread's ARRWAIT is still on its way to another core's barrier. -/
def Thread.arriving (th : Thread) : Bool :=
  match th.at_ with
  | some (.gangArrival _) => true
  | _ => false

/-- A flip releases every waiter on the phase that has passed, once and for all (R66, R94); a team of a suspended unit
tests its condition again at the resume (R417). -/
def releaseWaiters (s : State) (owner n : Nat) (phase : Bool) : State :=
  let go (th : Thread) : Thread := if waitsAt th owner n phase && !th.arriving then th.next_ else th
  { s with
    teams := s.teams.map (fun e => (e.1, { e.2 with th := go e.2.th }))
    progs := s.progs.map (fun e => (e.1, { e.2 with th := go e.2.th })) }

/-- An arrival at barrier `n` of unit `u`; the one that flips the phase releases the waiters (R94). -/
def countArrival (s : State) (u n : Nat) : State :=
  match s.unit u with
  | none => s
  | some r =>
    let b := r.bar n
    let x := s.setUnit u { r with bars := r.bars.put n b.arrive }
    if b.arrive.phase == b.phase then x else releaseWaiters x u n b.phase

/-- Number and phase in a barrier word (R339). -/
def barNumber (w : Word64) : Nat := bits w.toNat 16 10
def barPhase (w : Word64) : Bool := w.getLsbD 31

/-- What a barrier number of unit `u` names: the unit that holds it, its record and its index there, or the code
of the refusal (R92). -/
def barrierOf (s : State) (u : Nat) (r : UnitRec) (n : Nat) : Except Nat (Nat × UnitRec × Nat) :=
  if n < 512 then (if n < r.need.bars then .ok (u, r, n) else .error 0x01)
  else if r.gang == 0 then .error 0x06
  else match gangMember s u r 0 with
    | some (v, q) => if n - 512 < q.need.bars then .ok (v, q, n - 512) else .error 0x01
    | none => .error 0x01

/-- A BARRIER trap (R98). -/
def barrierTrap (s : State) (n code : Nat) : Result :=
  trapNow s 0x09 (BitVec.ofNat 64 (n * 2 ^ 16 + code))

/-- Whether the barrier has a waiter (R94). -/
def barrierWaited (s : State) (owner n : Nat) (phase : Bool) : Bool :=
  s.teams.any (fun e => waitsAt e.2.th owner n phase) ||
  s.units.any (fun e => e.2.savedTeams.any (fun k => waitsAt k.2.th owner n phase)) || s.progs.any (fun e => waitsAt e.2.th owner n phase)

/-- Wait for the barrier to leave a phase: retires when it has. -/
def waitPhase (s : State) (owner num idx : Nat) (phase : Bool) : Result :=
  match s.unit owner with
  | none => .next (retire s)
  | some r =>
    if (r.bar idx).phase != phase then .next (retire s)
    else .next (block s (.barrier owner num phase))

/-- An arriving instruction up to its count: report point, the barrier's refusals, and the wait for the team's
earlier accesses (R94, R98, R340). -/
def withArrival (s : State) (a : BitVec 5) (k : Nat → Nat → Barrier → Nat → Nat → Result) : Result :=
  withTeam s (fun c sl t u => withRegs s [a] (fun th => withReport s t (
    let n := barNumber (th.rd a)
    match barrierOf s t.unit u n with
    | .error e => barrierTrap s n e
    | .ok (v, q, i) =>
      let b := q.bar i
      if b.claimed then barrierTrap s n 0x02
      else if b.expected == 0 then barrierTrap s n 0x03
      else if !accessesDone s c sl t then .next (block s .laneStream)
      else k v i b n t.unit)))

/-- An arrival goes to another core's barrier through the network (R340). -/
def sendArrival (s : State) (v i : Nat) : Nat × State :=
  (s.nextId, { s with nextId := s.nextId + 1, gangArr := s.gangArr.put s.nextId ⟨v, i⟩ })

/-- BAR_ARRIVE (R94, R340). -/
def execBarArrive (a : BitVec 5) (s : State) : Result :=
  withArrival s a (fun v i _ _ u =>
    if v == u then .next (retire (countArrival s v i)) else .next (retire (sendArrival s v i).2))

/-- BAR_WAIT (R94, R66). -/
def execBarWait (a : BitVec 5) (s : State) : Result :=
  withTeam s (fun _ _ t u => withRegs s [a] (fun th => withReport s t (
    let n := barNumber (th.rd a)
    match barrierOf s t.unit u n with
    | .error e => barrierTrap s n e
    | .ok (v, _, i) => waitPhase s v n i (barPhase (th.rd a)))))

/-- BAR_ARRWAIT: it counts once, then waits on the phase it saw before (R94, R340). -/
def execBarArrwait (a : BitVec 5) (s : State) : Result :=
  withTeam s (fun _ _ t _ =>
    match t.th.at_ with
    | some (.arrived v n p) => waitPhase s v n (n % 512) p
    | some (.gangArrival _) => .next (block s t.th.wait)
    | _ => withArrival s a (fun v i b n u =>
      if v == u then
        let s := s.onThread s.cur (·.setStage (.arrived v n b.phase))
        waitPhase (countArrival s v i) v n i b.phase
      else
        let r := sendArrival s v i
        .next (blockAt r.2 (.gangArrival r.1) (.barrier v n b.phase))))

/-- GANG_BARRIER_ARRIVAL: the arrival counts at member 0's barrier, and an ARRWAIT that sent it waits on the phase
before it (R96, R340). While the gang is suspended the arrival waits (log 94). -/
def execGangBarrierArrival (id : Nat) (s : State) : Result :=
  match s.gangArr.find id with
  | none => .next s
  | some g =>
    let gone := { s with gangArr := s.gangArr.del id }
    match s.unit g.unit with
    | none => .next gone
    | some r =>
      if r.away then .next s
      else
      let s := gone
      let b := r.bar g.n
      let mark (th : Thread) : Thread :=
        { th with
          stage := th.stage.map (fun e =>
            if e.2 == .gangArrival id then (e.1, .arrived g.unit (512 + g.n) b.phase) else e)
          wait := if th.at_ == some (.gangArrival id) && th.wait != .none then
            .barrier g.unit (512 + g.n) b.phase else th.wait }
      let s := s.mapThreads mark
      .next (if b.claimed || b.expected == 0 then s else countArrival s g.unit g.n)

/-- BAR_INIT: CLAIMED, BUSY and BADCNT in that order (R94, R98, R340). -/
def execBarInit (a b : BitVec 5) (s : State) : Result :=
  withTeam s (fun _ _ t u => withRegs s [a, b] (fun th =>
    let n := barNumber (th.rd a)
    let cnt := (th.rd b).toNat
    match barrierOf s t.unit u n with
    | .error e => barrierTrap s n e
    | .ok (v, q, i) =>
      let x := q.bar i
      if x.claimed then barrierTrap s n 0x02
      else if x.arrived != 0 || barrierWaited s v i x.phase then barrierTrap s n 0x04
      else if cnt == 0 || 0x7FFFFFFF < cnt then barrierTrap s n 0x05
      else .next (retire (s.onUnit v (fun r => { r with bars := r.bars.put i { x with expected := cnt } })))))

/-- What BAR QUERY returns (R95). -/
def Barrier.word (b : Barrier) : Word64 :=
  BitVec.ofNat 64 (b.expected * 2 ^ 32 + (if b.phase then 2 ^ 31 else 0) + b.arrived)

/-- BAR_QUERY (R95). -/
def execBarQuery (d a : BitVec 5) (s : State) : Result :=
  withTeam s (fun _ _ t u => withRegs s [a, d] (fun th =>
    let n := barNumber (th.rd a)
    match barrierOf s t.unit u n with
    | .error e => barrierTrap s n e
    | .ok (_, q, i) => .next (retireWith s d (q.bar i).word)))

/-! ### Tags -/

def UnitRec.tag (u : UnitRec) (t : Nat) : Tag := u.tags.look Tag.zero t

/-- TINFO of a TAG trap (R91). -/
def tagTrap (s : State) (t code : Nat) : Result := trapNow s 0x08 (BitVec.ofNat 64 (t * 256 + code))

/-- The lowest tag of a mask that satisfies `p`. -/
def firstTag (m : Word64) (p : Nat → Bool) : Option Nat := (List.range 64).find? (fun t => m.getLsbD t && p t)

/-- The status word of a tag (R88). -/
def Tag.word (t : Tag) : Word64 :=
  BitVec.ofNat 64 (t.bytes * 2 ^ 32 + (if t.psn then 2 ^ 17 else 0) + (if t.flt then 2 ^ 16 else 0) + t.out * 256 +
    (if t.rdy then 1 else 0))

/-- A TAG instruction on a mask, once every bit of it names a tag of the unit (R342). -/
def withTags (s : State) (regs : List (BitVec 5)) (a : BitVec 5) (k : Nat → UnitRec → Word64 → Result) : Result :=
  withTeam s (fun _ _ t u => withRegs s regs (fun th =>
    match firstTag (th.rd a) (fun j => u.need.tags ≤ j) with
    | some j => tagTrap s j 0x01
    | none => k t.unit u (th.rd a)))

/-- What WALL and WANY meet (R342): the wait goes on, it ends with the lowest ready tag, or it can never end. -/
inductive TagTest where
  | wait
  | done (t : Nat)
  | never (t : Nat)
  deriving DecidableEq, Repr

def tagTest (u : UnitRec) (m : Word64) (any : Bool) : TagTest :=
  if any then
    match firstTag m (fun t => (u.tag t).rdy) with
    | some t => .done t
    | none => if (firstTag m (fun t => (u.tag t).out != 0)).isNone then .never 0 else .wait
  else
    match firstTag m (fun t => (u.tag t).out == 0 && !(u.tag t).rdy) with
    | some t => .never t
    | none => if (firstTag m (fun t => !(u.tag t).rdy)).isNone then .done 0 else .wait

/-- The element of least key, the first of equals. -/
def leastBy {α : Type} (key : α → Nat) (l : List α) : Option α :=
  l.foldl (fun m x => match m with
    | none => some x
    | some y => if key x < key y then some x else m) none

/-- The teams of a unit that are on their core and not saved, as (core, slot, team). -/
def liveTeams (s : State) (u : Nat) : List (Nat × Nat × Team) :=
  (s.teams.filter (fun e => e.2.unit == u && e.2.set_ != .saved)).map (fun e => (e.1 / 32, e.1 % 32, e.2))

/-- Set a tag of a unit. -/
def setTag (s : State) (u t : Nat) (f : Tag → Tag) : State :=
  s.onUnit u (fun r => { r with tags := r.tags.put t (f (r.tag t)) })

/-- A blocked WALL or WANY of a unit whose test has come out, the oldest team first: its team, WANY's gd or none for
WALL, and the outcome (R342). -/
def tagReady (s : State) (u : Nat) (r : UnitRec) : Option (Nat × Nat × Team × Option Nat × TagTest) :=
  (leastBy (fun (x : Nat × Nat × Team) => x.2.2.age) ((liveTeams s u).filter (fun x =>
    match x.2.2.th.wait with
    | .tags m any _ => tagTest r m any != .wait
    | _ => false))).map (fun x =>
      match x.2.2.th.wait with
      | .tags m any d => (x.1, x.2.1, x.2.2, if any then some d else none, tagTest r m any)
      | _ => (x.1, x.2.1, x.2.2, none, .wait))

/-- A change of a tag: the blocked WALL and WANY of the unit are tested again, each in turn (R342). -/
def retestTags (u : Nat) : Nat → State → State
  | 0, s => s
  | n + 1, s => match s.unit u with
    | none => s
    | some r => match tagReady s u r with
      | none => s
      | some (c, sl, t, d, .done k) =>
        let s1 := match d with
          | some g => (setTag s u k (fun x => { x with rdy := false })).onTeam c sl (fun x =>
              { x with th := (x.th.wr (BitVec.ofNat 5 g) (BitVec.ofNat 64 k)).next_ })
          | none => s.setTeam c sl { t with th := t.th.next_ }
        retestTags u n s1
      | some (c, sl, t, _, .never k) =>
        retestTags u n (takeTrap s (.team c sl) 0x08 0 t.th.spc none (BitVec.ofNat 64 (k * 256 + 0x03)))
      | some (_, _, _, _, .wait) => s

/-- A tag of a unit has changed. -/
def tagsChanged (s : State) (u : Nat) : State := retestTags u 64 s

/-- TAG_WALL (R342). -/
def execTagWall (a : BitVec 5) (s : State) : Result :=
  withTags s [a] a (fun _ u m => match tagTest u m false with
    | .never t => tagTrap s t 0x03
    | .done _ => .next (retire s)
    | .wait => .next (block s (.tags m false 0)))

/-- TAG_WANY (R342). -/
def execTagWany (d a : BitVec 5) (s : State) : Result :=
  withTags s [a, d] a (fun v u m => match tagTest u m true with
    | .done t =>
      .next (tagsChanged (retireWith (setTag s v t (fun x => { x with rdy := false })) d (BitVec.ofNat 64 t)) v)
    | .never t => tagTrap s t 0x03
    | .wait => .next (block s (.tags m true d.toNat)))

/-- TAG_FFR (R342). -/
def execTagFfr (d a : BitVec 5) (s : State) : Result :=
  withTags s [a, d] a (fun _ u m =>
    .next (retireWith s d (match firstTag m (fun t => (u.tag t).rdy) with
      | some t => BitVec.ofNat 64 t
      | none => BitVec.allOnes 64)))

/-- TAG_CLR (R89, R342). -/
def execTagClr (a : BitVec 5) (s : State) : Result :=
  withTags s [a] a (fun v u m =>
    match firstTag m (fun t => (u.tag t).out != 0) with
    | some t => tagTrap s t 0x02
    | none => .next (tagsChanged (retire (s.setUnit v { u with
        tags := ((List.range 64).filter (fun t => m.getLsbD t)).foldl (fun (x : FMap Tag) t =>
          x.put t { u.tag t with rdy := false, bytes := 0, psn := false, flt := false }) u.tags })) v))

/-- TAG_READ (R88, R342). -/
def execTagRead (d a : BitVec 5) (s : State) : Result :=
  withTeam s (fun _ _ _ u => withRegs s [a, d] (fun th =>
    let t := bits (th.rd a).toNat 0 6
    if u.need.tags ≤ t then tagTrap s t 0x01 else .next (retireWith s d (u.tag t).word)))

/-! ### Windows -/

def UnitRec.win (u : UnitRec) (w : Nat) : Win := u.windows.look Win.none w

/-- Update a window of a unit. -/
def setWin (s : State) (u w : Nat) (x : Win) : State :=
  s.onUnit u (fun r => { r with windows := r.windows.put w x })

def windowTrap (s : State) (w slot code : Nat) : Result := trapNow s 0x0A (windowInfo w slot code)

/-- The window a configuration word describes, from the snapshot bound to LTID (R53, R54). -/
def winOf (c : Word64) (t : Tensor) : Win :=
  let n := c.toNat
  { ltid := bits n 0 8, bar0 := bits n 32 10, pegs := bits n 16 5, slots := bits n 8 5, fmt := t.fmt, scl := t.scl,
    tr := t.tr, tw := t.tw, base := t.base, next_ := 0, freePegs := bits n 16 5, st := [] }

/-- The conditions of R55 on a window with slots. -/
def winOk (u : UnitRec) (w : Nat) (x : Win) (loc : Nat) : Bool :=
  let old := u.win w
  let mine (n : Nat) : Bool := old.slots != 0 && old.bar0 ≤ n && n < old.bar0 + old.slots
  x.slots ≤ 16 && 1 ≤ x.pegs && x.pegs ≤ x.slots && loc == 0 && x.base % 128 == 0 &&
    x.base + x.slots * x.stride ≤ u.need.spad && x.tw * tensorBits x.fmt % 8 == 0 &&
    (!(x.fmt == 0x0A || x.fmt == 0x0B) || x.tw % 4 == 0) && (!x.scl || x.tw % 32 == 0) &&
    x.bar0 < 512 && x.bar0 + x.slots - 1 < u.need.bars &&
    (List.range x.slots).all (fun j => !(u.bar (x.bar0 + j)).claimed || mine (x.bar0 + j)) &&
    u.windows.all (fun e => e.1 == w || e.2.slots == 0 ||
      !overlaps e.2.base (e.2.slots * e.2.stride) x.base (x.slots * x.stride))

/-- Barriers of a run set to counts 0 and phase 0, claimed or not (R56). -/
def claimRun (bars : FMap Barrier) (b0 n : Nat) (claimed : Bool) : FMap Barrier :=
  (List.range n).foldl (fun m j => FMap.put m (b0 + j) ⟨0, 0, false, claimed⟩) bars

/-- WIN_CFG (R53 to R56). R56 says what becomes of the barriers of the window's old run for SLOTS = 0; with SLOTS of 1 or
more the model releases them in the same way (DESIGN CHOICE, log 95). -/
def execWinCfg (a b : BitVec 5) (s : State) : Result :=
  withTeam s (fun _ _ t u => withRegs s [a, b] (fun th =>
    let w := bits (th.rd a).toNat 0 4
    let c := th.rd b
    let old := u.win w
    let reserved := bits c.toNat 13 3 + bits c.toNat 21 11 + bits c.toNat 42 22
    let put (x : Win) (bars : FMap Barrier) : Result :=
      .next (retire (s.setUnit t.unit { u with windows := u.windows.put w x, bars }))
    if u.need.wins ≤ w then windowTrap s w 0 0x01
    else if old.freePegs != old.pegs then windowTrap s w 0 0x04
    else if reserved != 0 then windowTrap s w 0 0x03
    else if bits c.toNat 8 5 == 0 then
      (if bits c.toNat 16 5 != 0 then windowTrap s w 0 0x03
       else put Win.none (claimRun u.bars old.bar0 old.slots false))
    else
      let e := tidEntry s s.cur (bits c.toNat 0 8)
      if e.binding then .next (block s (.holders (bits c.toNat 0 8)))
      else match e.snap with
        | none => windowTrap s w 0 0x03
        | some d =>
          let x := winOf c d
          if !winOk u w x d.loc then windowTrap s w 0 0x03
          else put x (claimRun (claimRun u.bars old.bar0 old.slots false) x.bar0 x.slots true)))

/-- A released slot is FREE and its peg returns; with every peg home, the teams in WIN WAITA go on (R69, R71). -/
def freeSlot (s : State) (u w j : Nat) : State :=
  match s.unit u with
  | none => s
  | some r =>
    let x := r.win w
    let y : Win := { x.setSlotState j .free with freePegs := x.freePegs + 1 }
    let s := setWin s u w y
    if y.freePegs == y.pegs then
      (liveTeams s u).foldl (fun s e =>
        if e.2.2.th.wait == .pegsHome w then s.setTeam e.1 e.2.1 { e.2.2 with th := e.2.2.th.next_ } else s) s
    else s

/-- The place of a WIN REL that waits on the slot (R69). -/
def Thread.relOrder (th : Thread) (w j : Nat) : Option Nat :=
  match th.wait with
  | .landed v k n => if v == w && k == j then some n else none
  | _ => none

/-- A slot has become LANDED: the WIN RELs that wait on it act at once, in issue order; the first frees it, each later
one finds it FREE and traps RELFREE (R69). -/
def slotLanded (u w j : Nat) : Nat → State → State
  | 0, s => s
  | n + 1, s =>
    match leastBy (fun (x : Nat × Nat × Team) => (x.2.2.th.relOrder w j).getD 0)
        ((liveTeams s u).filter (fun x => (x.2.2.th.relOrder w j).isSome)), s.unit u with
    | some (c, sl, t), some r =>
      slotLanded u w j n (
        if (r.win w).slotState j == .landed then
          (freeSlot s u w j).onTeam c sl (fun x => { x with th := x.th.next_ })
        else takeTrap s (.team c sl) 0x0A 0 t.th.spc none (windowInfo w j 0x05))
    | _, _ => s

/-- WIN_REL: a release, it waits for the team's earlier accesses; then it waits while the slot is ARMED (R69). -/
def execWinRel (a b : BitVec 5) (s : State) : Result :=
  withTeam s (fun c sl t u => withRegs s [a, b] (fun th =>
    let w := bits (th.rd a).toNat 0 4
    let j := bits (th.rd b).toNat 0 4
    let x := u.win w
    if u.need.wins ≤ w then windowTrap s w 0 0x01
    else if x.slots == 0 then windowTrap s w 0 0x02
    else if x.slots ≤ j then windowTrap s w j 0x06
    else match x.slotState j with
      | .free => windowTrap s w j 0x05
      | st =>
        if !accessesDone s c sl t then .next (block s .laneStream)
        else if st == .landed then .next (retire (freeSlot s t.unit w j))
        else match t.th.relOrder w j with
          | some _ => .next s
          | none => .next (block { s with nextId := s.nextId + 1 } (.landed w j s.nextId))))

/-- The status word of a window (R70). -/
def Win.word (x : Win) : Word64 :=
  let set (st : SlotState) : Nat := (((List.range x.slots).filter (fun j => x.slotState j == st)).map (2 ^ ·)).sum
  BitVec.ofNat 64 (set .armed * 2 ^ 48 + set .landed * 2 ^ 32 + x.freePegs * 2 ^ 16 + x.next_ * 256 + x.slots)

/-- WIN_QRY (R70). -/
def execWinQry (d a : BitVec 5) (s : State) : Result :=
  withTeam s (fun _ _ _ u => withRegs s [a, d] (fun th =>
    let w := bits (th.rd a).toNat 0 4
    if u.need.wins ≤ w then windowTrap s w 0 0x01 else .next (retireWith s d (u.win w).word)))

/-- WIN_WAITA (R71). -/
def execWinWaita (a : BitVec 5) (s : State) : Result :=
  withTeam s (fun _ _ _ u => withRegs s [a] (fun th =>
    let w := bits (th.rd a).toNat 0 4
    let x := u.win w
    if u.need.wins ≤ w then windowTrap s w 0 0x01
    else if x.freePegs == x.pegs then .next (retire s)
    else .next (block s (.pegsHome w))))

/-! ### Tensor identifiers -/

/-- The unit whose scratchpad an agent's location-0 identifiers name: its own, or the bound one (R42, R351). -/
def tidUnit (s : State) : Agent → Option (Nat × UnitRec)
  | .team c t => match s.team c t with
    | some r => (s.unit r.unit).map (fun u => (r.unit, u))
    | none => none
  | .prog c p => match (s.cluster c).binding with
    | some b => if b.prog == p then (s.unit b.unit).map (fun u => (b.unit, u)) else none
    | none => none
  | _ => none

/-- A TID instruction, once its registers are full and its identifier is in range (R99, R344). -/
def withTid (s : State) (regs : List (BitVec 5)) (a : BitVec 5) (k : Nat → Thread → Result) : Result :=
  withRegs s regs (fun th =>
    let id := bits (th.rd a).toNat 0 8
    if (tidTable s s.cur).1 ≤ id then tensorTrap s id 0x01 else k id th)

/-- The place of a stream among the binds that wait for an identifier. -/
def Thread.bindOrder (th : Thread) (id : Nat) : Option Nat :=
  match th.wait with
  | .bind t n => if t == id then some n else none
  | _ => none

/-- A bind waits in its place among the binds of the identifier. -/
def blockBind (s : State) (id : Nat) : State :=
  match (s.thread s.cur).bind (·.bindOrder id) with
  | some _ => s
  | none => block { s with nextId := s.nextId + 1 } (.bind id s.nextId)

/-- Whether a bind of the identifier that was issued earlier still waits: binds take effect in issue order (R344). -/
def bindBefore (s : State) (id : Nat) : Bool :=
  match s.cur with
  | .team c t => (match s.team c t with
    | some me => (liveTeams s me.unit).any (fun x => !(x.1 == c && x.2.1 == t) && (match x.2.2.th.bindOrder id with
      | some n => (match me.th.bindOrder id with | some m => n < m | none => true)
      | none => false))
    | none => false)
  | _ => false

/-- Wait until no operation holds the identifier, no bind of it is out, and none issued earlier waits (R62, R100, R344). -/
def withUnheld (s : State) (id : Nat) (k : Result) : Result :=
  let e := tidEntry s s.cur id
  if e.holders != 0 || e.binding || bindBefore s id then .next (blockBind s id) else k

/-- A bind is an access behind the acting team's fences (R156). -/
def withFenced (s : State) (k : Result) : Result :=
  match s.cur with
  | .team c t => if fencedOut s c t then .next (block s .laneStream) else k
  | _ => k

/-- The checks of a bind on the 64 bytes read, and its snapshot: the code that refuses it, or 0 (R103, R104, R351). -/
def bindCheck (s : State) (bs : List Byte) : Nat × Tensor :=
  let own := tidUnit s s.cur
  let d := parseTensor bs (match own with | some (v, _) => v | none => 0)
  let code := bindCode d.1 d.2 (match own with | some (_, u) => u.need.spad | none => 2 ^ 64) (viewSource s s.cur d.1)
  (if code == 0 && d.1.loc == 0 && own.isNone then 0x0B else code, d.1)

/-- A bind whose bytes are read: it traps, or the snapshot is stored (R100, R344). -/
def bindBytes (s : State) (id : Nat) (bs : List Byte) : Result :=
  let c := bindCheck s bs
  if c.1 != 0 then tensorTrap s id c.1
  else .next (retire (onTid s s.cur id (fun e => { e with snap := some c.2 })))

/-- Bytes of checked offset words: multiples of 8, in bounds and not armed (R79, R200, R344). -/
def withWords (s : State) (u : UnitRec) (off n : Nat) (k : Result) : Result :=
  if off % 8 != 0 then illegal s off 0x22
  else if !(off < 2 ^ 21 && off + n ≤ u.need.spad) then illegal s off 0x21
  else match u.armedAt off n with
    | some (w, j) => trapNow s 0x0A (windowInfo w j 0x07)
    | none => k

/-- A view whose source's bind is still in progress waits for it (R100, R104). -/
def viewWaits (s : State) (id : Nat) (t : Tensor) : Bool :=
  t.loc == 2 && t.src != id && (tidEntry s s.cur t.src).binding

/-- The descriptor in 64 bytes (R101). -/
def readTensor (s : State) (bs : List Byte) : Tensor :=
  (parseTensor bs (match tidUnit s s.cur with | some (v, _) => v | none => 0)).1

/-- TID_BINDS (R100, R344). -/
def execTidBinds (a b : BitVec 5) (s : State) : Result :=
  withTid s [a, b] a (fun id th =>
    match tidUnit s s.cur with
    | none => tensorTrap s id 0x0B
    | some (_, u) =>
      let off := (th.rd b).toNat
      withWords s u off 64 (withUnheld s id (withFenced s (withClean s u off 64 (fun bs x =>
        let t := readTensor s bs
        if viewWaits s id t then .next (blockBind s id) else bindBytes x id bs)))))

/-- The pieces of a range within aligned 128-byte lines: address and length (R18). -/
def linePieces (va len : Nat) : List (Nat × Nat) :=
  if len == 0 then []
  else (List.range' (va / 128) ((va + len - 1) / 128 - va / 128 + 1)).map (fun l =>
    (max va (128 * l), min (va + len) (128 * l + 128) - max va (128 * l)))

/-- The parts of a descriptor read, in address order (R344). -/
def bindParts (s : State) (req : Nat) : List (Nat × Req) :=
  s.reqs.filter (fun e => e.2.kind == .bind && e.2.cmd == req)

/-- Whether every part of a descriptor read is here or was answered without memory. -/
def bindReady (s : State) (req : Nat) : Bool :=
  (bindParts s req).all (fun e => e.2.st == .arrived || e.2.st == .faulted)

/-- A descriptor read has ended: it traps XLATE, EXTENT-REVOKED or POISON, or the bind's checks are made (R344). -/
def bindFinish (s : State) (id req : Nat) : Result :=
  let ps := bindParts s req
  let s := onTid { s with reqs := s.reqs.filter (fun e => !(e.2.kind == .bind && e.2.cmd == req)) } s.cur id
    (fun e => { e with binding := false })
  let s := s.onThread s.cur (fun th => { th with stage := th.stage.del th.spc.toNat, wait := .none })
  match ps.find? (fun e => e.2.st == .faulted) with
  | some (_, r) => trapNow s (if r.fkind == 4 then causeRevoked else causeXlate) (asyncWord 7 r.fkind r.va)
  | none => match ps.find? (fun e => e.2.psn.contains true) with
    | some (_, r) =>
      trapNow s 0x06 (scratchPoison ((r.va + (r.psn.takeWhile (!·)).length) / 8 * 8))
    | none => bindBytes s id (ps.flatMap (·.2.data))

/-- TID_BINDF: the descriptor is read through translation, as one request for each line it touches (R344). -/
def execTidBindf (a b : BitVec 5) (s : State) : Result :=
  match (match s.thread s.cur with | some th => th.at_ | none => none) with
  | some (.reading req) =>
    (match bindParts s req with
     | [] => .next (s.onThread s.cur (fun th => { th with stage := th.stage.del th.spc.toNat }))
     | (_, r) :: ps =>
       let t := readTensor s (r.data ++ ps.flatMap (·.2.data))
       if bindReady s req && ((bindParts s req).any (fun e => e.2.st == .faulted) || !viewWaits s (r.dest / 64) t)
       then bindFinish s (r.dest / 64) req else .next (block s (.descriptor req)))
  | _ => withTid s [a, b] a (fun id th =>
    let va := (th.rd b).toNat
    if va % 8 != 0 then illegal s va 0x23
    else withUnheld s id (withFenced s (
      let req := s.nextId
      let s := (linePieces va 64).foldl (fun s p =>
        (addReq s { Req.make .bind req s.cur (agentDie s.cur) (jobOf s s.cur) p.1 p.2 false with
          dest := id * 64 + (p.1 - va) }).2) s
      let s := onTid s s.cur id (fun e => { e with binding := true })
      .next (blockAt s (.reading req) (.descriptor req)))))

/-- TID_INV: it waits while an operation holds the identifier (R100, R344). -/
def execTidInv (a : BitVec 5) (s : State) : Result :=
  withTid s [a] a (fun id _ => withUnheld s id (
    .next (retire (onTid s s.cur id (fun e => { e with snap := none })))))

/-- The status of an identifier (R108). -/
def TidEntry.word (e : TidEntry) : Word64 :=
  match e.snap with
  | none => 0
  | some t => BitVec.ofNat 64 (t.version * 2 ^ 48 + min e.holders 255 * 2 ^ 16 + t.fmt * 256 + t.loc * 64 + 1)

/-- TID_QRY does not wait (R108, R344). -/
def execTidQry (d a : BitVec 5) (s : State) : Result :=
  withTid s [a, d] a (fun id _ => .next (retireWith s d (tidEntry s s.cur id).word))

end Sys2Proof.Machine
end

