-- ==== Sys2Proof/Machine/Traffic.lean ====
section
/-! DEFINITION. What engine commands share from issue to completion: the rows of a tile and the bytes that are sent
for them (R59, R60, R102, R105, R332, R334), counting at barriers and tags (R64, R89), faults (R24, R396, R400), and
the operand log (R330). -/

namespace Sys2Proof.Machine
open Sys2Proof

/-! ### Rows of a tile -/

/-- Element indexes of the origin of row `r` of tile `w` (R59). -/
def Tensor.rowOrigin (t : Tensor) (w : Word64) (r : Nat) : Nat × Nat × Nat × Nat :=
  (coordOf w 0 * t.tw, coordOf w 1 * t.tr + r, coordOf w 2, coordOf w 3)

/-- Where `n` elements from an index on lie: first byte and count of bytes. -/
def Tensor.span (t : Tensor) (i : Nat × Nat × Nat × Nat) (n : Nat) : Nat × Nat :=
  let b := t.bitOf i.1 i.2.1 i.2.2.1 i.2.2.2
  (b / 8, (b % 8 + n * t.bits + 7) / 8)

/-- Where the scales of the blocks of `n` elements lie. -/
def Tensor.scaleSpan (t : Tensor) (i : Nat × Nat × Nat × Nat) (n : Nat) : Nat × Nat :=
  (t.scaleOf i.1 i.2.1 i.2.2.1 i.2.2.2, (i.1 + n - 1) / 32 - i.1 / 32 + 1)

/-- The byte ranges of `rows` rows of `n` elements of a tile, each with its row code: 2 r for the elements of row r,
2 r + 1 for its scales. -/
def Tensor.rowSpans (t : Tensor) (w : Word64) (rows n : Nat) : List (Nat × Nat × Nat) :=
  (List.range rows).flatMap (fun r =>
    let i := t.rowOrigin w r
    let e := t.span i n
    let k := t.scaleSpan i n
    (2 * r, e.1, e.2) :: (if t.scl then [(2 * r + 1, k.1, k.2)] else []))

/-- The byte ranges of the part of a tile that lies within the bounds (R60, R332). -/
def Tensor.tileSpans (t : Tensor) (w : Word64) : List (Nat × Nat × Nat) :=
  t.rowSpans w (t.tileRows w) (t.tileCols w)

/-- Cut byte ranges at the 128-byte lines (R18). -/
def cutSpans (l : List (Nat × Nat × Nat)) : List (Nat × Nat × Nat) :=
  l.flatMap (fun p => (linePieces p.2.1 p.2.2).map (fun x => (p.1, x.1, x.2)))

/-! ### Source elements -/

/-- `n` bits from a bit address on, with whether any byte of them is poisoned. -/
def bitsAt (get : Nat → Byte × Bool) (bit n : Nat) : Nat × Bool :=
  let bs := (List.range ((bit % 8 + n + 7) / 8)).map (fun j => get (bit / 8 + j))
  (numOfBytes (bs.map (·.1)) / 2 ^ (bit % 8) % 2 ^ n, bs.any (·.2))

/-- An index lies within the bounds. -/
def Tensor.holdsIndex (t : Tensor) (i : Nat × Nat × Nat × Nat) : Bool :=
  i.1 < t.dim 0 && i.2.1 < t.dim 1 && i.2.2.1 < t.dim 2 && i.2.2.2 < t.dim 3

/-- A source element: 0 outside the bounds and in the padding of a view with source `q` (R60, R105, R334). -/
def sourceElem (get : Nat → Byte × Bool) (t q : Tensor) (i : Nat × Nat × Nat × Nat) : Nat × Bool :=
  if !t.holdsIndex i then (0, false)
  else if t.loc == 2 then
    match viewElement t q i.1 i.2.1 i.2.2.1 with
    | some (a, b, c, d) => bitsAt get (q.bitOf a b c d) q.bits
    | none => (0, false)
  else bitsAt get (t.bitOf i.1 i.2.1 i.2.2.1 i.2.2.2) t.bits

/-- The byte of a unit's allocation at an offset, with the poison of its word (R82). -/
def unitByte (s : State) (u : UnitRec) (off : Nat) : Byte × Bool :=
  (byteAt s.mem.spad (spadKey u.core (u.spadOff off)), s.mem.spadPsn.contains (spadKey u.core (u.spadOff off) / 8))

/-- Byte `x` of a row of `n` elements of `w` bits that starts at bit `d0`: its bits, which of them the row gives, and
poison. -/
def rowByte (w d0 n : Nat) (elem : Nat → Nat × Bool) (x : Nat) : Byte × Byte × Bool :=
  let lo := max d0 (8 * x)
  let hi := min (d0 + n * w) (8 * x + 8)
  let es := List.range' ((lo - d0) / w) ((hi - 1 - d0) / w - (lo - d0) / w + 1)
  let shift (e : Nat) : Nat :=
    if 8 * x ≤ d0 + e * w then (elem e).1 * 2 ^ (d0 + e * w - 8 * x) % 256
    else (elem e).1 / 2 ^ (8 * x - d0 - e * w) % 256
  (BitVec.ofNat 8 ((es.map shift).sum), BitVec.ofNat 8 (2 ^ (hi - 8 * x) - 2 ^ (lo - 8 * x)), es.any (fun e => (elem e).2))

/-- The byte at address `x` of a destination row, from the source of the command (R332, R334). -/
def Cmd.formByte (c : Cmd) (get : Nat → Byte × Bool) (q : Tensor) (code x : Nat) : Byte × Byte × Bool :=
  let r := code / 2
  let i := c.dst.rowOrigin c.dstCoord r
  let j := c.src.rowOrigin c.srcCoord r
  if code % 2 == 1 then
    let b := i.1 / 32 + (x - (c.dst.scaleSpan i 1).1)
    let k := (j.1 + (max (32 * b) i.1 - i.1), j.2)
    let v := if c.src.holdsIndex k then get (c.src.scaleOf k.1 k.2.1 k.2.2.1 k.2.2.2) else (0x7F, false)
    (v.1, 0xFF, v.2)
  else
    rowByte c.dst.bits (c.dst.bitOf i.1 i.2.1 i.2.2.1 i.2.2.2) (c.dst.tileCols c.dstCoord)
      (fun e => sourceElem get c.src q (j.1 + e, j.2)) x

/-- The source bytes a command reads, by row code (R334). -/
def Cmd.sourceSpans (c : Cmd) (q : Tensor) : List (Nat × Nat × Nat) :=
  let rows := c.dst.tileRows c.dstCoord
  let cols := c.dst.tileCols c.dstCoord
  if c.src.loc == 2 then
    (List.range rows).flatMap (fun r =>
      let j := c.src.rowOrigin c.srcCoord r
      (List.range cols).filterMap (fun e =>
        if !c.src.holdsIndex (j.1 + e, j.2) then none
        else match viewElement c.src q (j.1 + e) j.2.1 j.2.2.1 with
          | some (a, b, k, d) => some (2 * r, q.span (a, b, k, d) 1)
          | none => none))
  else
    let o := c.src.rowOrigin c.srcCoord 0
    c.src.rowSpans c.srcCoord (min rows (c.src.dim 1 - o.2.1)) (min cols (c.src.dim 0 - o.1))

/-! ### Counting -/

/-- Append a record to the event block; an arrival adds to the record of its barrier or tag, and 16 faults at most
are recorded (R416). -/
def UnitRec.noteEvent (u : UnitRec) (e : EventRec) : UnitRec :=
  if e.type_ == 3 then
    if 16 ≤ (u.events.filter (fun x => x.type_ == 3)).length then { u with lostEvents := u.lostEvents + 1 }
    else { u with events := u.events ++ [e] }
  else if u.events.any (fun x => x.type_ == e.type_ && x.num == e.num) then
    { u with events := u.events.map (fun x =>
        if x.type_ == e.type_ && x.num == e.num then
          { e with psn := x.psn || e.psn, flt := x.flt || e.flt, done := x.done + e.done, bytes := x.bytes + e.bytes }
        else x) }
  else { u with events := u.events ++ [e] }

/-- The words of an event record (R416). -/
def EventRec.words (e : EventRec) : List Word64 :=
  [BitVec.ofNat 64 (e.type_ * 2 ^ 56 + e.num * 2 ^ 46 + (if e.psn then 2 ^ 45 else 0) + (if e.flt then 2 ^ 44 else 0) +
     e.done % 2 ^ 12 * 2 ^ 32 + e.bytes % 2 ^ 32), e.word]

/-- The event block of a unit in its save area (R411, R416): NEV, LOST and the records. -/
def writeEvents (s : State) (u : UnitRec) : State :=
  physWriteWords s (u.save + shadowOffset u + u.need.spad)
    ([BitVec.ofNat 64 (u.events.length + u.lostEvents % 2 ^ 32 * 2 ^ 32), 0] ++ u.events.flatMap EventRec.words)

/-- Record an event of a unit whose state is in its save area (R168, R416). -/
def recordEvent (s : State) (id : Nat) (u : UnitRec) (e : EventRec) : State :=
  let v := u.noteEvent e
  writeEvents (s.setUnit id v) v

/-- The window and slot whose arrival barrier `n` is. -/
def UnitRec.barOwner (u : UnitRec) (n : Nat) : Option (Nat × Nat) :=
  (u.windows.find? (fun e => e.2.slots != 0 && e.2.bar0 ≤ n && n < e.2.bar0 + e.2.slots)).map
    (fun e => (e.1, n - e.2.bar0))

/-- Bytes performed in a slot count at its barrier; the last one fires it: the slot is LANDED, its range disarmed and
the phase flips in one step (R57, R64). -/
def UnitRec.countBytes (u : UnitRec) (n bytes : Nat) : UnitRec :=
  let b := u.bar n
  let b := { b with arrived := b.arrived + bytes }
  if b.claimed && b.arrived == b.expected then
    match u.barOwner n with
    | some (w, j) => { u with bars := u.bars.put n { b with phase := !b.phase },
                              windows := u.windows.put w ((u.win w).setSlotState j .landed) }
    | none => { u with bars := u.bars.put n b }
  else { u with bars := u.bars.put n b }

/-- A tag after bytes performed, commands completed and faults (R88, R89). -/
def Tag.note (t : Tag) (bytes done : Nat) (psn flt : Bool) : Tag :=
  let out := t.out - done
  { out, rdy := t.rdy || (0 < done && out == 0), bytes := min (t.bytes + bytes) 0xFFFFFFFF, psn := t.psn || psn,
    flt := t.flt || flt }

/-- What happens under a tag goes to the tag, or to the event block while the unit is suspended (R89, R168). -/
def noteTag (s : State) (u t bytes done : Nat) (psn flt : Bool) : State :=
  match s.unit u with
  | none => s
  | some r =>
    if r.away then recordEvent s u r ⟨2, t, psn, flt, done, bytes, 0, 0⟩
    else tagsChanged (s.setUnit u { r with tags := r.tags.put t ((r.tag t).note bytes done psn flt) }) u

/-- The bytes of a slot, for the digest of its tile. -/
def slotBytes (s : State) (u : UnitRec) (w j : Nat) : List Byte :=
  spadRead s u.core (u.spadOff ((u.win w).slotBase j)) (u.win w).bytes

/-- An arrival barrier has fired: its waiters are released and the WIN RELs of its slot act (R66, R69); `u` is the unit
before. -/
def slotFired (s : State) (id : Nat) (u : UnitRec) (n w j : Nat) : State :=
  slotLanded id w j 32 (releaseWaiters s id n (u.bar n).phase)

/-- Bytes landed in a slot count toward its barrier (R64, R168, R441). -/
def noteBar (s : State) (c : Cmd) (bytes : Nat) (psn : Bool) : State :=
  match s.unit c.unit with
  | none => s
  | some u =>
    let n := (u.win c.win).bar0 + c.winSlot
    if u.away then recordEvent s c.unit u ⟨1, n, psn, false, 0, bytes, 0, c.team⟩
    else
      let v := u.countBytes n bytes
      let s := s.setUnit c.unit v
      if (v.win c.win).slotState c.winSlot == .landed then
        slotFired (captureTile s u.core c.team c.win c.winSlot (slotBytes s u c.win c.winSlot)) c.unit u n c.win c.winSlot
      else s

/-! ### Faults of commands -/

/-- Whether a request is the front end's own (R366, R367). -/
def ReqKind.ofFrontEnd : ReqKind → Bool
  | .header | .record | .list | .copySrc | .copyDst | .completion => true
  | .fpost | .wpost | .cpySrc | .cpyDst | .ratm | .chain | .code | .bind => false

/-- Whether R25 gives a request a KIND. -/
def ReqKind.hasKind : ReqKind → Bool
  | .header | .record | .list | .completion => false
  | _ => true

/-- KIND of a request in fault records and fault words (R25). -/
def ReqKind.faultKind : ReqKind → Nat
  | .fpost => 0 | .wpost => 1 | .cpySrc | .copySrc => 2 | .cpyDst | .copyDst => 3 | .ratm => 4 | .chain => 5
  | .code => 6 | .bind => 7 | .header | .record | .list | .completion => 0

/-- The team that issued a command, while it lives. -/
def cmdTeam (s : State) (c : Cmd) : Option Team :=
  match c.agent with
  | .team a b => match s.team a b with
    | some t => if t.unit == c.unit && t.index == c.team then some t else none
    | none => none
  | _ => none

/-- A fault of a team that has ended, written as its team report: CAUSE is the fault's and FAIL is 0, the rest as R404 gives
it for the team's end (R396, R418, log 104). -/
def endedReport (s : State) (u : UnitRec) (team cause : Nat) : State :=
  let l : LastTeam := u.last.look ⟨u.core, 0, 0, 0, 0, 0, 0, s.now⟩ team
  let tid : Word64 := BitVec.ofNat 64
    (u.job * 2 ^ 42 + l.core * 2 ^ 32 + l.slot * 2 ^ 27 + team * 2 ^ 22 + u.index)
  teamReport s u.job (reportWords tid (match s.launch u.launch with | some l => l.bid | none => 0) l.status cause
    (l.fmask != 0) false l.tepc l.tinfo l.time) l.fmask

/-- Deliver XLATE or EXTENT-REVOKED to the team that issued the command; a fault in reading a table entry, kind 5,
is delivered to no one (R24, R29, R396, R416). -/
def deliverFault (s : State) (c : Cmd) (kind fkind va : Nat) : State :=
  let cause := if fkind == 4 then causeRevoked else causeXlate
  let info := asyncWord kind fkind va
  if fkind == 5 then s
  else match s.unit c.unit with
    | none => s
    | some u =>
      if u.away then recordEvent s c.unit u ⟨3, c.team, false, false, cause, 0, info, c.team⟩
      else if (cmdTeam s c).isSome then postCause s c.agent cause 0 info
      else endedReport s u c.team cause

/-! ### The operand log and completion -/

/-- Requests of a command. -/
def cmdReqs (s : State) (id : Nat) : FMap Req := s.reqs.filter (fun e => e.2.cmd == id)

/-- A far request that has not passed translation (R330). -/
def Req.untranslated (r : Req) : Bool :=
  !r.zero && (r.st == .fresh || r.st == .walking || r.st == .holding || r.st == .parked)

/-- Release the identifiers a command holds (R62). -/
def releaseHolds (s : State) (id : Nat) (c : Cmd) : State :=
  let s := s.onUnit c.unit (fun r => { r with
    tids := r.tids.map (fun (x : Nat × TidEntry) => (x.1, { x.2 with holders := x.2.holders - c.holds.count x.1 })) })
  { s with cmds := s.cmds.put id { c with holds := [] } }

/-- A full store-fault queue traps its team at the next boundary (R282, R402). -/
def Thread.postFull (t : Thread) : Thread :=
  if t.pending.any (fun p => p.cause == 0x04) then t
  else t.post ⟨0x04, 0, BitVec.ofNat 64 (256 + 16), false, none⟩

/-- The log entry of a command whose last request has passed: it is freed, after the store-fault record of a command
that has one, for which it waits while the queue is full (R330, R400). -/
def Team.freeLog (t : Team) (id : Nat) (f : Option StoreFault) : Team :=
  match f with
  | none => { t with opLog := t.opLog.filter (· != id) }
  | some x =>
    if t.sfq.length < 16 then
      { t with opLog := t.opLog.filter (· != id), sfq := t.sfq ++ [x],
               th := if t.sfq.length == 15 then t.th.postFull else t.th }
    else { t with sfqWait := t.sfqWait ++ [(id, x)] }

/-- The store-fault record of a command (R400). -/
def Cmd.storeFault (c : Cmd) : Option StoreFault :=
  if c.lost == 0 then none
  else some ⟨if c.kind == .wpost then 1 else 3, c.tag, c.lost, c.spc, BitVec.ofNat 64 c.lostVa, c.lostPte⟩

/-- What follows once every request of a command has passed, and its source has been read (R62, R330, R400); the saved
store-fault queue of a suspended unit follows (R416). -/
def settleLog (s : State) (id : Nat) : State :=
  match s.cmds.find id with
  | none => s
  | some c =>
    if (cmdReqs s id).any (fun e => e.2.untranslated) then s
    else
      let s := if c.passed then s
        else
          let s := { s with cmds := s.cmds.put id { c with passed := true } }
          match c.agent, cmdTeam s c with
          | .team a b, some t =>
            let t1 := t.freeLog id c.storeFault
            let s1 := s.setTeam a b t1
            (match s.unit t.unit with
             | some u => if u.away && t1.sfq != t.sfq then writeSfq s1 u t1 else s1
             | none => s1)
          | _, _ => s
      if !c.holds.isEmpty && (c.src.loc == 1 || c.writing) then releaseHolds s id { c with passed := true } else s

/-- A command completes when no request of it is left (R89, R366). -/
def settleCmd (s : State) (id : Nat) : State :=
  let s := settleLog s id
  match s.cmds.find id with
  | none => s
  | some c =>
    if !(cmdReqs s id).isEmpty then s
    else
      let s := { s with cmds := s.cmds.del id }
      match c.kind with
      | .fpost => reapUnit s c.unit
      | .copyList => s.onLaunch c.launch (fun l =>
          { l with copies := l.copies - 1, status := if c.flt then l.status ||| 0x20 else l.status })
      | _ => reapUnit (noteTag s c.unit c.tag 0 1 false false) c.unit

/-- Remove a request that has been performed or reported. -/
def dropReq (s : State) (id : Nat) : State := { s with reqs := s.reqs.del id }

/-! ### Reading the source -/

/-- Whether a request writes the destination of a copying command. -/
def Req.isDst (r : Req) : Bool := r.kind == .wpost || r.kind == .cpyDst || (r.kind == .fpost && r.zero)

/-- Form the bytes of every destination request from the source (R332, R334). -/
def formData (s : State) (id : Nat) (c : Cmd) (get : Nat → Byte × Bool) (q : Tensor) : State :=
  { s with
    cmds := s.cmds.put id { c with writing := true }
    reqs := s.reqs.map (fun (e : Nat × Req) =>
      if e.2.cmd == id && e.2.isDst then
        let a := if e.2.zero then e.2.dest else e.2.va
        let bs := (List.range e.2.len).map (fun j => c.formByte get q (if e.2.zero then e.2.va else e.2.dest) (a + j))
        (e.1, { e.2 with data := bs.map (·.1), mask := bs.map (·.2.1), psn := bs.map (·.2.2),
                         st := if e.2.zero then .returned else e.2.st })
      else e) }

/-- Read a local source, once none of its bytes is armed (R67, R332) and while the unit is on its core; a far one comes
through its own requests. -/
def prepare (s : State) (id : Nat) (c : Cmd) : Option State :=
  if c.writing then some s
  else if c.src.loc == 1 then none
  else match s.unit c.unit with
    | none => none
    | some u =>
      if u.away then none
      else
      let q := c.via
      let spans := c.sourceSpans q
      if spans.any (fun p => (u.armedAt p.2.1 p.2.2).isSome) then none
      else
        let s1 := spans.foldl (fun s p => eccRead s u.core (u.spadOff p.2.1) p.2.2) s
        some (settleLog (formData s1 id c (unitByte s u) q) id)

end Sys2Proof.Machine
end

