-- ==== Sys2Proof/Machine/Engine.lean ====
section
/-! DEFINITION. The engine commands FPOST (R58 to R63), WPOST, CPY, RATM (R331 to R337) and MOD (R198 to R200): their
checks, the identifiers, peg, log entry and tag they take (R329, R330, R89), and the requests they form (R18). -/

namespace Sys2Proof.Machine
open Sys2Proof

/-! ### Requests -/

/-- A command with nothing done yet. -/
def Cmd.make (kind : CmdKind) (a : Agent) (core slot : Nat) (t : Team) (u : UnitRec) : Cmd :=
  { kind, agent := a, core, slot, team := t.index, unit := t.unit, job := u.job, spc := t.th.spc, tag := 0, scope := 0,
    acq := false, rel := false, win := 0, winSlot := 0, pegged := false, base := 0, dst := Tensor.none, dstCoord := 0,
    src := Tensor.none, srcCoord := 0, via := Tensor.none, holds := [], passed := false, op := 0, size := 0, operand := 0, compare := 0,
    writing := false, buf := [], lost := 0, lostVa := 0, lostPte := 0, flt := false, psn := false, hops := [], hop := 0,
    words := [], chain := 0, pat := 0, launch := 0, leg := .home, lastHop := (0, 0) }

/-- A far request of a command. -/
def Cmd.req (c : Cmd) (id : Nat) (kind : ReqKind) (va len : Nat) (write : Bool) (dest : Nat) : Req :=
  { Req.make kind id c.agent (agentDie c.agent) c.job va len write with dest }

/-- A piece formed on the package: `data` now, or from the source later under a row code. -/
def Cmd.local_ (c : Cmd) (id : Nat) (kind : ReqKind) (dest len code : Nat) (data : Option (List Byte)) : Req :=
  { Req.make kind id c.agent (agentDie c.agent) c.job code len true with
    zero := true, dest, data := data.getD [], psn := (data.getD []).map (fun _ => false),
    st := if data.isSome then .returned else .fresh }

def addReqs (s : State) (l : List Req) : State := l.foldl (fun s r => (addReq s r).2) s

/-- The pieces of a tile fetch of a far tensor: what lies within the bounds is read, the rest lands as zero and 0x7F
(R59, R60). -/
def Cmd.fetchReqs (c : Cmd) (id : Nat) (rb : Nat) : List Req :=
  let t := c.src
  let cols := t.tileCols c.srcCoord
  let half (far : Option (Nat × Nat)) (off total : Nat) (fill : Byte) : List Req :=
    let n := match far with | some p => p.2 | none => 0
    (match far with
     | some p => (linePieces p.1 p.2).map (fun x => c.req id .fpost x.1 x.2 false (off + (x.1 - p.1)))
     | none => []) ++
    (if n < total then [c.local_ id .fpost (off + n) (total - n) 0 (some (List.replicate (total - n) fill))] else [])
  (List.range t.tr).flatMap (fun r =>
    let i := t.rowOrigin c.srcCoord r
    let within := r < t.tileRows c.srcCoord
    half (if within then some ((t.span i cols).1, cols * t.bits / 8) else none) (c.base + r * rb) rb 0 ++
    (if t.scl then
      half (if within then some ((t.scaleSpan i cols).1, cols / 32) else none)
        (c.base + t.tr * rb + r * t.tw / 32) (t.tw / 32) 0x7F
     else []))

/-- The requests of a copying command: reads of a far source, then writes of a far destination or landings (R332,
R334). -/
def Cmd.copyReqs (c : Cmd) (id : Nat) (kind : ReqKind) : List Req :=
  (if c.src.loc == 1 then
    (cutSpans (c.sourceSpans Tensor.none)).map (fun p => c.req id .cpySrc p.2.1 p.2.2 false p.1)
   else []) ++
  (cutSpans (c.dst.tileSpans c.dstCoord)).map (fun p =>
    if c.dst.loc == 1 then c.req id kind p.2.1 p.2.2 true p.1 else c.local_ id kind p.2.1 p.2.2 p.1 none)

/-- The requests of a chain: every line of every entry is translated (R200). -/
def Cmd.chainReqs (c : Cmd) (id : Nat) : List Req :=
  c.hops.zipIdx.flatMap (fun h =>
    (linePieces h.1.1 (chainBytes c h.1.2)).map (fun x => c.req id .chain x.1 x.2 h.1.2 h.2))
where
  /-- Bytes of an operand (R199). -/
  chainBytes (c : Cmd) (dst : Bool) : Nat :=
    let n := bits c.chain.toNat 32 16
    if c.kind == .mfill then n * 4
    else n * tensorBits (if dst then bits c.chain.toNat 14 6 else bits c.chain.toNat 8 6) / 8

/-- The requests a command forms when it issues; RATM keeps its address in `srcCoord`. -/
def Cmd.forms (c : Cmd) (id : Nat) : List Req :=
  match c.kind with
  | .fpost => if c.src.loc == 1 then c.fetchReqs id (c.src.tw * c.src.bits / 8) else c.copyReqs id .fpost
  | .wpost => c.copyReqs id .wpost
  | .cpy => c.copyReqs id .cpyDst
  | .ratm => [c.req id .ratm c.srcCoord.toNat c.size (c.op != 0xC) c.base]
  | .mred | .mfill => c.chainReqs id
  | .copyList => []

/-! ### From the checks to the issue -/

/-- The checks have passed: the command keeps its snapshots and holds its identifiers (R329). -/
def startCmd (s : State) (c : Cmd) : Nat × State :=
  let id := s.nextId
  let s := s.onUnit c.unit (fun r => { r with
    tids := r.tids.map (fun (x : Nat × TidEntry) => (x.1, { x.2 with holders := x.2.holders + c.holds.count x.1 })) })
  (id, { s with nextId := id + 1, cmds := s.cmds.put id c }.onThread s.cur (·.setStage (.issuing id)))

/-- A command belongs to the team that issues it, where that team is now: it may have been moved while it waited. -/
def Cmd.issuedBy (c : Cmd) (a : Agent) : Cmd :=
  match a with
  | .team core slot => { c with agent := a, core, slot }
  | _ => c

/-- The command takes its log entry and forms its requests (R330). -/
def issueCmd (s : State) (id : Nat) (c : Cmd) : State :=
  let c := c.issuedBy s.cur
  settleLog (addReqs ({ s with cmds := s.cmds.put id c }.onTeam c.core c.slot (fun t =>
    { t with opLog := t.opLog ++ [id] })) (c.forms id)) id

/-- The armed slot that a CPY destination or a RATM landing reaches: window and slot (R67). -/
def Cmd.reachesArmed (c : Cmd) (u : UnitRec) : Option (Nat × Nat) :=
  match c.kind with
  | .cpy => if c.dst.loc == 0 then (c.dst.tileSpans c.dstCoord).findSome? (fun p => u.armedAt p.2.1 p.2.2) else none
  | .ratm => u.armedAt c.base c.size
  | _ => none

/-- A command under a tag: log entry, then the tag's count (R329, R330, R89). It issues behind
what a fence and its release order before it (R156, R159). A write that would reach a slot armed
while it waited is refused at its issue (R67, R335). -/
def tagIssue (s : State) (id : Nat) (c : Cmd) : Result :=
  withTeam s (fun core slot t u =>
    if commandHeld s core slot t c.rel then .next (block s .laneStream)
    else if 16 ≤ t.opLog.length then .next (block s .operandLog)
    else if 255 ≤ (u.tag c.tag).out then .next (block s (.tagRoom c.tag))
    else match c.reachesArmed u with
    | some (w, j) =>
      windowTrap ((dropIssuing s t).onThread s.cur (fun th =>
        { th with stage := th.stage.del th.spc.toNat, wait := .none })) w j 0x07
    | none =>
      let s := setTag s c.unit c.tag (fun x => { x with out := x.out + 1, rdy := false })
      .next (tagsChanged (retire (issueCmd s id c)) c.unit))

/-- A tagged command that waits to issue, or its checks `k`. -/
def withIssuing (s : State) (k : Result) : Result :=
  match (match s.thread s.cur with | some th => th.at_ | none => none) with
  | some (.issuing id) => match s.cmds.find id with
    | some c => tagIssue s id c
    | none => k
  | _ => k

/-- Start a tagged command and issue it as soon as it can. -/
def startTagged (s : State) (c : Cmd) : Result :=
  let r := startCmd s c
  tagIssue r.2 r.1 c

/-- The snapshot of an identifier, without the check of a view (R99, R100). -/
def withBound (s : State) (id : Nat) (k : Tensor → Result) : Result :=
  let e := tidEntry s s.cur id
  if (tidTable s s.cur).1 ≤ id then tensorTrap s id 0x01
  else if e.binding then .next (block s (.holders id))
  else match e.snap with
    | none => tensorTrap s id 0x02
    | some t => k t

/-- A view waits for a bind of its source in progress; one whose source no longer meets its conditions is refused at
use (R100, R104). R61, R334 and R358 give VIEW no place among their checks: FPOST and MX MUL make it after LOCATION, CPY
before it (DESIGN CHOICE, log 110). -/
def withView (s : State) (id : Nat) (t : Tensor) (k : Result) : Result :=
  if t.loc == 2 && (tidEntry s s.cur t.src).binding then .next (block s (.holders t.src))
  else if t.loc == 2 && !viewOk t (viewSource s s.cur t) then tensorTrap s id 0x08 else k

/-- The identifiers a use of `id` holds: a view holds its source as well (R62). -/
def holdsOf (id : Nat) (t : Tensor) : List Nat := id :: (if t.loc == 2 then [t.src] else [])

/-! ### FPOST -/

/-- Writes issued earlier by the unit toward a range that are not performed: CPY writes, RATM landings and MX STORE
writes (R61, R335, R361). -/
def writesToward (s : State) (u off n : Nat) : Bool :=
  s.reqs.any (fun e =>
    (match s.cmds.find e.2.cmd with | some c => c.unit == u | none => false) &&
    ((e.2.kind == .cpyDst && e.2.zero) || e.2.kind == .ratm) && overlaps e.2.dest e.2.len off n) ||
  s.clusters.any (fun k => k.2.ops.any (fun o => o.kind == .store && o.a.snap.unit == u &&
    ({ o.a.snap with tw := 64, tr := 64 }.tileSpans o.a.coord).any (fun p => overlaps p.2.1 p.2.2 off n)))

/-- Whether a post that holds a peg has chosen the slot and not armed it yet. -/
def slotChosen (s : State) (u w j : Nat) : Bool :=
  (s.teams.map (·.2) ++ (match s.unit u with | some r => r.savedTeams.map (·.2) | none => [])).any (fun t =>
    t.unit == u && t.th.stage.any (fun e => match e.2 with
      | .issuing id => (match s.cmds.find id with
        | some c => c.pegged && c.win == w && c.winSlot == j
        | none => false)
      | _ => false))

/-- The first FREE slot in cyclic order from NEXT that no waiting post has chosen: as R57 counts, a slot holds one peg
(R57, R61, log 108). -/
def chooseSlot (s : State) (u w : Nat) (x : Win) : Nat :=
  (((List.range x.slots).map (fun j => (x.next_ + j) % x.slots)).find? (fun j =>
    x.slotState j == .free && !slotChosen s u w j)).getD 0

/-- The post result (R61). -/
def postResult (slot bn : Nat) (phase : Bool) : Word64 :=
  BitVec.ofNat 64 (slot + bn * 2 ^ 16 + (if phase then 2 ^ 31 else 0))

/-- The slot is armed and the fetch issued (R61). -/
def fpostArm (s : State) (id : Nat) (c : Cmd) (u : UnitRec) : State :=
  let x := u.win c.win
  let bn := x.bar0 + c.winSlot
  let b := u.bar bn
  let s := s.setUnit c.unit { u with
    bars := u.bars.put bn { b with expected := x.bytes, arrived := 0 },
    windows := u.windows.put c.win (x.setSlotState c.winSlot .armed) }
  retireWith (issueCmd s id c) (BitVec.ofNat 5 c.op) (postResult c.winSlot bn b.phase)

/-- Whether the window is still as the post found it. -/
def Cmd.fitsWindow (c : Cmd) (x : Win) : Bool :=
  x.slots != 0 && c.src.fmt == x.fmt && c.src.scl == x.scl && c.src.tr == x.tr && c.src.tw == x.tw

/-- The waits of a post whose checks have passed: a peg, earlier writes toward the slot, a log entry (R61). Of a window
that was configured anew while the post waited for a peg R61 says nothing: the post goes on while its tile still fits, else
it begins again with its checks (DESIGN CHOICE, log 96). -/
def fpostGo (s : State) (id : Nat) (c : Cmd) : Result :=
  withTeam s (fun core slot t u =>
    let x := u.win c.win
    let go (s : State) (c : Cmd) (u : UnitRec) : Result :=
      if commandHeld s core slot t false then .next (block s .laneStream)
      else if writesToward s c.unit (x.slotBase c.winSlot) x.stride then .next (block s (.slotWrites c.win c.winSlot))
      else if 16 ≤ t.opLog.length then .next (block s .operandLog)
      else .next (fpostArm s id c u)
    if c.pegged then go s c u
    else if !c.fitsWindow x then
      .next ((dropIssuing s t).onThread s.cur (fun th =>
        { th with stage := th.stage.del th.spc.toNat, wait := .none }))
    else if x.freePegs == 0 then .next (block s (.peg c.win))
    else
      let j := chooseSlot s c.unit c.win x
      let w : Win := { x with freePegs := x.freePegs - 1, next_ := (j + 1) % x.slots }
      let v := { u with windows := u.windows.put c.win w }
      let d : Tensor := { Tensor.none with
        tw := x.tw, tr := x.tr, fmt := x.fmt, base := x.slotBase j, dims := [x.tw, x.tr, 1, 1], pitch := [x.rb, 0, 0] }
      let c := { c with pegged := true, winSlot := j, base := x.slotBase j, dst := d }
      let s := s.setUnit c.unit v
      go { s with cmds := s.cmds.put id c } c v)

/-- FPOST: every check comes before the first wait (R58 to R63). -/
def execFpost (d a b : BitVec 5) (sc : BitVec 3) (q : BitVec 1) (s : State) : Result :=
  if 4 < sc.toNat then illegalWord s (.fpost d a b sc q) 0x17
  else match (match s.thread s.cur with | some th => th.at_ | none => none) with
  | some (.issuing id) => (match s.cmds.find id with
    | some c => fpostGo s id c
    | none => .next (s.onThread s.cur (fun th => { th with stage := th.stage.del th.spc.toNat })))
  | _ => withTeam s (fun c sl t u => withRegs s [a, b, d] (fun th =>
    let ctl := (th.rd b).toNat
    let w := bits ctl 8 4
    let sid := bits ctl 0 8
    let x := u.win w
    if u.need.wins ≤ w then windowTrap s w 0 0x01
    else if x.slots == 0 then windowTrap s w 0 0x02
    else withBound s sid (fun t0 =>
      if !(t0.loc == 1 || t0.loc == 2) then tensorTrap s sid 0x04
      else withView s sid t0 (
        let cmd := { Cmd.make .fpost s.cur c sl t u with
          scope := sc.toNat, acq := q == 1, win := w, src := t0, srcCoord := th.rd a,
          via := (viewSource s s.cur t0).getD Tensor.none, holds := holdsOf sid t0,
          op := d.toNat }
        if !cmd.fitsWindow x then tensorTrap s sid 0x09
        else if !t0.originOk (th.rd a) then tensorTrap s sid 0x0A
        else
          let r := startCmd s cmd
          fpostGo r.2 r.1 cmd))))

/-- FPOST_ARM: a team blocked in FPOST goes on once its waits have ended (R61, R76); one that a save has taken tests
them again at its resume (R75). -/
def execFpostArm (core slot : Nat) (s : State) : Result :=
  match s.team core slot with
  | none => .next s
  | some t => match t.th.at_ with
    | some (.issuing id) => (match s.cmds.find id with
      | some c =>
        if c.kind != .fpost || t.th.wait == .none || 1024 ≤ core || t.set_ == .saved then .next s
        else match fpostGo { s with cur := .team core slot } id c with
          | .next s1 => .next { s1 with cur := s.cur }
          | r => r
      | none => .next s)
    | _ => .next s

/-! ### WPOST, CPY, RATM -/

/-- WPOST (R331, R332). -/
def execWpost (a b : BitVec 5) (sc : BitVec 3) (l : BitVec 1) (s : State) : Result :=
  if 4 < sc.toNat then illegalWord s (.wpost a b sc l) 0x17
  else withIssuing s (withTeam s (fun c sl t u => withRegs s [a, b] (fun th =>
    let ctl := (th.rd b).toNat
    let dt := bits ctl 0 8
    let st := bits ctl 8 8
    let tg := bits ctl 16 6
    if u.need.tags ≤ tg then tagTrap s tg 0x01
    else withBound s dt (fun d => withBound s st (fun q =>
      if d.loc != 1 then tensorTrap s dt 0x04
      else if q.loc != 0 then tensorTrap s st 0x04
      else if d.fmt != q.fmt || d.scl != q.scl || q.dim 0 < d.tw || q.dim 1 < d.tr then tensorTrap s dt 0x09
      else if !d.originOk (th.rd a) then tensorTrap s dt 0x0A
      else startTagged s { Cmd.make .wpost s.cur c sl t u with
        tag := tg, scope := sc.toNat, rel := l == 1, dst := d, dstCoord := th.rd a, src := q,
        holds := [dt, st] })))))

/-- CPY (R333 to R335). -/
def execCpy (a b c : BitVec 5) (sc : BitVec 3) (l q : BitVec 1) (s : State) : Result :=
  if 4 < sc.toNat then illegalWord s (.cpy a b c sc l q) 0x17
  else withIssuing s (withTeam s (fun co sl t u => withRegs s [a, b, c] (fun th =>
    let ctl := (th.rd a).toNat
    let dt := bits ctl 0 8
    let st := bits ctl 8 8
    let tg := bits ctl 16 6
    if u.need.tags ≤ tg then tagTrap s tg 0x01
    else withBound s dt (fun d => withBound s st (fun e => withView s st e (
      if 1 < d.loc then tensorTrap s dt 0x04
      else if d.fmt != e.fmt || d.scl != e.scl || d.tr != e.tr || d.tw != e.tw then tensorTrap s dt 0x09
      else if !d.originOk (th.rd b) then tensorTrap s dt 0x0A
      else if !e.originOk (th.rd c) then tensorTrap s st 0x0A
      else
        match (if d.loc == 0 then (d.tileSpans (th.rd b)).findSome? (fun p => u.armedAt p.2.1 p.2.2) else none) with
        | some (w, j) => windowTrap s w j 0x07
        | none => startTagged s { Cmd.make .cpy s.cur co sl t u with
            tag := tg, scope := sc.toNat, acq := q == 1, rel := l == 1, dst := d, dstCoord := th.rd b, src := e,
            srcCoord := th.rd c, via := (viewSource s s.cur e).getD Tensor.none, holds := dt :: holdsOf st e }))))))

/-- Whether RATM has the op at the size (R256). -/
def ratmOpOk (o : BitVec 4) (z : BitVec 1) : Bool := o.toNat < 0xE && !(o == 0xB && z == 1)

/-- RATM (R336, R337). -/
def execRatm (d a b c : BitVec 5) (l z : BitVec 1) (o : BitVec 4) (s : State) : Result :=
  if !ratmOpOk o z then illegalWord s (.ratm d a b c l z o) 0x10
  else withIssuing s (withTeam s (fun co sl t u => withRegs s [d, a, b, c] (fun th =>
    let n := if z == 1 then 8 else 4
    let off := bits (th.rd d).toNat 0 24
    let tg := bits (th.rd d).toNat 24 6
    if u.need.tags ≤ tg then tagTrap s tg 0x01
    else withOffset s u off n (
      if (th.rd a).toNat % n != 0 then illegal s (th.rd a).toNat 0x23
      else startTagged s { Cmd.make .ratm s.cur co sl t u with
        tag := tg, scope := 4, rel := l == 1, base := off, srcCoord := th.rd a, op := o.toNat, size := n,
        operand := th.rd b, compare := th.rd c }))))

/-! ### MOD -/

/-- An entry of a chain block: address and word 1 (R199). -/
def chainEntry (bs : List Byte) (j : Nat) : Nat × Nat :=
  (numOfBytes ((bs.drop (16 + 16 * j)).take 8), numOfBytes ((bs.drop (24 + 16 * j)).take 8))

/-- Formats of a reduce chain (R199). -/
def chainFmt (f : Nat) : Bool := f == 4 || f == 5 || f == 6

/-- Whether a chain block is refused with CHAINBAD (R199, R200). -/
def chainBad (bs : List Byte) (mred : Bool) : Bool :=
  let w0 := numOfBytes (bs.take 8)
  let pat := numOfBytes ((bs.drop 8).take 8)
  let n := bits w0 32 16
  let hops := bits w0 28 4
  let es := (List.range hops).map (chainEntry bs)
  let size (dst : Bool) : Nat :=
    if mred then n * tensorBits (if dst then bits w0 14 6 else bits w0 8 6) / 8 else n * 4
  bits w0 48 16 != 0 || bits w0 20 8 != 0 || hops == 0 || n % 64 != 0 || n < 64 || 16384 < n ||
  (if mred then !chainFmt (bits w0 14 6) || !chainFmt (bits w0 8 6) || pat != 0 || hops < 2
   else bits w0 14 6 != 0 || bits w0 8 6 != 0) ||
  es.zipIdx.any (fun e => e.1.2 != (if mred && e.2 + 1 < hops then 0 else 1) || e.1.1 % 128 != 0 ||
    e.1.1 / 65536 != (e.1.1 + size (e.1.2 == 1) - 1) / 65536)

/-- MOD (R198 to R200): the block is read and checked, and the chain issued under its tag. -/
def modChain (a : BitVec 5) (mred : Bool) (s : State) : Result :=
  withIssuing s (withScalarAccess s (fun _ => withTeam s (fun c sl t u => withRegs s [a] (fun th =>
    let off := (th.rd a).toNat
    withWords s u off 16 (
      let hops := bits (numOfBytes (spadRead s u.core (u.spadOff off) 16)) 28 4
      let n := 16 + 16 * hops
      withWords s u off n (withClean s u off n (fun bs s =>
        let w0 := numOfBytes (bs.take 8)
        let tg := bits w0 0 6
        if chainBad bs mred then trapNow s 0x01 0x30
        else if u.need.tags ≤ tg then tagTrap s tg 0x01
        else startTagged s { Cmd.make (if mred then .mred else .mfill) s.cur c sl t u with
          tag := tg, scope := 4, acq := bits w0 7 1 == 1, rel := bits w0 6 1 == 1, src := { Tensor.none with loc := 1 },
          chain := BitVec.ofNat 64 w0, pat := bytesWord ((bs.drop 8).take 8),
          hops := (List.range hops).map (fun j => ((chainEntry bs j).1, (chainEntry bs j).2 == 1)) })))))))

def execMred (a : BitVec 5) (s : State) : Result := modChain a true s
def execMfill (a : BitVec 5) (s : State) : Result := modChain a false s

end Sys2Proof.Machine
end

