-- ==== Sys2Proof/Machine/Bundle.lean ====
section
/-! DEFINITION. The checks of a bundle's header and records, and its refusal (R364, R365, R367, R368). -/

namespace Sys2Proof.Machine
open Sys2Proof

/-- A word of a header or record. -/
def wordAt (l : List Word64) (i : Nat) : Nat := ((l[i]?).getD 0).toNat

def nsub (h : List Word64) : Nat := bits (wordAt h 0) 52 4

/-- The header keeps its format (R364). -/
def headerOk (h : List Word64) : Bool :=
  bits (wordAt h 0) 56 4 == 0 && bits (wordAt h 0) 48 4 == 0 && bits (wordAt h 2) 12 52 == 0 &&
    bits (wordAt h 4) 9 55 == 0 && wordAt h 5 % 64 == 0 && wordAt h 6 == 0 && wordAt h 7 == 0 &&
    1 ≤ nsub h && nsub h ≤ 8 && !(bits (wordAt h 0) 60 2 != 0 && bits (wordAt h 2) 0 12 == 4095)

def recKind (r : List Word64) : Nat := bits (wordAt r 0) 62 2

/-- A record keeps its format, without its NEXT field (R365). -/
def recordOk (r : List Word64) : Bool :=
  match recKind r with
  | 0 => bits (wordAt r 0) 22 26 == 0 && bits (wordAt r 0) 0 22 != 0 && wordAt r 1 % 4 == 0 && wordAt r 2 % 4 == 0 &&
      bits (wordAt r 4) 53 11 == 0 && bits (wordAt r 4) 44 9 ≤ 256 && bits (wordAt r 4) 39 5 ≤ 16 &&
      bits (wordAt r 4) 32 7 ≤ 64 && bits (wordAt r 4) 22 10 ≤ 512 && bits (wordAt r 4) 0 22 ≤ 0x200000 &&
      bits (wordAt r 5) 4 60 == 0 && wordAt r 6 == 0
  | 1 => bits (wordAt r 0) 9 53 == 0 && bits (wordAt r 0) 0 9 ≤ 256 && wordAt r 1 % 4 == 0
  | 2 => bits (wordAt r 0) 16 46 == 0 && bits (wordAt r 0) 0 16 != 0 && wordAt r 1 % 32 == 0 &&
      [2, 3, 4, 5, 6].all (fun i => wordAt r i == 0)
  | _ => false

/-- The vector record of a bundle, decoded (R365). -/
def vecOf (r : List Word64) : VecRec :=
  let w := wordAt r 0
  let d := wordAt r 4
  { ord := bits w 61 1 == 1, aff := bits w 60 1 == 1, gang := bits w 58 2 + 1
    need := { teams := bits w 53 5 + 1, warps := bits w 48 5 + 1, spad := (bits d 0 22 + 4095) / 4096 * 4096,
              bars := bits d 22 10, tags := bits d 32 7, wins := bits d 39 5, tids := bits d 44 9 }
    units := bits w 0 22, entry := BitVec.ofNat 64 (wordAt r 1), lcb := BitVec.ofNat 64 (wordAt r 2)
    arg := BitVec.ofNat 64 (wordAt r 3), dies := BitVec.ofNat 4 (wordAt r 5) }

/-- FIT: one unit cannot fit one core (R367). -/
def recordFits (r : List Word64) : Bool :=
  recKind r != 0 || (vecOf r).need.teams * 32 * (vecOf r).need.warps ≤ 4096

/-- GANG: UNITS, DIES and CMASK (R367). -/
def recordGang (r : List Word64) : Bool :=
  match recKind r with
  | 0 => bits (wordAt r 0) 0 22 % (bits (wordAt r 0) 58 2 + 1) == 0 && bits (wordAt r 5) 0 4 != 0
  | 1 => [3, 4, 5, 6].any (fun i => wordAt r i != 0)
  | _ => true

/-- The NEXT field of record `i` (0 upward) matches NSUB (R365). -/
def nextOk (h : List Word64) (r : List Word64) (i : Nat) : Bool :=
  if i + 1 == nsub h then wordAt r 7 == 0 else wordAt r 7 != 0 && wordAt r 7 % 64 == 0

/-- FORMAT of what has been read: the header and the records so far, one vector record at most (R365, R367). -/
def formatOk (h : List Word64) (rs : List (List Word64)) : Bool :=
  headerOk h && rs.all recordOk && rs.zipIdx.all (fun r => nextOk h r.1 r.2) &&
    (rs.filter (fun r => recKind r == 0)).length ≤ 1

/-- The codes of R367 that apply once reading has ended. -/
def refusalCodes (s : State) (l : Launch) (fault : Bool) : List Nat :=
  (if (s.job l.job).jctx.getLsbD 0 then [] else [1]) ++
  (if l.hdr.isEmpty || formatOk l.hdr l.recs then [] else [2]) ++
  (if l.recs.all recordFits then [] else [3]) ++ (if l.recs.all recordGang then [] else [4]) ++ (if fault then [5] else [])

/-- Whether a level instance that holds a launch has been cancelled; of a header that is not read only the job is known
(R206). -/
def levelsCancelled (s : State) (l : Launch) : Bool :=
  (s.jobCtr.look Counter.zero l.job).cxl || (!l.hdr.isEmpty &&
    ((s.graphs.look Counter.zero l.graphKey).cxl || (s.phases.look Counter.zero l.phaseKey).cxl))

/-- A bundle is refused, or completes with CXL, which its counter shows too (R205, R206, R367). -/
def refuseLaunch (s : State) (id : Nat) (l : Launch) (status : BitVec 8) (reason : Nat) : State :=
  s.setLaunch id { l with st := .completing, status := l.status ||| status, reason, tend := s.now,
                          counter := { l.counter with cxl := l.counter.cxl || status.getLsbD 1 } }

/-- How a bundle that does not start completes: status and REASON. JOBOFF is tested first, as R455 lays down; then a cancel of
a level that holds it; then the other codes of R367. -/
def refusalOf (s : State) (l : Launch) (fault : Bool) : Option (BitVec 8 × Nat) :=
  let cxl := levelsCancelled s l
  match (refusalCodes s l fault).head? with
  | some c => if c == 1 then some (if cxl then 0x12 else 0x10, 1) else if cxl then some (2, 0) else some (0x10, c)
  | none => if cxl then some (2, 0) else none

/-- Reading a bundle has met a fault that is not replayable: it is refused with the lowest code that applies, or completes
with CXL where a cancel has met it (R29, R367, R368). -/
def refuseFault (s : State) (id : Nat) : State :=
  match s.launch id with
  | none => s
  | some l =>
    if l.st != .taken then s
    else match refusalOf s l true with
      | some (st, c) => refuseLaunch s id l st c
      | none => s

end Sys2Proof.Machine
end

