-- ==== Sys2Proof/Machine/Far.lean ====
section
/-! DEFINITION. The translation units: requests, walks and permissions (R10 to R18, R23 to R29, R39, R40), the TLB
and its invalidation (R19 to R22), the fault buffer and replay (R25 to R28), the committed extent and route tables
(R36), and the fills and invalidation of code caches (R47). -/

namespace Sys2Proof.Machine
open Sys2Proof

/-! ### Leaves -/

/-- Whether a TLB entry translates an address of a job. -/
def TlbEntry.covers (e : TlbEntry) (job va : Nat) : Bool := e.job == job && va / 2 ^ pageBits e.size == e.page

/-- Whether a leaf permits a request (R16). Its table does not list what the front end does for itself: its reads need R
and its completion record W, like the reads and writes it lists (DESIGN CHOICE, log 105). -/
def permitted (pte : Word64) (r : Req) : Bool :=
  match r.kind with
  | .code => pte.getLsbD 3
  | .wpost | .cpyDst | .copyDst | .completion => pte.getLsbD 2
  | .ratm => pte.getLsbD 1 && (!r.write || pte.getLsbD 2)
  | .chain => if r.write then pte.getLsbD 2 else pte.getLsbD 1
  | .fpost | .cpySrc | .bind | .header | .record | .list | .copySrc => pte.getLsbD 1

/-- Set bits of a table entry by compare-and-swap against the value read; none when the compare fails (R17). -/
def casEntry (s : State) (pa : Nat) (old new : Word64) : Option State :=
  match physRead s pa 8 with
  | some (bs, false) => if bytesWord bs == old then some (physWriteWords s pa [new]) else none
  | _ => none

/-! ### What a fault does to a request (R24, R29, R338, R200, R366, R367) -/

/-- Replace a request. -/
def setReq (s : State) (id : Nat) (r : Req) : State := { s with reqs := s.reqs.put id r }

/-- Requests of a command of some kinds. -/
def reqsOf (s : State) (cmd : Nat) (p : Req → Bool) : FMap Req := s.reqs.filter (fun e => e.2.cmd == cmd && p e.2)

/-- Every source read of a far-to-anywhere copy is in: the destination bytes are formed (R334). -/
def sourceIn (s : State) (id : Nat) : State :=
  match s.cmds.find id with
  | none => s
  | some c =>
    if c.writing || c.src.loc != 1 || !(reqsOf s id (fun r => r.kind == .cpySrc)).isEmpty then s
    else settleLog (formData s id c (fun a => c.buf.look (0, false) a) Tensor.none) id

/-- Source bytes of a copy have come back. -/
def fillBuf (s : State) (id : Nat) (r : Req) (bs : List (Byte × Bool)) : State :=
  match s.cmds.find r.cmd with
  | none => dropReq s id
  | some c =>
    let buf := bs.zipIdx.foldl (fun (m : FMap (Byte × Bool)) x => m.put (r.va + x.2) x.1) c.buf
    sourceIn (dropReq { s with cmds := s.cmds.put r.cmd { c with buf } } id) r.cmd

/-- A copy command that is not performed (R366). -/
def failCopy (s : State) (cmd : Nat) : State :=
  match s.cmds.find cmd with
  | none => s
  | some c => settleCmd { s with cmds := s.cmds.put cmd { c with flt := true },
                                 reqs := s.reqs.filter (fun e => e.2.cmd != cmd) } cmd

/-- A chain with a fault, once every line has been translated, completes with FLT and no module acts (R200). -/
def settleChain (s : State) (cmd : Nat) : State :=
  match s.cmds.find cmd with
  | none => s
  | some c =>
    let rs := cmdReqs s cmd
    if rs.any (fun e => e.2.untranslated) || !rs.any (fun e => e.2.st == .faulted) then settleLog s cmd
    else
      let s := noteTag (settleLog s cmd) c.unit c.tag 0 0 false true
      settleCmd { s with reqs := s.reqs.filter (fun e => e.2.cmd != cmd) } cmd

/-- A request of an engine command meets a fault that is not replayable (R24, R338). -/
def faultCmd (s : State) (id : Nat) (r : Req) (c : Cmd) (k : Nat) (pte : Word64) : State :=
  let told (s : State) : State := deliverFault s c r.kind.faultKind k r.va
  match r.kind with
  | .wpost | .cpyDst =>
    let s := noteTag s c.unit c.tag 0 0 false true
    let s := if k == 0 then
        { s with cmds := s.cmds.put r.cmd { c with
            lost := c.lost + r.len, lostVa := if c.lost == 0 then r.va else min c.lostVa r.va,
            lostPte := if c.lost == 0 || r.va < c.lostVa then pte else c.lostPte } }
      else told s
    settleCmd (dropReq s id) r.cmd
  | .cpySrc =>
    let s := told (noteTag s c.unit c.tag 0 0 false true)
    settleLog (fillBuf s id r (List.replicate r.len (0, true))) r.cmd
  | .chain => settleChain (told (setReq s id { r with st := .faulted, fkind := k })) r.cmd
  | .ratm => settleLog (told (noteTag (setReq s id { r with st := .faulted, fkind := k }) c.unit c.tag 0 0 false true)) r.cmd
  | _ => settleLog (told (setReq s id { r with st := .faulted, fkind := k })) r.cmd

/-- A request meets a fault that is not replayable: kinds 0 to 4 of R397, or 5, a fault in reading a table (R29). A
completion record that meets one is not written, and its bundle goes on to its signal and entry (DESIGN CHOICE, log 106). -/
def faultReq (s : State) (id : Nat) (r : Req) (k : Nat) (pte : Word64) : State :=
  match r.kind with
  | .code =>
    if r.dest == 1 then dropReq s id
    else setReq s id { r with st := if k == 5 then .stuck else .faulted, fkind := k }
  | .bind => setReq s id { r with st := if k == 5 then .stuck else .faulted, fkind := k }
  | .header | .record | .list => setReq s id { r with st := .faulted, fkind := k }
  | .copySrc | .copyDst => failCopy s r.cmd
  | .completion => (dropReq s id).onLaunch r.cmd (fun l => { l with written := 2 })
  | _ => match s.cmds.find r.cmd with
    | some c => faultCmd s id r c k pte
    | none => dropReq s id

/-! ### Through a leaf -/

/-- Requests of a die for which a walker works (R27). -/
def walkersBusy (s : State) (die : Nat) : Nat :=
  (s.reqs.filter (fun e => e.2.die == die && (e.2.st == .walking || e.2.st == .holding))).length

/-- Begin a walk from the root, when a walker is free (no pointer entry is cached: DESIGN CHOICE, log 91); a prefetch of code is given up instead (R12, R47). -/
def startWalk (s : State) (id : Nat) (r : Req) : State :=
  if r.kind == .code && r.dest == 1 then dropReq s id
  else if walkersBusy s r.die < 64 || r.st == .walking then
    setReq s id { r with st := .walking, level := 3, table := rootOf s r.job }
  else s

/-- The extent lookup of a permitted request (R33, R39, R40). -/
def lookup (s : State) (id : Nat) (r : Req) (e : TlbEntry) : State :=
  match extentOf s (leafPa e.pte e.size r.va) with
  | .noExtent => faultReq s id r 3 e.pte
  | .revoked => faultReq s id r 4 e.pte
  | .routed m a shr =>
    if shr != e.pte.getLsbD 5 then faultReq s id r 1 e.pte
    else
      let s := setReq s id { r with st := .routed, module := m, maddr := a, sq := e.pte.getLsbD 4, level := e.size }
      match r.kind with
      | .chain => settleChain s r.cmd
      | .fpost | .wpost | .cpySrc | .cpyDst | .ratm => settleLog s r.cmd
      | _ => s

/-- A request meets its leaf: permission (R16), D before the first write (R17), then the extent. When far memory
holds another word than the entry, the request walks from the root; the entry stays until it is invalidated or replaced
(R17, R19). -/
def throughLeaf (s : State) (id : Nat) (r : Req) (e : TlbEntry) : State :=
  if !permitted e.pte r then faultReq s id r 0 e.pte
  else if r.write && !e.pte.getLsbD 7 then
    match casEntry s e.at_ e.pte (e.pte ||| 0x80#64) with
    | none => startWalk s id r
    | some s1 =>
      let e1 := { e with pte := e.pte ||| 0x80#64 }
      let d := s1.die r.die
      lookup (s1.setDie r.die { d with tlb := d.tlb.map (fun x => if x == e then e1 else x) }) id r e1
  else lookup s id r e

/-- Whether a destination request may be translated: its data is in the engine (R410, R67); the machine then. -/
def dataReady (s : State) (r : Req) : Option State :=
  if r.kind == .wpost || r.kind == .cpyDst then
    match s.cmds.find r.cmd with
    | some c => prepare s r.cmd c
    | none => some s
  else some s

/-- Whether an earlier replayed request of the same command goes first (R28). -/
def behindReplay (s : State) (id : Nat) (r : Req) : Bool :=
  r.level == 4 && s.reqs.any (fun e => e.1 < id && e.2.cmd == r.cmd && e.2.kind == r.kind &&
    (e.2.st == .walking || e.2.st == .holding || (e.2.st == .fresh && e.2.level == 4)))

/-- Translate one request through the TLB, or give it to a walker (R18, R19). -/
def translate (s : State) (id : Nat) (r : Req) : State :=
  if nonCanon (r.va + r.len - 1) then faultReq s id r 2 0
  else match (s.die r.die).tlb.find? (fun e => e.covers r.job r.va) with
    | some e => throughLeaf s id r e
    | none => startWalk s id r

/-- Whether a request can be translated now: its turn has come, and a walker is free (R18, R27, R28). -/
def translatable (s : State) (id : Nat) (r : Req) : Bool :=
  r.st == .fresh && !r.zero && !behindReplay s id r &&
    (s.reqs.filter (fun e => e.2.die == r.die && e.2.st == .holding)).length < 64

/-- REQUEST_TRANSLATE (R18): nothing while every walker of the die holds a request (R27). -/
def execRequestTranslate (id : Nat) (s : State) : Result :=
  match s.reqs.find id with
  | none => .next s
  | some r =>
    if !translatable s id r then .next s
    else match dataReady s r with
      | none => .next s
      | some s1 => match s1.reqs.find id with
        | none => .next s1
        | some r => .next (translate s1 id r)

/-! ### Walks -/

/-- Core and slot of an agent as records give them, and MCC; a suspended team by the core it left (R25). The front end has
none: its record's CORE and TEAM are open (parkReq). -/
def recordAgent (s : State) : Agent → Nat × Nat × Nat
  | .team c t =>
    if c < 0x10000 then (c, t, 0)
    else match s.unit (c - 0x10000) with
      | some u => (u.core, (u.slots[t]?).getD 0, 0)
      | none => (0, t, 0)
  | .prog c p => (c, p, 1)
  | _ => (0, 0, 0)

def dieFull (d : Die) : Bool := (d.xfbp - d.xfbc).toNat == 1024

/-- Write a fault record and park the request (R23, R25, R26). For a request of the front end (R367), which R25 gives no
CORE and TEAM, and but for the copies of a copy list no KIND, these are free values, KIND one of 0 to 7 (log 58). -/
def parkReq (s : State) (id : Nat) (r : Req) (pte : Word64) : State :=
  let front := r.kind.ofFrontEnd
  let s1 := if front then (freeValue s).2 else s
  let open_ := (freeValue s).1.toNat
  let s := s1
  let d := s.die r.die
  let a := if front then (bits open_ 0 10, bits open_ 10 5, 0) else recordAgent s r.agent
  let kind := if r.kind.hasKind then r.kind.faultKind else bits open_ 15 3
  let w1 := r.job * 2 ^ 56 + a.1 * 2 ^ 46 + a.2.1 * 2 ^ 41 + r.level * 2 ^ 38 + kind * 2 ^ 34 +
    (if r.write then 2 ^ 33 else 0) + a.2.2 * 2 ^ 32 + d.faultSeq.toNat
  raiseFirmware (setReq (s.setDie r.die { d with
    xfb := d.xfb.put (d.xfbp.toNat % 1024) [BitVec.ofNat 64 r.va, BitVec.ofNat 64 w1, pte, 0],
    xfbp := d.xfbp + 1, faultSeq := d.faultSeq + 1 }) id { r with st := .parked }) 0

/-- NOTPRESENT: parked with a record, or held by its walker while the buffer is full; `table` then keeps the entry
read (R23, R27). -/
def notPresent (s : State) (id : Nat) (r : Req) (pte : Word64) : State :=
  if dieFull (s.die r.die) then setReq s id { r with st := .holding, table := pte.toNat } else parkReq s id r pte

/-- Install a leaf; a full TLB gives up an entry (R19, log 9). One that holds an entry for the page keeps it: only an
invalidation or capacity replacement removes it (R19, log 93). -/
def tlbInstall (s : State) (die : Nat) (e : TlbEntry) : State :=
  let d := s.die die
  let tlb := match Config.tlbVictim die d.tlb.length with
    | some n => if 32768 ≤ d.tlb.length then d.tlb.eraseIdx (n % 32768) else d.tlb
    | none => if 32768 ≤ d.tlb.length then d.tlb.tail else d.tlb
  if d.tlb.any (fun x => x.job == e.job && x.size == e.size && x.page == e.page) then s
  else s.setDie die { d with tlb := tlb ++ [e] }

/-- Whether an invalidation in progress covers a leaf that a walk it waits for has read (R21). -/
def invHits (d : Die) (id : Nat) (e : TlbEntry) : Bool :=
  match d.inv with
  | none => false
  | some v => v.waits.contains id &&
    (match v.scope with
     | 1 => e.job == v.job
     | 2 => e.job == v.job && (v.size == 3 || v.size == e.size) && e.page == v.va / 2 ^ pageBits e.size
     | _ => true)

/-- A walk has read a leaf: A is set, the leaf installed, and the request goes through it (R17). -/
def walkLeaf (s : State) (id : Nat) (r : Req) (pte : Word64) (pa : Nat) : State :=
  let e : TlbEntry := ⟨r.job, r.level, r.va / 2 ^ pageBits r.level, pte ||| 0x40#64, pa⟩
  let d := s.die r.die
  if invHits d id e then
    let d := { d with inv := d.inv.map (fun v => { v with waits := setDel v.waits id }) }
    startWalk (s.setDie r.die d) id r
  else
    match (if pte.getLsbD 6 then some s else casEntry s pa pte (pte ||| 0x40#64)) with
    | none => startWalk s id r
    | some s1 => throughLeaf (tlbInstall s1 r.die e) id { r with st := .fresh } e

/-- PAGE_TABLE_WALK (R12 to R15, R17, R23, R29): one entry is read. -/
def execPageTableWalk (id : Nat) (s : State) : Result :=
  match s.reqs.find id with
  | none => .next s
  | some r =>
    if r.st != .walking then .next s
    else
      let pa := r.table + 8 * tableIndex r.level r.va
      match physRead s pa 8 with
      | some (bs, false) =>
        let pte := bytesWord bs
        if !pte.getLsbD 0 then .next (notPresent s id r pte)
        else if malformed pte r.level then .next (faultReq s id { r with st := .fresh } 1 pte)
        else if bits pte.toNat 8 2 == 3 then
          .next (setReq s id { r with level := r.level - 1,
                                      table := bits pte.toNat 16 36 * 65536 + bits pte.toNat 12 4 * 4096 })
        else .next (walkLeaf s id r pte pa)
      | _ =>
        let s := if r.kind == .header || r.kind == .record then refuseFault s r.cmd else s
        .next (faultReq (jobFatal s r.job 1 (BitVec.ofNat 64 pa)) id { r with st := .fresh } 5 0)

/-! ### Invalidation (R20 to R22) -/

/-- Whether an invalidation covers an address of a job. -/
def Invalidation.coversVa (v : Invalidation) (job va : Nat) : Bool :=
  match v.scope with
  | 1 => job == v.job
  | 2 => job == v.job && [0, 1, 2].any (fun z => (v.size == 3 || v.size == z) && va / 2 ^ pageBits z == v.va / 2 ^ pageBits z)
  | _ => true

/-- A write of XINVC with a scope; nothing while one is in progress. JOB and SIZE are kept as written (R20). -/
def invalidate (s : State) (die scope job size : Nat) : State :=
  let d := s.die die
  if d.inv.isSome then s
  else
    let v : Invalidation := ⟨scope, job, size, d.xinva.toNat, []⟩
    let gone (e : TlbEntry) : Bool :=
      match scope with
      | 1 => e.job == job
      | 2 => e.job == job && (size == 3 || size == e.size) && e.page == d.xinva.toNat / 2 ^ pageBits e.size
      | _ => true
    let waits := (s.reqs.filter (fun e => e.2.die == die && !e.2.zero &&
      (((e.2.st == .walking || e.2.st == .holding) && (scope == 3 || e.2.job == job)) ||
       (e.2.st == .routed && v.coversVa e.2.job e.2.va)))).map (·.1)
    s.setDie die { d with tlb := d.tlb.filter (fun e => !gone e), inv := some { v with waits },
                          xinvc := BitVec.ofNat 64 (2 ^ 63 + job * 256 + size * 4) }

/-- INVALIDATE_JOB (R20). -/
def execInvalidateJob (die : Nat) (job : BitVec 6) (size : BitVec 2) (s : State) : Result :=
  .next (invalidate s die 1 job.toNat size.toNat)

/-- INVALIDATE_ADDRESS (R20). -/
def execInvalidateAddress (die : Nat) (job : BitVec 6) (size : BitVec 2) (s : State) : Result :=
  .next (invalidate s die 2 job.toNat size.toNat)

/-- INVALIDATE_ALL (R20). -/
def execInvalidateAll (die : Nat) (job : BitVec 6) (size : BitVec 2) (s : State) : Result :=
  .next (invalidate s die 3 job.toNat size.toNat)

/-- A walk or translated request that an invalidation waits for has ended (R21). -/
def invOver (s : State) (id : Nat) : Bool :=
  match s.reqs.find id with
  | none => true
  | some r => !(r.st == .walking || r.st == .holding || r.st == .routed)

/-- INVALIDATION_DONE: BUSY clears once every walk and request it waits for has ended (R21). -/
def execInvalidationDone (die : Nat) (s : State) : Result :=
  let d := s.die die
  match d.inv with
  | none => .next s
  | some v =>
    if v.waits.all (invOver s) then
      .next (s.setDie die { d with inv := none, xinvc := d.xinvc &&& 0x7FFFFFFFFFFFFFFF#64 })
    else .next s

/-! ### Replay and the fault buffer (R26 to R28) -/

/-- REPLAY: every parked request of the job on the die is translated again, in order within its command (R28). -/
def execReplay (die : Nat) (job : BitVec 6) (s : State) : Result :=
  .next { s with reqs := s.reqs.map (fun (e : Nat × Req) =>
    if e.2.die == die && e.2.job == job.toNat && e.2.st == .parked then (e.1, { e.2 with st := .fresh, level := 4 })
    else e) }

/-- FAULT_BUFFER_CONSUME: records are consumed, and requests that walkers hold write theirs (R26, R27). -/
def execFaultBufferConsume (die : Nat) (w : BitVec 11) (s : State) : Result :=
  let d := s.die die
  let s := s.setDie die { d with xfbc := w }
  let held := s.reqs.filter (fun e => e.2.die == die && e.2.st == .holding)
  .next (held.foldl (fun s e =>
    if dieFull (s.die die) then s else parkReq s e.1 e.2 (BitVec.ofNat 64 e.2.table)) s)

/-! ### Extent and route tables (R36) -/

/-- Module extents that the staged tables grant and the committed ones do not: a grant ends a revoke (R37, R202). -/
def newGrants (s : State) : List (Nat × Nat) :=
  s.extStaged.flatMap (fun (e : Nat × Word64) =>
    if e.1 % 2 != 0 then []
    else
      let old := (s.extLive.look 0 e.1).toNat
      let w0 := e.2.toNat
      let w1 := (s.extStaged.look 0 (e.1 + 1)).toNat
      ((List.range 8).filter (fun i => bits w0 (48 + i) 1 == 1 && bits old (48 + i) 1 == 0)).map
        (fun i => (bits w0 56 8, extentMe w0 w1 i)))

/-- EXTCOMMIT: the staged tables are published; nothing while BUSY (R36). -/
def execExtcommit (s : State) : Result :=
  if s.extBusy then .next s
  else
    let g := newGrants s
    .next { s with extLive := s.extStaged, mrtLive := s.mrtStaged, extBusy := true,
                   modRevoked := s.modRevoked.filter (fun x => !g.contains x) }

/-- EXTCOMMIT_DONE (R36). -/
def execExtcommitDone (s : State) : Result :=
  if s.extBusy then .next (bootExtents { s with extBusy := false }) else .next s

/-! ### Code caches (R47) -/

/-- CODE_INVALIDATE: every code cache is emptied, and fills that have read their line read it again (R47). -/
def execCodeInvalidate (s : State) : Result :=
  .next { s with code := [], cinv := false, reqs := s.reqs.map (fun (e : Nat × Req) =>
    if e.2.kind == .code && e.2.st == .returned then (e.1, { e.2 with st := .fresh, leg := .home, level := 3, data := [], psn := [] })
    else e) }

/-- A stream that waits for a line of code. -/
def waitsCode (s : State) (a : Agent) (line : Nat) : Option Thread :=
  match s.thread a with
  | some th => (match th.wait with
    | .code va => if va / 128 * 128 == line then some th else none
    | _ => none)
  | none => none

/-- The lines a code cache holds, as key / 128. -/
def cacheLines (s : State) (cache : Nat) : List Nat :=
  ((s.code.filter (fun e => e.1 / 2 ^ 70 == cache && e.1 % 128 == 0)).map (·.1 / 128))

/-- A code cache gives up a line when its 256 KiB are full, or earlier, by a replacement the manual leaves open (R47,
log 92). -/
def giveUpLine (s : State) (cache : Nat) : State :=
  let ls := cacheLines s cache
  let drop (n : Nat) : State := match ls[n]? with
    | some k => { s with code := s.code.filter (fun e => e.1 / 128 != k) }
    | none => s
  match Config.codeVictim cache s.nextId with
  | some n => drop (n % max 1 ls.length)
  | none => if 2048 ≤ ls.length then drop 0 else s

/-- Put a line into the cache of its requester. -/
def installLine (s : State) (r : Req) : State :=
  let key := (cacheOf r.agent * 64 + r.job) * 2 ^ 64 + r.va
  let s := if (s.code.find key).isSome then s else giveUpLine s (cacheOf r.agent)
  { s with code := (List.range 32).foldl (fun (m : FMap Word32) j =>
      m.put (key + 4 * j) (BitVec.ofNat 32 (numOfBytes ((r.data.drop (4 * j)).take 4)))) s.code }

/-- The trap of a code fetch that could not be filled, taken precisely by the stream that waits for it; a lane word's
comes once the words before it have completed their passes (R47, R245, R391). -/
def codeTrap (s : State) (id : Nat) (r : Req) (cause : Nat) (info : Word64) : State :=
  match waitsCode s r.agent r.va with
  | none => dropReq s id
  | some th =>
    match r.agent, th.at_ with
    | .team c sl, some (.vrun _) => (match s.team c sl with
      | some t =>
        if passesDone t then
          takeTrap ((dropReq s id).onThread r.agent (fun th => { th with stage := th.stage.del th.spc.toNat }))
            r.agent cause 0 th.spc (some t.lpc) info
        else s
      | none => dropReq s id)
    | _, _ => takeTrap (dropReq s id) r.agent cause 0 th.spc none info

/-- CODE_CACHE_FILL: the line is installed, or the fetch traps (R47). -/
def execCodeCacheFill (id : Nat) (s : State) : Result :=
  match s.reqs.find id with
  | none => .next s
  | some r =>
    if r.kind != .code then .next s
    else match r.st with
      | .returned =>
        if r.leg != .back then .next s
        else if r.psn.contains true then .next (codeTrap s id r 0x06 3)
        else .next ((dropReq (installLine s r) id).onThread r.agent (fun th =>
          match th.wait with
          | .code va => if va / 128 * 128 == r.va then { th with wait := .none } else th
          | _ => th))
      | .faulted => .next (codeTrap s id r (if r.fkind == 4 then causeRevoked else causeXlate)
          (asyncWord 6 r.fkind (match waitsCode s r.agent r.va with
            | some th => (match th.wait with | .code va => va | _ => r.va)
            | none => r.va)))
      | _ => .next s

end Sys2Proof.Machine
end

