-- ==== Sys2Proof/Machine/Landing.lean ====
section
/-! DEFINITION. What modules do with requests (R33, R155, R190, R202, R203, R337, R386, R464) and with chains (R201),
landings in scratchpad or through a darning entry (R64, R73, R168, R415), and write acknowledgements (R89). -/

namespace Sys2Proof.Machine
open Sys2Proof

/-! ### Bytes with masks and poison -/

/-- Bytes of a request: value, mask of the bits it gives, poison. -/
def Req.cells (r : Req) : List (Byte × Byte × Bool) :=
  if r.st == .faulted then List.replicate r.len (0, 0xFF, true)
  else r.data.zipIdx.map (fun d => (d.1, (r.mask[d.2]?).getD 0xFF, r.revoked || (r.psn[d.2]?).getD false))

def anyPoison (cs : List (Byte × Byte × Bool)) : Bool := cs.any (·.2.2)

/-- Write the cells that lie in one 8-byte word: poison takes the whole word, a byte given in part keeps its other
bits and clears no poison (R82, R464). -/
def writeWord (rd : State → Nat → Byte) (wr : State → Nat → List Byte → Bool → State) (s : State) (k : Nat)
    (cs : List (Byte × Byte × Bool)) : State :=
  let bs := cs.zipIdx.map (fun (c : (Byte × Byte × Bool) × Nat) =>
    (c.1.1 &&& c.1.2.1) ||| (rd s (k + c.2) &&& ~~~c.1.2.1))
  if anyPoison cs then wr s k bs true
  else if cs.all (fun c => c.2.1 == 0xFF) then wr s k bs false
  else bs.zipIdx.foldl (fun s b => wr s (k + b.2) [b.1] false) s

/-- Write cells from `k` on, word after word. -/
def writeCells (rd : State → Nat → Byte) (wr : State → Nat → List Byte → Bool → State) (s : State) (k : Nat)
    (cs : List (Byte × Byte × Bool)) : State :=
  (wordsOf k cs.length).foldl (fun s w =>
    let a := max k (8 * w)
    writeWord rd wr s a ((cs.drop (a - k)).take (8 * w + 8 - a))) s

/-- The words that cells from `k` on give only in part: their write reads the word first (R81). -/
def partWords (k : Nat) (cs : List (Byte × Byte × Bool)) : List Nat :=
  (wordsOf k cs.length).filter (fun w =>
    let a := max k (8 * w)
    let part := (cs.drop (a - k)).take (8 * w + 8 - a)
    part.length != 8 || part.any (fun c => c.2.1 != 0xFF))

/-- Cells into a core's scratchpad, with the read half of what is narrower than a word (R81). -/
def spadCells (s : State) (core off : Nat) (cs : List (Byte × Byte × Bool)) : State :=
  let s := (partWords off cs).foldl (fun s w => eccRead s core (8 * w) 8) s
  writeCells (fun s k => byteAt s.mem.spad (spadKey core k)) (fun s k bs p => spadWrite s core k bs p) s off cs

/-- Cells into module memory. -/
def moduleCells (s : State) (m a : Nat) (cs : List (Byte × Byte × Bool)) : State :=
  writeCells (fun s k => byteAt s.mem.far (farKey m k)) (fun s k bs p => moduleWrite s m k bs p) s a cs

/-- Cells into far physical memory. -/
def physCells (s : State) (pa : Nat) (cs : List (Byte × Byte × Bool)) : State :=
  writeCells (fun s k => match physRead s k 1 with | some (b :: _, _) => b | _ => 0)
    (fun s k bs p => physWrite s k bs p) s pa cs

/-! ### Order on SQ pages (R40, R163) -/

/-- Agents in the sense of R163: a team by unit and number, a matrix program by its place, the front end for a launch. -/
inductive Issuer where
  | team (unit index : Nat)
  | prog (cluster slot : Nat)
  | front (launch : Nat)
  deriving DecidableEq, Repr

/-- The agent a request belongs to (R40, R163). -/
def reqThread (s : State) (r : Req) : Option Issuer :=
  match r.kind with
  | .bind | .code => (match r.agent with
    | .team c t => (s.team c t).map (fun x => .team x.unit x.index)
    | .prog c p => some (.prog c p)
    | _ => none)
  | .fpost | .wpost | .cpySrc | .cpyDst | .ratm | .chain => (s.cmds.find r.cmd).map (fun c => .team c.unit c.team)
  | .copySrc | .copyDst => (s.cmds.find r.cmd).map (fun c => .front c.launch)
  | .list => (s.copies.find r.cmd).map (fun x => .front x.launch)
  | .header | .record | .completion => some (.front r.cmd)

/-- The place of a request in the program order of its agent: that of its command, else its own. -/
def Req.place (r : Req) (id : Nat) : Nat :=
  match r.kind with
  | .fpost | .wpost | .cpySrc | .cpyDst | .ratm | .chain | .copySrc | .copyDst | .bind => r.cmd
  | .code | .header | .record | .list | .completion => id

/-- A far request that has not been performed. -/
def Req.open_ (r : Req) : Bool := !r.zero && (r.untranslated || r.st == .routed)

/-- Whether request `i` comes before `j`: in issue order, the reads of a command before its writes, and in address
order within one command (R163). -/
def Req.before (r q : Req) (i j : Nat) : Bool :=
  r.place i < q.place j ||
    (r.place i == q.place j && ((!r.write && q.write) || (r.write == q.write && r.va < q.va)))

/-- The link a request to a module address takes: one of its module's mask, by the fixed hash (R34, R187). -/
def linkOf (s : State) (m a : Nat) : Option Nat :=
  match s.mrtLive.find? (fun e => e.1 < 16 && bits e.2.toNat 0 1 == 1 && bits e.2.toNat 56 8 == m) with
  | none => none
  | some e => match (List.range 48).filter (fun n => e.2.getLsbD (n + 8)) with
    | [] => none
    | [n] => some n
    | ns => ns[Config.linkHash a % ns.length]?

/-- Whether a request has all arrived at its module (R190, R202). -/
def Req.arrived (r : Req) : Bool := r.st == .routed && r.leg == .there

/-- Whether the response to a request has come back (R190). -/
def Req.answered (r : Req) : Bool := r.st == .returned && (r.zero || r.leg == .back)

/-- Whether an earlier request of its agent to the SQ page of a request, not one of `own`, is open (R40, R163). -/
def sqBehind (s : State) (own : List Nat) (id : Nat) (r : Req) : Bool :=
  r.sq && s.reqs.any (fun e => e.2.open_ && e.2.before r e.1 id && e.2.job == r.job &&
    e.2.va / 2 ^ pageBits r.level == r.va / 2 ^ pageBits r.level && !own.contains e.1 &&
    (reqThread s r).isSome && reqThread s e.2 == reqThread s r)

/-- A request to an SQ page waits while an earlier one of its agent to the page is open (R40, R163). -/
def sqBlocked (s : State) (id : Nat) (r : Req) : Bool := sqBehind s [] id r

/-! ### Reads, writes and atomics at the module -/

/-- READ_REQUEST: data or poison; a read that arrived at a revoked extent answers with poison and status revoked (R33,
R190, R202). -/
def execReadRequest (id : Nat) (s : State) : Result :=
  match s.reqs.find id with
  | none => .next s
  | some r =>
    if !r.arrived || sqBlocked s id r then .next s
    else
      let data := if r.revoked then List.replicate r.len 0 else (moduleRead s r.module r.maddr r.len).1
      let psn := if r.revoked then List.replicate r.len true else modulePoisonBits s r.module r.maddr r.len
      match r.kind with
      | .fpost | .code | .bind | .header | .record | .list | .cpySrc =>
        .next (setReq s id { r with st := .returned, data, psn })
      | .copySrc =>
        if (cmdReqs s r.cmd).any (fun e => e.2.untranslated) then .next s
        else .next (setReq s id { r with st := .returned, data, psn })
      | .wpost | .cpyDst | .copyDst | .ratm | .chain | .completion => .next s

/-- A read response has come back: a revoked fetch has faulted, and the source bytes of a copy are here (R24, R202, R334,
R366). -/
def readBack (s : State) (id : Nat) (r : Req) : State :=
  let bs := r.data.zip r.psn
  match r.kind with
  | .code | .bind | .header | .record | .list =>
    setReq s id (if r.revoked then { r with leg := .back, st := .faulted, fkind := 4 } else { r with leg := .back })
  | .cpySrc => (match s.cmds.find r.cmd with
    | some c =>
      let s := if r.revoked then deliverFault (noteTag s c.unit c.tag 0 0 false true) c 2 4 r.va else s
      fillBuf s id r bs
    | none => dropReq s id)
  | .copySrc => if r.revoked then failCopy s r.cmd else fillBuf s id r bs
  | .fpost | .wpost | .cpyDst | .copyDst | .ratm | .chain | .completion => setReq s id { r with leg := .back }

/-- Perform one write at its module: one that arrived at a revoked extent is dropped (R202). -/
def performWrite (s : State) (id : Nat) (r : Req) : State :=
  if sqBlocked s id r then s
  else if r.revoked then setReq s id { r with st := .returned }
  else moduleCells (setReq s id { r with st := .returned }) r.module r.maddr r.cells

/-- The bytes of a copy command's destination request, from its source (R366). -/
def copyCells (c : Cmd) (r : Req) : List (Byte × Byte × Bool) :=
  (List.range r.len).map (fun j =>
    let x := c.buf.look (0, false) (c.srcCoord.toNat + (r.va + j - c.dstCoord.toNat))
    (x.1, 0xFF, x.2))

/-- Requests of one packet: writes of one command and kind in one 2 KiB block, in address order (R386). -/
def packetOf (s : State) (r : Req) (p : Req → Bool) : FMap Req :=
  (reqsOf s r.cmd (fun q => p q && q.kind == r.kind && !q.zero && q.va / 2048 == r.va / 2048)).mergeSort
    (fun a b => a.2.va ≤ b.2.va)

/-- WRITE_PACKET: the bytes of the packet are performed (R190, R386); a copy command of a list is performed whole or
not at all (R366). -/
def execWritePacket (id : Nat) (s : State) : Result :=
  match s.reqs.find id with
  | none => .next s
  | some r =>
    if !r.arrived then .next s
    else match r.kind with
      | .completion => .next (performWrite s id r)
      | .wpost | .cpyDst => .next ((packetOf s r Req.arrived).foldl (fun s e => performWrite s e.1 e.2) s)
      | .copyDst => (match s.cmds.find r.cmd with
        | none => .next (dropReq s id)
        | some c =>
          let rs := cmdReqs s r.cmd
          if rs.any (fun e => e.2.kind == .copySrc || !e.2.arrived || sqBehind s (rs.map (·.1)) e.1 e.2) then .next s
          else if rs.any (fun e => e.2.revoked) then .next (failCopy s r.cmd)
          else .next (rs.foldl (fun s e =>
            moduleCells (setReq s e.1 { e.2 with st := .returned }) e.2.module e.2.maddr (copyCells c e.2)) s))
      | .fpost | .cpySrc | .ratm | .chain | .code | .bind | .header | .record | .list | .copySrc => .next s

/-- One acknowledged write counts toward its tag (R89, R202). -/
def ackWrite (s : State) (id : Nat) (r : Req) : State :=
  match s.cmds.find r.cmd with
  | none => dropReq s id
  | some c =>
    let s := dropReq s id
    if r.kind == .copyDst then s
    else if r.revoked then deliverFault (noteTag s c.unit c.tag 0 0 false true) c r.kind.faultKind 4 r.va
    else noteTag s c.unit c.tag r.len 0 (r.psn.contains true) false

/-- WRITE_ACK_RECEIVE: the packet's bytes are counted, and its command may complete (R89). -/
def execWriteAckReceive (id : Nat) (s : State) : Result :=
  match s.reqs.find id with
  | none => .next s
  | some r =>
    if !r.answered then .next s
    else if r.kind == .completion then
      .next ((dropReq s id).onLaunch r.cmd (fun l => { l with written := 2 }))
    else if !r.zero && (r.kind == .wpost || r.kind == .cpyDst || r.kind == .copyDst) then
      .next (settleCmd ((packetOf s r Req.answered).foldl (fun s e => ackWrite s e.1 e.2) s) r.cmd)
    else .next s

/-- Whether an atomic to the same word whose first flit arrived earlier has not been performed (R202, R337). -/
def atomicBehind (s : State) (r : Req) : Bool :=
  s.reqs.any (fun e => e.2.kind == .ratm && e.2.st == .routed && (e.2.leg == .begun || e.2.leg == .there) &&
    e.2.module == r.module && e.2.maddr / 8 == r.maddr / 8 && e.2.came < r.came)

/-- ATOMIC_REQUEST: in arrival order, single-copy atomic; a poisoned word is left as it is (R337, R256). -/
def execAtomicRequest (id : Nat) (s : State) : Result :=
  match s.reqs.find id with
  | none => .next s
  | some r =>
    if r.kind != .ratm || !r.arrived || sqBlocked s id r || atomicBehind s r then .next s
    else match s.cmds.find r.cmd, atomDecision s r.module r.maddr r.len with
      | none, _ => .next (dropReq s id)
      | some _, none => .next s
      | some c, some s =>
        let old := moduleRead s r.module r.maddr r.len
        let back (s : State) (psn revoked : Bool) : State :=
          setReq s id { r with st := .returned, data := old.1, psn := List.replicate r.len psn, revoked }
        if r.revoked then .next (back s true true)
        else if old.2 then .next (back s true false)
        else if c.op == 0xC then .next (back s false false)
        else
          let w := 2 ^ (8 * r.len)
          let new := atomicOp (8 * r.len) c.op (numOfBytes old.1) (c.operand.toNat % w) (c.compare.toNat % w)
          .next (back (moduleWrite s r.module r.maddr (bytesOfNum r.len new) false) false false)

/-! ### Chains (R201, R202) -/

/-- Formats of a reduce chain (R199). -/
def chainFp (f : Nat) : FpFmt := if f == 5 then bf16 else if f == 6 then fp16 else fp32

/-- Elements of an operand, as FP32 codes (R143). -/
def chainRead (f : Nat) (bs : List Byte) : List Word32 :=
  let n := tensorBits f / 8
  (List.range (bs.length / n)).map (fun j =>
    BitVec.ofNat 32 (toFloat fp32 .rne ((chainFp f).val (numOfBytes ((bs.drop (n * j)).take n)))).1)

/-- The running sum after one more operand: FP32, RNE, subnormals kept (R143). -/
def chainAdd (sum op : List Word32) : List Word32 :=
  if sum.isEmpty then op
  else (sum.zip op).map (fun p => BitVec.ofNat 32 (fp32.arith .rne false [p.1.toNat, p.2.toNat] (opAdd .rne)).1)

/-- The sum narrowed to the destination format (R143, R139). -/
def chainNarrow (f : Nat) (sum : List Word32) : List Byte :=
  sum.flatMap (fun w => bytesOfNum (tensorBits f / 8) (toFloat (chainFp f) .rne (fp32.val w.toNat)).1)

/-- `n` bytes of a fill: byte i is byte i mod 8 of the pattern. -/
def fillBytes (pat : Word64) (n : Nat) : List Byte :=
  (List.range n).map (fun i => BitVec.ofNat 8 (bits pat.toNat (8 * (i % 8)) 8))

/-- Whether a request of a chain waits for an earlier access of its thread to an SQ page. -/
def chainBlocked (s : State) (id : Nat) : Bool :=
  (cmdReqs s id).any (fun e => e.2.sq && s.reqs.any (fun q => q.2.open_ && q.2.place q.1 < id && q.2.job == e.2.job &&
    q.2.va / 2 ^ pageBits e.2.level == e.2.va / 2 ^ pageBits e.2.level && reqThread s q.2 == reqThread s e.2))

/-- A hop finds its operand revoked: FLT, and EXTENT-REVOKED once (R202). -/
def chainRevoked (s : State) (c : Cmd) (va : Nat) : State := if c.flt then s else deliverFault s c 5 4 va

/-- CHAIN_HOP of command `id`: the first remaining entry is acted on (R201). `size` counts destination bytes. -/
def execChainHop (id : Nat) (s : State) : Result :=
  match s.cmds.find id with
  | none => .next s
  | some c =>
    let rs := cmdReqs s id
    if !(c.kind == .mred || c.kind == .mfill) || c.leg != .there || rs.any (fun e => e.2.st != .routed) ||
        chainBlocked s id then .next s
    else match c.hops[c.hop]? with
      | none => .next s
      | some (va, dst) =>
        let mine := (rs.filter (fun e => e.2.dest == c.hop)).mergeSort (fun a b => a.2.va ≤ b.2.va)
        let turn := if c.kind != .mred then some s
          else mine.foldl (fun r e => r.bind (fun s => atomDecision s e.2.module e.2.maddr e.2.len)) (some s)
        match turn with
        | none => .next s
        | some s =>
        let bad := mine.any (fun e => e.2.revoked || (c.hop != 0 && moduleRevokes s e.2.module e.2.maddr))
        let at_ := match mine with | e :: _ => (e.2.module, e.2.maddr) | [] => c.lastHop
        let c1 := { c with hop := c.hop + 1, flt := c.flt || bad, lastHop := at_ }
        let s := if bad then chainRevoked s c va else s
        let s := { s with reqs := s.reqs.filter (fun e => !(e.2.cmd == id && e.2.dest == c.hop)) }
        let keep (s : State) (c : Cmd) : Result := .next { s with cmds := s.cmds.put id c }
        if dst then
          let bs := if c.kind == .mfill then fillBytes c.pat (bits c.chain.toNat 32 16 * 4)
            else chainNarrow (bits c.chain.toNat 14 6) c.words
          if bad then keep s c1
          else keep (mine.foldl (fun s e => moduleWrite s e.2.module e.2.maddr ((bs.drop (e.2.va - va)).take e.2.len)
              (c.kind == .mred && c.psn)) s)
            { c1 with size := c.size + bs.length }
        else
          let bs := mine.flatMap (fun e =>
            if bad then List.replicate e.2.len 0 else (moduleRead s e.2.module e.2.maddr e.2.len).1)
          let psn := bad || mine.any (fun e => (moduleRead s e.2.module e.2.maddr e.2.len).2)
          keep s { c1 with words := chainAdd c.words (chainRead (bits c.chain.toNat 8 6) bs), psn := c.psn || psn }

/-- CHAIN_COMPLETION of command `id`: the status of every hop, and the destination bytes, go to the tag (R201). -/
def execChainCompletion (id : Nat) (s : State) : Result :=
  match s.cmds.find id with
  | none => .next s
  | some c =>
    if !(c.kind == .mred || c.kind == .mfill) || c.hop != c.hops.length || c.leg != .back ||
        !(cmdReqs s id).isEmpty then .next s
    else .next (settleCmd (noteTag s c.unit c.tag c.size 0 (c.kind == .mred && c.psn) c.flt) id)

/-! ### Landings -/

def State.darning (s : State) (entry : Nat) : Darning :=
  (s.die ((entry - 1) / 64)).darning.look Darning.free ((entry - 1) % 64)
def State.setDarning (s : State) (entry : Nat) (x : Darning) : State :=
  let d := s.die ((entry - 1) / 64)
  s.setDie ((entry - 1) / 64) { d with darning := d.darning.put ((entry - 1) % 64) x }

/-- A FREE darning entry of a die (R415). -/
def freeEntry (s : State) (die : Nat) : Option Nat :=
  ((List.range 64).find? (fun e => ((s.die die).darning.look Darning.free e).state == 0)).map (fun e => 64 * die + e + 1)

/-- A request bound for a unit's allocation: a tile landing, a CPY destination write or a RATM landing (R414). -/
def boundFor (s : State) (u : Nat) (r : Req) : Bool :=
  r.st != .diverted && ((r.kind == .fpost) || (r.kind == .cpyDst && r.zero) || r.kind == .ratm) &&
    (match s.cmds.find r.cmd with | some c => c.unit == u | none => false)

def boundCount (s : State) (u : Nat) : Nat := (s.reqs.filter (fun e => boundFor s u e.2)).length

/-- The entry a fence takes for a lost unit, in state DISCARD; `mark` counts what was in flight (R406, R415). -/
def takeDiscard (s : State) (uid : Nat) (u : UnitRec) (mark pend : Nat) : Option State :=
  match freeEntry s (dieOf u.core) with
  | none => none
  | some e =>
    if pend == 0 then some s
    else
      let x : Darning := { Darning.free with
        state := 5, unit := uid, core := u.core, base4k := u.base4k, size4k := u.need.spad / 4096, job := u.job, pend,
        mark }
      some ((s.setDarning e x).setUnit uid { u with entry := e })

/-- A darning entry closes. -/
def closeEntry (s : State) (uid entry : Nat) : State :=
  (s.setDarning entry Darning.free).onUnit uid (fun u => { u with entry := if u.entry == entry then 0 else u.entry })

/-- An arrival at a darning entry lowers PEND; the last one closes FORWARD and DISCARD (R415). -/
def arriveEntry (s : State) (uid entry req : Nat) : State :=
  let e := s.darning entry
  if e.unit != uid || e.mark ≤ req then s
  else
    let e := { e with pend := e.pend - 1 }
    if e.pend == 0 && (e.state == 4 || e.state == 5) then closeEntry s uid entry else s.setDarning entry e

/-- The entries of a unit: the one it has, and any through which an earlier move still forwards (R415). -/
def entriesOf (s : State) (uid : Nat) : List Nat :=
  s.dies.flatMap (fun d => (d.2.darning.filter (fun e => e.2.unit == uid)).map (fun e => 64 * d.1 + e.1 + 1))

/-- An arrival for a unit passes every entry of it (R415). -/
def arriveAt (s : State) (uid req : Nat) : State :=
  (entriesOf s uid).foldl (fun s k => arriveEntry s uid k req) s

/-- Where an arrival for a unit goes. -/
inductive Landing where
  | wait
  | place
  | image
  | drop
  deriving DecidableEq, Repr

/-- Whether the arrivals of a lost unit have no DISCARD entry yet (R406, R415). -/
def lostOpen (s : State) (u : UnitRec) : Bool :=
  u.st == .ended && s.cmFence.contains u.core && (u.entry == 0 || (s.darning u.entry).state == 4)

/-- The fate of an arrival (R415); a lost unit's waits for an entry (R406). -/
def landingAt (s : State) (uid : Nat) (u : UnitRec) : Landing :=
  let e := s.darning u.entry
  if lostOpen s u then .wait
  else if u.entry == 0 || e.unit != uid then .place
  else match e.state with
    | 1 | 3 => .wait
    | 2 => .image
    | 5 => .drop
    | _ => .place

/-- Counts of a landed piece: its barrier, or its tag (R64, R89, R168). -/
def countLanding (s : State) (r : Req) (c : Cmd) (psn : Bool) : State :=
  match r.kind with
  | .fpost => noteBar s c r.len psn
  | _ => noteTag s c.unit c.tag r.len 0 psn r.revoked

/-- What follows a performed or dropped piece: it counts, and a revoked read's fault is delivered (R64, R89, R202). -/
def landed (s : State) (id : Nat) (r : Req) (c : Cmd) : State :=
  let s := countLanding s r c (anyPoison r.cells)
  let s := if r.revoked then deliverFault s c r.kind.faultKind 4 r.va else s
  settleCmd (dropReq s id) r.cmd

/-- A piece comes to an entry in DIVERT: it is one of the writes that OUT counts until the image has it (R414, R415). -/
def divert (s : State) (id : Nat) (r : Req) (u : UnitRec) : State :=
  let e := s.darning u.entry
  let cs := r.cells
  setReq (s.setDarning u.entry { e with out := e.out + 1 }) id
    { r with st := .diverted, data := cs.map (·.1), mask := cs.map (·.2.1), psn := cs.map (·.2.2) }

/-- An entry whose diverted writes are all in the image: that of a cancelled unit goes on to DISCARD (R415). -/
def divertDone (s : State) (uid entry : Nat) : State :=
  let e := s.darning entry
  let e := { e with out := e.out - 1 }
  let s := s.setDarning entry e
  match s.unit uid with
  | some u =>
    if u.st != .ended || e.state != 2 || e.out != 0 then s
    else if e.pend == 0 then reapUnit (closeEntry s uid entry) uid
    else s.setDarning entry { e with state := 5 }
  | none => s

/-- A diverted write is performed in the shadow image (R168, R414). -/
def landDiverted (s : State) (id : Nat) (r : Req) (c : Cmd) (u : UnitRec) : State :=
  divertDone (landed (physCells s (u.save + shadowOffset u + r.dest) r.cells) id r c) c.unit u.entry

/-- A piece lands: it is performed in place, diverted or dropped (R64, R168, R415). -/
def land (s : State) (id : Nat) (r : Req) (c : Cmd) (u : UnitRec) : State :=
  if r.st == .diverted then landDiverted s id r c u
  else
    let on (s : State) : State := arriveAt s c.unit id
    match landingAt s c.unit u with
    | .wait => s
    | .place => on (landed (spadCells s u.core (u.spadOff r.dest) r.cells) id r c)
    | .image => on (divert s id r u)
    | .drop => on (landed s id r c)

/-- The request a LANDING names once its bytes are known: a piece formed from scratchpad is formed now. -/
def landable (s : State) (r : Req) : Option State :=
  if r.zero && r.st == .fresh then
    match s.cmds.find r.cmd with
    | some c => prepare s r.cmd c
    | none => none
  else if r.answered || r.st == .diverted || (r.st == .faulted && (r.kind == .fpost || r.kind == .ratm)) then some s
  else none

/-- LANDING (R64, R73, R415): an arrival for a lost unit first takes a FREE entry (R406). -/
def execLanding (id : Nat) (s : State) : Result :=
  match s.reqs.find id with
  | none => .next s
  | some r =>
    if !(r.kind == .fpost || r.kind == .ratm || (r.kind == .cpyDst && r.zero)) then .next s
    else match landable s r with
      | none => .next s
      | some s => match s.reqs.find id, s.cmds.find r.cmd with
        | some r, some c => (match s.unit c.unit with
          | none => .next (settleCmd (dropReq s id) r.cmd)
          | some u =>
            match (if lostOpen s u && r.st != .diverted then
              takeDiscard s c.unit u s.nextId (boundCount s c.unit) else none) with
            | none => .next (land s id r c u)
            | some s1 => .next (match s1.unit c.unit with
              | some u1 => land s1 id r c u1
              | none => s1))
        | _, _ => .next s

/-! ### Revocation and module death (R202, R203) -/

/-- MODULE_REVOKE: later requests to the module extent meet it (R202). -/
def execModuleRevoke (module mext : Nat) (s : State) : Result :=
  if s.modRevoked.contains (module, mext) then .next s
  else .next { s with modRevoked := s.modRevoked ++ [(module, mext)] }

/-- A far physical address in an extent of the module; `shr` says which kind (R31). -/
def onModule (s : State) (m : Nat) (shr : Bool) (pa : Nat) : Bool :=
  match extentOf s pa with
  | .routed k _ h => k == m && h == shr
  | _ => false

/-- Entries of a page table that some byte in far memory makes other than zero (R12, R14). -/
def tableWords (s : State) (pa n : Nat) : List Nat :=
  match extentOf s pa with
  | .routed m a _ =>
    ((s.mem.far.filter (fun e => farKey m a ≤ e.1 && e.1 < farKey m a + 8 * n)).map
      (fun e => (e.1 - farKey m a) / 8)).eraseDups
  | _ => []

/-- Whether a leaf of a level maps bytes of an extent with SHR = 0 on the module: a 16 GiB leaf spans 16 extents (R12,
R31). -/
def leafOn (s : State) (m level : Nat) (pte : Word64) : Bool :=
  (List.range (if level == 2 then 16 else 1)).any (fun k =>
    onModule s m false (bits pte.toNat 16 36 * 65536 + k * 2 ^ 30))

/-- Whether a page table of a level, or a table below it, maps bytes of such an extent. -/
def tableOn (s : State) (m : Nat) : Nat → Nat → Bool
  | 0, pa => (tableWords s pa 512).any (fun i =>
      let pte := physWord s (pa + 8 * i)
      pte.getLsbD 0 && !malformed pte 0 && leafOn s m 0 pte)
  | level + 1, pa => (tableWords s pa (if level == 2 then 8192 else 512)).any (fun i =>
      let pte := physWord s (pa + 8 * i)
      pte.getLsbD 0 && !malformed pte (level + 1) &&
        (if bits pte.toNat 8 2 == 3 then tableOn s m level (bits pte.toNat 16 36 * 65536 + bits pte.toNat 12 4 * 4096)
         else leafOn s m (level + 1) pte))

/-- Jobs that hold an extent with SHR = 0 on the module: those whose page tables map bytes of one, and those with a
translation to one in a TLB or a request on its way to one (R203, log 42). -/
def jobsOn (s : State) (m : Nat) : List Nat :=
  (List.range 64).filter (fun j =>
    ((s.job j).jctx.getLsbD 0 && tableOn s m 3 (rootOf s j)) ||
    s.dies.any (fun d => d.2.tlb.any (fun e => e.job == j && leafOn s m e.size e.pte)) ||
    s.reqs.any (fun e => e.2.job == j && e.2.st == .routed && e.2.module == m &&
      (s.dies.all (fun d => d.2.tlb.all (fun t => !(t.covers j e.2.va && t.pte.getLsbD 5))))))

/-- A request in flight toward a dead module: reads return poison, other commands complete with FLT; in a job that
held publish extents only it is reported as revoked (R203). -/
def deadReq (s : State) (id : Nat) (fatal : Bool) : State :=
  match s.reqs.find id with
  | none => s
  | some r =>
    let poison := List.replicate r.len true
    let back : State := setReq s id { r with
      st := .returned, leg := .back, data := List.replicate r.len 0, psn := poison, revoked := !fatal }
    match r.kind, s.cmds.find r.cmd with
    | .fpost, some _ => back
    | .ratm, some c => noteTag back c.unit c.tag 0 0 false true
    | .cpySrc, some c =>
      let s := noteTag s c.unit c.tag 0 0 false true
      fillBuf (if fatal then s else deliverFault s c 2 4 r.va) id r (List.replicate r.len (0, true))
    | .wpost, some c | .cpyDst, some c =>
      let s := noteTag s c.unit c.tag 0 0 false true
      settleCmd (dropReq (if fatal then s else deliverFault s c r.kind.faultKind 4 r.va) id) r.cmd
    | .chain, some c =>
      let s := noteTag s c.unit c.tag 0 0 false true
      settleCmd { (if fatal then s else deliverFault s c 5 4 r.va) with
        reqs := s.reqs.filter (fun e => e.2.cmd != r.cmd) } r.cmd
    | .copySrc, _ | .copyDst, _ => failCopy s r.cmd
    | .completion, _ => (dropReq s id).onLaunch r.cmd (fun l => { l with written := 2 })
    | .code, _ | .bind, _ | .header, _ | .record, _ | .list, _ =>
      if fatal then back else setReq s id { r with st := .faulted, fkind := 4 }
    | _, none => dropReq s id

/-- A chain whose completion was on its way from a dead module completes with FLT (R203). -/
def deadChain (s : State) (id : Nat) (c : Cmd) : State :=
  settleCmd (noteTag s c.unit c.tag c.size 0 (c.kind == .mred && c.psn) true) id

/-- A module is dead: it leaves the route table, what is in flight to it completes, its jobs are fatal, and the error
is recorded (R203, R454, R455). -/
def moduleDead (s : State) (m : Nat) : State :=
  if s.modDead.contains m then s
  else
    let jobs := jobsOn s m
    let ids := (s.reqs.filter (fun e => (e.2.st == .routed || (e.2.st == .returned && !e.2.answered)) &&
      e.2.module == m)).map (fun e => (e.1, jobs.contains e.2.job))
    let chains := s.cmds.filter (fun e => (e.2.kind == .mred || e.2.kind == .mfill) && e.2.hop == e.2.hops.length &&
      e.2.leg != .back && e.2.lastHop.1 == m && (cmdReqs s e.1).isEmpty)
    let off (t : FMap Word64) : FMap Word64 := t.map (fun (e : Nat × Word64) =>
      if bits e.2.toNat 56 8 == m then (e.1, e.2 &&& ~~~1#64) else e)
    let s := { s with modDead := s.modDead ++ [m], mrtStaged := off s.mrtStaged, mrtLive := off s.mrtLive }
    let s := ids.foldl (fun s e => deadReq s e.1 e.2) s
    let s := chains.foldl (fun s e => deadChain s e.1 e.2) s
    let s := errorRecord s 3 0 (BitVec.ofNat 64 m) 0
    jobs.foldl (fun s j => jobFatal s j 2 (BitVec.ofNat 64 m)) s

/-- MODULE_FATAL_ERROR (R203). -/
def execModuleFatalError (module : Nat) (s : State) : Result := .next (moduleDead s module)

end Sys2Proof.Machine
end

