-- ==== Sys2Proof/Machine/Matrix.lean ====
section
/-! DEFINITION. The matrix control core's instructions (R348 to R362), the operation queue and the matrix unit (R353,
R363), operands and outliers (R106, R107, R355 to R357), line sums (R141) and banks (R84 to R86). -/

namespace Sys2Proof.Machine
open Sys2Proof

/-! ### Formats -/

/-- Elements of a K line; 0 for a format that is no matrix format (R355). -/
def lineLen (fmt : Nat) : Nat :=
  match fmt with
  | 0x05 | 0x06 => 64
  | 0x00 | 0x01 | 0x08 | 0x09 | 0x0A | 0x0B => 128
  | 0x0C => 256
  | _ => 0

/-- The binary format of a tensor format code (R120). -/
def tensorFp : Nat → FpFmt
  | 0x05 => bf16
  | 0x06 => fp16
  | 0x08 => e4m3
  | 0x09 => e5m2
  | 0x0A => e3m2
  | 0x0B => e2m3
  | 0x0C => e2m1
  | _ => fp32

/-- The value of an element with its block scale, if it has one (R121, R130, R131). -/
def elemVal (fmt : Nat) (scale : Option Nat) (code : Nat) : Val :=
  let sg : Int := if code < 128 then code else (code : Int) - 256
  match scale with
  | some 0xFF => .nan false
  | none => if fmt == 0 then fracOf sg 1 false else if fmt == 1 then fracOf code 1 false else (tensorFp fmt).val code
  | some e =>
    if fmt == 0 then (fracOf sg 1 false).shift ((e : Int) - 133)
    else ((tensorFp fmt).val code).shift ((e : Int) - 127)

/-! ### Line sums (R141) -/

/-- A product: NaN where an operand is one. -/
def lineProduct (a b : Val) : Val := if a.isNan || b.isNan then .nan false else (mulVal a b).1

/-- The sum of finite values, exactly; every denominator is a power of two. -/
def exactSum (vs : List Val) : Val :=
  let den := vs.foldl (fun d v => match v with | .fin _ _ e => max d e | _ => d) 1
  fracOf ((vs.map (fun v => match v with | .fin s n d => signed s (n * (den / d)) | _ => 0)).sum) den false

/-- The value of a line, rounded once to FP32. -/
def lineValue (ps : List Val) : Nat :=
  let up := ps.any (fun v => v.isInf && !v.sign)
  let down := ps.any (fun v => v.isInf && v.sign)
  if ps.any Val.isNan || (up && down) then fp32.nanCode
  else if up then 0x7F800000
  else if down then 0xFF800000
  else (fp32.deliver .rne false (exactSum ps)).1

/-- Element `i` of a tile. -/
def Cluster.tileAt (c : Cluster) (tile i : Nat) : Word32 := c.acc.look 0 (tile * 4096 + i)

/-- Write every element of a tile. -/
def Cluster.setTile (c : Cluster) (tile : Nat) (f : Nat → Word32) : Cluster :=
  let lo := tile * 4096
  { c with acc := c.acc.filter (fun e => e.1 < lo) ++ (List.range 4096).map (fun i => (lo + i, f i)) ++
                  c.acc.filter (fun e => lo + 4096 ≤ e.1) }

/-- A tile of +0.0 with its poison bit clear (R359). -/
def Cluster.zeroTile (c : Cluster) (tile : Nat) : Cluster :=
  { c with acc := c.acc.filter (fun e => e.1 < tile * 4096 || tile * 4096 + 4096 ≤ e.1), tilePsn := setDel c.tilePsn tile }

/-- Add one K line to a tile (R141). -/
def Cluster.addLine (c : Cluster) (tile : Nat) (a b : List (List Val)) : Cluster :=
  c.setTile tile (fun i =>
    let ps := ((a[i / 64]?).getD []).zipWith lineProduct ((b[i % 64]?).getD [])
    BitVec.ofNat 32 (fp32.arith .rne false [(c.tileAt tile i).toNat, lineValue ps] (opAdd .rne)).1)

/-! ### Operand lines -/

/-- One line of an operand: its values, poison among the words read, and an outlier mismatch as line and index. -/
structure MxLine where
  rows : List (List Val)
  psn : Bool
  bad : Option (Nat × Nat)

/-- An outlier entry of a line: element index and BF16 value (R106). -/
def outlierEntry (w : Nat) : Nat × Nat := (bits w 8 8, bits w 16 16)

/-- A word of the outlier directory or side list, by its number from AUX, whatever AUX [1:0] is (log 109); none outside the
allocation (R107). -/
def outlierWord (get : Nat → Byte × Bool) (size : Nat) (t : Tensor) (k : Nat) : Option Nat :=
  let aux := bits t.aux.toNat 0 21
  if size < aux + 4 * k + 4 then none
  else some (numOfBytes ((List.range 4).map (fun j => (get (aux + 4 * k + j)).1)))

/-- The byte ranges of the directory words and entries of one outlier line, inside the allocation (R106). -/
def outlierSpans (get : Nat → Byte × Bool) (size : Nat) (t : Tensor) (i : Nat) : List (Nat × Nat) :=
  let aux := bits t.aux.toNat 0 21
  let dir := [i, i + 1].filter (fun k => aux + 4 * k + 4 ≤ size)
  let es := match outlierWord get size t i, outlierWord get size t (i + 1) with
    | some lo, some hi => (List.range' lo (min (hi - lo) (size / 4 + 1))).filter (fun k => aux + 4 * k + 4 ≤ size)
    | _, _ => []
  (dir ++ es).map (fun k => (aux + 4 * k, 4))

/-- The entries of one outlier line, or the index to report (R106, R107): 0 where the mismatch names no element, a
directory that falls or a word outside the allocation (DESIGN CHOICE, log 88). -/
def outlierLine (get : Nat → Byte × Bool) (size : Nat) (t : Tensor) (i : Nat) : Except Nat (List (Nat × Nat)) :=
  let word := outlierWord get size t
  match word i, word (i + 1) with
  | some lo, some hi =>
    if hi < lo then .error 0
    else
      let es := (List.range' lo (min (hi - lo) (size / 4 + 1))).map word
      let raw (x : Nat) : Nat := bits (get (t.base + 128 * i + x / 2)).1.toNat (4 * (x % 2)) 4
      es.foldl (fun (r : Except Nat (List (Nat × Nat))) e =>
        match r, e with
        | .error x, _ => .error x
        | .ok _, none => .error 0
        | .ok l, some w =>
          let x := outlierEntry w
          if (l.getLast?.map (fun y => decide (x.1 ≤ y.1))).getD false || raw x.1 != 8 then .error x.1
          else .ok (l ++ [x])) (.ok [])
  | _, _ => .error 0

/-- Bit address from BASE of an element, as outlier line and index in the line (R106). -/
def outlierAt (t : Tensor) (i : Nat × Nat × Nat × Nat) : Nat × Nat :=
  let b := t.bitOf i.1 i.2.1 i.2.2.1 i.2.2.2 - 8 * t.base
  (b / 1024, b % 1024 / 4)

/-- The first mismatch of a row: a line that breaks the rules, or an escape without an entry. Of several in one line of a MUL
R107 does not say which is reported: A comes before B, the lowest row first, and what is wrong with a line's entries before
an escape that has none (DESIGN CHOICE, log 111). -/
def outlierBad (get : Nat → Byte × Bool) (size : Nat) (t : Tensor) (i : Nat × Nat × Nat × Nat) (codes : List Nat) :
    Option (Nat × Nat) :=
  let at_ := codes.zipIdx.map (fun c => (c.1, outlierAt t (i.1 + c.2, i.2)))
  let lines := (at_.map (·.2.1)).dedup
  lines.findSome? (fun n => match outlierLine get size t n with
    | .error x => some (n, x)
    | .ok es => (at_.find? (fun c => c.2.1 == n && c.1 == 8 && !es.any (fun e => e.1 == c.2.2))).map (·.2))

/-- The value an escape stands for (R106, R133). -/
def escapeVal (get : Nat → Byte × Bool) (size : Nat) (t : Tensor) (i : Nat × Nat × Nat × Nat) : Val :=
  let a := outlierAt t i
  match outlierLine get size t a.1 with
  | .ok es => bf16.val (((es.find? (fun e => e.1 == a.2)).map (·.2)).getD 0)
  | .error _ => .nan false

/-- The origin of row `m` of line `j` of a tensor operand (R356). -/
def MxSource.origin (x : MxSource) (j m : Nat) : Nat × Nat × Nat × Nat :=
  ((coordOf x.coord 0 + j) * lineLen x.fmt, coordOf x.coord 1 * 64 + m, coordOf x.coord 2, coordOf x.coord 3)

/-- The outlier lines that line `j` of a tensor operand reaches (R106). -/
def MxSource.outlierLines (x : MxSource) (j : Nat) : List Nat :=
  let t := x.snap
  if !t.esc then []
  else ((List.range 64).flatMap (fun m =>
    let i := x.origin j m
    let n := min (lineLen x.fmt) (t.dim 0 - i.1)
    if t.holdsIndex i && 0 < n then
      let a := (outlierAt t i).1
      List.range' a ((outlierAt t (i.1 + n - 1, i.2)).1 + 1 - a)
    else [])).dedup

/-- The byte ranges that line `j` of a tensor operand reads, but its outlier words. -/
def MxSource.spans (x : MxSource) (j : Nat) : List (Nat × Nat) :=
  let t := x.snap
  let len := lineLen x.fmt
  (List.range 64).flatMap (fun m =>
    let i := x.origin j m
    let n := min len (t.dim 0 - i.1)
    if !t.holdsIndex i then []
    else if t.loc == 2 then
      (List.range n).filterMap (fun k =>
        (viewElement t x.src (i.1 + k) i.2.1 i.2.2.1).map (fun e => x.src.span e 1))
    else t.span i n :: (if t.scl then [t.scaleSpan i n] else []))

/-- All byte ranges that line `j` of a tensor operand reads: outlier directory and entries with it (R67, R86, R106). -/
def MxSource.allSpans (get : Nat → Byte × Bool) (size : Nat) (x : MxSource) (j : Nat) : List (Nat × Nat) :=
  x.spans j ++ (x.outlierLines j).flatMap (outlierSpans get size x.snap)

/-- Line `j` of a tensor operand (R105, R106, R356). -/
def tensorLine (get : Nat → Byte × Bool) (size : Nat) (x : MxSource) (j : Nat) : MxLine :=
  let t := x.snap
  let len := lineLen x.fmt
  let rows := (List.range 64).map (fun m =>
    let i := x.origin j m
    let es := (List.range len).map (fun k => sourceElem get t x.src (i.1 + k, i.2))
    let n := if t.holdsIndex i then min len (t.dim 0 - i.1) else 0
    let sc (k : Nat) : Option Nat :=
      if !t.scl then none
      else if k < n then some (get (t.scaleOf (i.1 + k) i.2.1 i.2.2.1 i.2.2.2)).1.toNat else some 0x7F
    let vals := es.zipIdx.map (fun e =>
      if t.esc && e.1.1 == 8 && e.2 < n then escapeVal get size t (i.1 + e.2, i.2) else elemVal t.fmt (sc e.2) e.1.1)
    (vals, if t.esc then outlierBad get size t i ((es.take n).map (·.1)) else none))
  { rows := rows.map (·.1)
    psn := (x.allSpans get size j).any (fun p => (List.range p.2).any (fun k => (get (p.1 + k)).2))
    bad := rows.findSome? (·.2) }

/-- A line of 64 port rows, and the bytes of its scales (R357). -/
def portLine (fmt : Nat) (scl : Bool) (rows : List (List Byte)) (scales : List Byte) : MxLine :=
  let len := lineLen fmt
  let w := tensorBits fmt
  { rows := rows.zipIdx.map (fun r =>
      let n := numOfBytes r.1
      (List.range len).map (fun k =>
        elemVal fmt (if scl then some ((scales[r.2 * (len / 32) + k / 32]?).getD 0).toNat else none) (bits n (w * k) w)))
    psn := false
    bad := none }

/-! ### Checks that the instructions share -/

/-- ILLEGAL of MX misuse (R349). -/
def mxIllegal (s : State) (what code : Nat) : Result := trapNow s 0x01 (BitVec.ofNat 64 (what * 256 + code))

/-- A PORT trap of the acting program (R117). -/
def portTrap (s : State) (port code : Nat) : Result := trapNow s 0x07 (BitVec.ofNat 64 (port * 256 + code))

/-- Whether the program holds the bank in state HELD. -/
def Cluster.holdsBank (c : Cluster) (slot b : Nat) : Bool :=
  let k := c.banks.look Bank.idle b
  k.st == .held && k.prog == slot

/-- The binding of a program. -/
def Cluster.boundTo (c : Cluster) (slot : Nat) : Option Binding :=
  match c.binding with
  | some b => if b.prog == slot then some b else none
  | none => none

/-- Whether the program is bound to a unit. -/
def Cluster.boundUnit (c : Cluster) (slot u : Nat) : Bool :=
  match c.boundTo slot with
  | some b => b.unit == u
  | none => false

/-- Operations of a program in the queue. -/
def Cluster.opsOf (c : Cluster) (slot : Nat) : List MxOp := c.ops.filter (fun (o : MxOp) => o.prog == slot)

/-- Enter an operation into the queue, which holds the identifiers it names; a full queue blocks (R353, R62). -/
def enqueueOp (s : State) (cl slot : Nat) (o : MxOp) (ids : List Nat) : Result :=
  let c := s.cluster cl
  if 16 ≤ (c.opsOf slot).length then .next (block s (.matrixQueue 15))
  else .next (retire (ids.foldl (fun s id => holdTid s s.cur id) (s.setCluster cl { c with ops := c.ops ++ [o] })))

/-- Identifiers an operand holds. -/
def MxSource.ids (x : MxSource) : List Nat :=
  if x.port then [] else x.tid :: (if x.snap.loc == 2 then [x.snap.src] else [])

def MxOp.ids (o : MxOp) : List Nat := if o.kind == .store then [o.a.tid] else o.a.ids ++ o.b.ids

/-- An operand that an operation does not have. -/
def MxSource.none : MxSource := ⟨true, 0, Tensor.none, Tensor.none, 0, 0, false⟩

/-- An operand of MX MUL and its refusals, in the order of R358; the VIEW check, which R358 does not place, stands after
LOCATION (DESIGN CHOICE, log 110). -/
def mulOperand (s : State) (cl slot id : Nat) (isB : Bool) (coord : Word64) (k : MxSource → Result) : Result :=
  let c := s.cluster cl
  if id == 0xFF then
    match c.boundTo slot with
    | none => portTrap s (if isB then 1 else 0) 0x01
    | some b => k ⟨true, 0xFF, Tensor.none, Tensor.none, 0, if isB then b.bfmt else b.afmt, if isB then b.bscl else b.ascl⟩
  else withBound s id (fun t =>
    let src := (viewSource s s.cur t).getD Tensor.none
    let len := lineLen t.fmt
    let u := if t.loc == 2 then src.unit else t.unit
    if !(t.loc == 0 || (t.loc == 2 && !isB)) then tensorTrap s id 0x04
    else withView s id t (
      if len == 0 then tensorTrap s id 0x03
      else if !t.holdsIndex (coordOf coord 0 * len, coordOf coord 1 * 64, coordOf coord 2, coordOf coord 3) then
        tensorTrap s id 0x0A
      else if !c.boundUnit slot u then tensorTrap s id 0x0B
      else k ⟨false, id, t, if t.loc == 2 then src else Tensor.none, coord, t.fmt, t.scl⟩))

/-! ### MUL, ZERO, DRAIN, STORE at issue -/

/-- MX_MUL (R354, R358). -/
def execMxMul (a b c : BitVec 5) (s : State) : Result :=
  withProg s (fun cl slot _ => withRegs s [a, b, c] (fun th =>
    let w := (th.rd c).toNat
    let tile := bits w 16 7
    if bits w 24 8 == 0 then mxIllegal s tile 0x31
    else if !(s.cluster cl).holdsBank slot (tile / 4) then mxIllegal s tile 0x32
    else mulOperand s cl slot (bits w 0 8) false (th.rd a) (fun x =>
      mulOperand s cl slot (bits w 8 8) true (th.rd b) (fun y =>
        if lineLen x.fmt != lineLen y.fmt then tensorTrap s (if x.port then bits w 8 8 else bits w 0 8) 0x09
        else
          let o : MxOp := ⟨.mul, slot, tile, x, y, bits w 32 1 == 1, bits w 24 8, 0, false, false, 0, []⟩
          enqueueOp s cl slot o o.ids))))

/-- MX_ZERO (R359). -/
def execMxZero (a : BitVec 5) (s : State) : Result :=
  withProg s (fun cl slot _ => withRegs s [a] (fun th =>
    let tile := bits (th.rd a).toNat 0 7
    if !(s.cluster cl).holdsBank slot (tile / 4) then mxIllegal s tile 0x32
    else enqueueOp s cl slot ⟨.zero, slot, tile, MxSource.none, MxSource.none, false, 0, 0, false, false, 0, []⟩ []))

/-- MX_DRAIN (R360). -/
def execMxDrain (a : BitVec 5) (s : State) : Result :=
  withProg s (fun cl slot _ => withRegs s [a] (fun th =>
    let tile := bits (th.rd a).toNat 0 7
    if ((s.cluster cl).boundTo slot).isNone then portTrap s 2 0x01
    else if !(s.cluster cl).holdsBank slot (tile / 4) then mxIllegal s tile 0x32
    else enqueueOp s cl slot ⟨.drain, slot, tile, MxSource.none, MxSource.none, false, 0, 0, false, false, 0, []⟩ []))

/-- Formats MX STORE writes (R361). -/
def storeFmt (f : Nat) : Bool := f == 0x00 || f == 0x04 || f == 0x05 || f == 0x06 || (0x08 ≤ f && f ≤ 0x0C)

/-- The destination of MX STORE as a tensor of 64 by 64 tiles (R361). -/
def storeTensor (t : Tensor) : Tensor := { t with tw := 64, tr := 64 }

/-- MX_STORE (R361). -/
def execMxStore (a b c : BitVec 5) (s : State) : Result :=
  withProg s (fun cl slot _ => withRegs s [a, b, c] (fun th =>
    let tile := bits (th.rd a).toNat 0 7
    let w := (th.rd c).toNat
    let id := bits w 0 8
    if !(s.cluster cl).holdsBank slot (tile / 4) then mxIllegal s tile 0x32
    else withBound s id (fun t =>
      if t.loc != 0 then tensorTrap s id 0x04
      else if !(s.cluster cl).boundUnit slot t.unit then tensorTrap s id 0x0B
      else if !storeFmt t.fmt then tensorTrap s id 0x03
      else if !(storeTensor t).originOk (th.rd b) then tensorTrap s id 0x0A
      else match s.unit t.unit with
        | none => tensorTrap s id 0x0B
        | some u =>
          let go : Result :=
            match ((storeTensor t).tileSpans (th.rd b)).findSome? (fun p => u.armedAt p.2.1 p.2.2) with
            | some (x, j) => windowTrap s x j 0x07
            | none =>
              let d : MxSource := ⟨false, id, t, Tensor.none, th.rd b, t.fmt, t.scl⟩
              enqueueOp s cl slot ⟨.store, slot, tile, d, MxSource.none, false, 0, 0, false, false, th.rd c, []⟩ [id]
          if bits w 26 1 == 0 then go
          else match barrierOf s t.unit u (bits w 16 10) with
            | .error e => barrierTrap s (bits w 16 10) e
            | .ok (_, q, i) =>
              if (q.bar i).claimed then barrierTrap s (bits w 16 10) 0x02
              else if (q.bar i).expected == 0 then barrierTrap s (bits w 16 10) 0x03
              else go)))

/-! ### ALLOC, FREE, WAIT, CFG -/

/-- MX_ALLOC: the lowest FREE bank is zeroed, then held (R84, R362). -/
def execMxAlloc (d : BitVec 5) (s : State) : Result :=
  withProg s (fun cl slot p => withRegs s [d] (fun th =>
    let c := s.cluster cl
    let pick : Result :=
      match (List.range 32).find? (fun b => (c.banks.look Bank.idle b).st == .free) with
      | none => .next (block s .bank)
      | some b =>
        let c1 := [0, 1, 2, 3].foldl (fun (c : Cluster) j => c.zeroTile (4 * b + j))
          { c with banks := c.banks.put b ⟨.zeroing, slot, p.launch⟩ }
        .next (blockAt (s.setCluster cl c1) (.zeroing b) .bank)
    match th.at_ with
    | some (.zeroing b) =>
      let k := c.banks.look Bank.idle b
      if k.prog == slot && k.st == .held then .next (retireWith s d (BitVec.ofNat 64 b))
      else if k.prog == slot && k.st == .zeroing then .next (block s .bank)
      else pick
    | _ => pick))

/-- BANK_ZEROED: the bank becomes HELD; that of a program which has ended retires at once (R84). -/
def execBankZeroed (cluster bank : Nat) (s : State) : Result :=
  let c := s.cluster cluster
  let k := c.banks.look Bank.idle bank
  if k.st == .zeroing then
    .next (s.setCluster cluster
      { c with banks := c.banks.put bank { k with st := if k.prog == endedProg then .retiring else .held } }.settle)
  else .next s

/-- MX_FREE: the bank retires, and FREE returns when no queued operation names it (R84, R362). -/
def execMxFree (a : BitVec 5) (s : State) : Result :=
  withProg s (fun cl slot _ => withRegs s [a] (fun th =>
    let c := s.cluster cl
    let b := bits (th.rd a).toNat 0 5
    match th.at_ with
    | some (.freeing b) =>
      let k := c.banks.look Bank.idle b
      if k.st == .retiring && k.prog == slot then .next (block s (.retiring b)) else .next (retire s)
    | _ =>
      if !c.holdsBank slot b then mxIllegal s b 0x32
      else
        let k := c.banks.look Bank.idle b
        let c1 := { c with banks := c.banks.put b { k with st := .retiring } }.settle
        let s := s.setCluster cl c1
        if (c1.banks.look Bank.idle b).st == .retiring then .next (blockAt s (.freeing b) (.retiring b))
        else .next (retire s)))

/-- MX_WAIT (R66, R362). -/
def execMxWait (a : BitVec 5) (s : State) : Result :=
  withProg s (fun cl slot _ => withRegs s [a] (fun th =>
    match (s.cluster cl).boundTo slot with
    | none => portTrap s 0 0x01
    | some b => match s.unit b.unit with
      | none => portTrap s 0 0x01
      | some u =>
        let n := barNumber (th.rd a)
        match barrierOf s b.unit u n with
        | .error e => barrierTrap s n e
        | .ok (v, _, i) => waitPhase s v n i (barPhase (th.rd a))))

/-- Whether a configuration word keeps the rules of R350. -/
def mxCfgOk (w : Nat) : Bool :=
  let ok (f scl : Nat) : Bool := lineLen f != 0 && (scl == 0 || scalable f)
  bits w 63 1 == 0 || (bits w 54 9 == 0 && bits w 15 17 == 0 && bits w 7 1 == 0 && ok (bits w 0 6) (bits w 6 1) &&
    ok (bits w 8 6) (bits w 14 1))

/-- The unit of a bundle with an index, while it has not been reaped. -/
def unitOf (s : State) (launch index : Nat) : Option (Nat × UnitRec) :=
  s.units.find? (fun e => e.2.launch == launch && e.2.index == index)

/-- Whether a unit of a launch has not been placed yet (R351, R376). -/
def notPlaced (s : State) (launch index : Nat) : Bool :=
  match s.launch launch with
  | none => false
  | some l => match l.vec with
    | none => false
    | some v =>
      index < v.units &&
        (if v.ord then l.ordNext ≤ index
         else s.dies.any (fun d => d.2.backlog.any (fun q => q.launch == launch && q.index == index)) ||
           s.cores.any (fun c => c.2.unitQueue.any (fun q => q.launch == launch && q.index == index)))

/-- The lowest port that holds something: the one that BINDBUSY names (DESIGN CHOICE, log 89). -/
def Cluster.busyPort (c : Cluster) : Option Nat :=
  if !c.p0.isEmpty then some 0
  else if !c.p1.isEmpty then some 1
  else if !c.p2.isEmpty then some 2
  else if !c.p3.isEmpty then some 3
  else none

/-- PREQ of a program: it is set while its bound unit is being pre-empted, and only then (R346). -/
def setPreq (s : State) (cl slot : Nat) (b : Bool) : State := s.onProg cl slot (fun p => { p with th := { p.th with preq := b } })

/-- MX_CFG (R350, R351). NOUNIT, which names no port, reports port 0 (DESIGN CHOICE, log 89). -/
def execMxCfg (a : BitVec 5) (s : State) : Result :=
  withProg s (fun cl slot p => withRegs s [a] (fun th =>
    let w := (th.rd a).toNat
    let c := s.cluster cl
    let mine := c.boundTo slot
    if !mxCfgOk w then mxIllegal s 0 0x33
    else if (c.opsOf slot).any MxOp.namesPort then .next (block s (.binding none))
    else if mine.isSome && c.busyPort.isSome then portTrap s (c.busyPort.getD 0) 0x07
    else if bits w 63 1 == 0 then
      .next (retire (if mine.isSome then setPreq (s.setCluster cl c.unbind) cl slot false else s))
    else
      let index := bits w 32 22
      let bind (u : Nat) (r : UnitRec) : State :=
        let b : Binding := ⟨slot, u, bits w 0 6, bits w 6 1 == 1, bits w 8 6, bits w 14 1 == 1⟩
        let same := match mine with | some m => m.unit == u | none => false
        setPreq (s.setCluster cl { (if same then c else c.unbind) with binding := some b }) cl slot
          (r.st == .requested || r.st == .saving)
      match unitOf s p.launch index with
      | some (u, r) =>
        if r.st == .ended || clusterOf r.core != cl then portTrap s 0 0x06
        else if c.binding.isSome && mine.isNone then .next (block s (.binding (some index)))
        else if r.st == .zeroing || r.away then .next (block s (.binding (some index)))
        else .next (retire (bind u r))
      | none => if notPlaced s p.launch index then .next (block s (.binding (some index))) else portTrap s 0 0x06))

/-! ### The matrix unit -/

/-- Whether an operation belongs to a program that a save has taken (R346). -/
def opSaved (s : State) (cl : Nat) (o : MxOp) : Bool :=
  match s.prog cl o.prog with
  | some p => p.saved
  | none => false

/-- Position of the first operation that can act and satisfies `p`. -/
def firstOp (s : State) (cl : Nat) (p : MxOp → Bool) : Option (Nat × MxOp) :=
  ((s.cluster cl).ops.zipIdx.find? (fun o => !opSaved s cl o.1 && p o.1)).map (fun o => (o.2, o.1))

def setOp (c : Cluster) (i : Nat) (o : MxOp) : Cluster := { c with ops := c.ops.set i o }

/-- Release the identifiers an operation holds (R62). -/
def releaseOp (s : State) (cl : Nat) (o : MxOp) : State :=
  o.ids.foldl (fun s id => releaseTid s (.prog cl o.prog) id) s

/-- An operation retires: RETIRING banks may become FREE, and ended units may free their allocation (R84, R83). -/
def retireOp (s : State) (cl i : Nat) (o : MxOp) : State :=
  let c := s.cluster cl
  let s := s.setCluster cl { c with ops := c.ops.eraseIdx i }.settle
  let us := (if o.a.port then [] else [if o.a.snap.loc == 2 then o.a.src.unit else o.a.snap.unit]) ++
    (if o.b.port then [] else [o.b.snap.unit])
  us.foldl (fun s u => reapUnit s u) s

/-- The unit whose allocation an operand is read from. -/
def MxSource.reads (x : MxSource) : Nat := if x.snap.loc == 2 then x.src.unit else x.snap.unit

/-- Rows of p3 that a line of an operand takes (R357). -/
def MxSource.scaleRows (x : MxSource) : Nat := if x.port && x.scl then lineLen x.fmt / 64 else 0

/-- The byte of a unit's allocation as a queued operation reads it: as it was when the unit was saved, if it was read then
(R410). One that a unit cancelled while suspended left unread reads as poison: no core holds it (DESIGN CHOICE, log 112). -/
def heldByte (s : State) (u : UnitRec) (held : FMap (Byte × Bool)) (off : Nat) : Byte × Bool :=
  (held.find off).getD (if u.placed || u.away then unitByte s u off else (0, true))

/-- Line `j` of an operand, once it can be read: port rows from `rows`, scale bytes from `scales`; none while it waits
for rows, for a landing or for its unit (R67, R356, R357). -/
def operandLine (s : State) (held : FMap (Byte × Bool)) (x : MxSource) (j : Nat) (rows : List (List Byte))
    (scales : List Byte) : Option (MxLine × State) :=
  if x.port then
    if rows.length < 64 then none else some (portLine x.fmt x.scl (rows.take 64) scales, s)
  else match s.unit x.reads with
    | none => none
    | some u =>
      let get := heldByte s u held
      let spans := (x.allSpans get u.need.spad j).filter (fun p => (held.find p.1).isNone)
      if spans.any (fun p => u.away || (u.placed && (u.armedAt p.1 p.2).isSome)) then none
      else
        let s1 := if u.placed then spans.foldl (fun s p => eccRead s u.core (u.spadOff p.1) p.2) s else s
        some (tensorLine get u.need.spad x j, s1)

/-- The byte ranges of a unit that the remaining lines of a queued MUL read and that can be read now (R410). -/
def MxOp.restSpans (s : State) (uid : Nat) (u : UnitRec) (o : MxOp) : List (Nat × Nat) :=
  if o.kind != .mul || o.linesDone then []
  else ([o.a, o.b].filter (fun x => x.names uid)).flatMap (fun x =>
    (List.range' o.line (o.kc - o.line)).flatMap (fun j =>
      (x.allSpans (heldByte s u o.held) u.need.spad j).filter (fun p =>
        (o.held.find p.1).isNone && (u.armedAt p.1 p.2).isNone)))

/-- The queued operand reads of a unit that is suspended are completed from its live scratchpad; what an armed slot
covers is read once it has landed (R67, R410). -/
def readOperands (s : State) (uid : Nat) : State :=
  match s.unit uid with
  | none => s
  | some u =>
    let spans := s.clusters.flatMap (fun c => c.2.ops.flatMap (fun o => o.restSpans s uid u))
    let s1 := spans.foldl (fun s p => eccRead s u.core (u.spadOff p.1) p.2) s
    { s1 with clusters := s1.clusters.map (fun (c : Nat × Cluster) =>
        (c.1, { c.2 with ops := c.2.ops.map (fun (o : MxOp) =>
          { o with held := (o.restSpans s uid u).foldl (fun m p =>
              (List.range p.2).foldl (fun m k => FMap.put m (p.1 + k) (unitByte s u (p.1 + k))) m) o.held }) })) }

/-- MX_MUL_LINE: the next line enters the array once its operands are there; a failing escape abandons the MUL
(R86, R106, R107, R358). -/
def execMxMulLine (cluster : Nat) (s : State) : Result :=
  match firstOp s cluster (fun o => !o.linesDone) with
  | none => .next s
  | some (i, o) =>
    if o.kind != .mul then .next s
    else
      let c := s.cluster cluster
      let na := o.a.scaleRows
      let nb := o.b.scaleRows
      if c.p3.length < na + nb then .next s
      else match operandLine s o.held o.a o.line c.p0 (c.p3.take na).flatten with
        | none => .next s
        | some (x, s1) => match operandLine s1 o.held o.b o.line c.p1 ((c.p3.drop na).take nb).flatten with
          | none => .next s
          | some (y, s2) =>
            let c := if o.z && !o.begun then c.zeroTile o.tile else c
            let c := { c with p0 := if o.a.port then c.p0.drop 64 else c.p0,
                              p1 := if o.b.port then c.p1.drop 64 else c.p1, p3 := c.p3.drop (na + nb) }
            match (match x.bad with | some m => some (o.a.tid, m) | none => y.bad.map (fun m => (o.b.tid, m))) with
            | some (id, m) =>
              let c := setOp (c.poisonTile o.tile) i { o with begun := true, line := o.kc }
              let s3 := releaseOp (s2.setCluster cluster c) cluster o
              .next (postCause s3 (.prog cluster o.prog) 0x13 0
                (BitVec.ofNat 64 (m.1 % 65536 * 65536 + m.2 % 256 * 256 + id)))
            | none =>
              let c := c.addLine o.tile x.rows y.rows
              let c := if x.psn || y.psn then c.poisonTile o.tile else c
              let o1 := { o with begun := true, line := o.line + 1 }
              let s3 := s2.setCluster cluster (setOp c i o1)
              .next (if o1.linesDone then releaseOp s3 cluster o else s3)

/-- MX_MUL_RETIRE (R353, R363). A MUL abandoned while it waited for port rows releases its identifiers here. -/
def execMxMulRetire (cluster : Nat) (s : State) : Result :=
  match firstOp s cluster (fun _ => true) with
  | none => .next s
  | some (i, o) =>
    if !o.linesDone then .next s
    else .next (retireOp (if o.abandoned && o.namesPort then releaseOp s cluster o else s) cluster i o)

/-- MX_ZERO_EXECUTE (R359). -/
def execMxZeroExecute (cluster : Nat) (s : State) : Result :=
  match firstOp s cluster (fun _ => true) with
  | none => .next s
  | some (i, o) =>
    if o.kind != .zero then .next s
    else .next (retireOp (s.setCluster cluster ((s.cluster cluster).zeroTile o.tile)) cluster i o)

/-- MX_DRAIN_PUSH: at most `n` elements enter p2, as it has room; the last one retires the DRAIN (R85, R360). -/
def execMxDrainPush (cluster n : Nat) (s : State) : Result :=
  match firstOp s cluster (fun _ => true) with
  | none => .next s
  | some (i, o) =>
    if o.kind != .drain then .next s
    else
      let c := s.cluster cluster
      let k := min n (min (4096 - o.line) (8192 - c.p2.length))
      let es := (List.range k).map (fun j => (c.tileAt o.tile (o.line + j), c.tilePsn.contains o.tile))
      let o1 := { o with line := o.line + k }
      let s := feedP2 (s.setCluster cluster (setOp { c with p2 := c.p2 ++ es } i o1)) cluster
      .next (if o1.line == 4096 then retireOp s cluster i o1 else s)

/-- The codes and scales MX STORE writes for one row (R132, R139, R361). -/
def storeRow (t : Tensor) (sx : Int) (row : List Word32) : List Nat × List Nat :=
  let vs := row.map (fun w => (fp32.val w.toNat).shift sx)
  let lane := if t.fmt == 0 then 6 else t.fmt
  if t.scl then
    let blocks := [vs.take 32, vs.drop 32]
    let sc := blocks.map (blockScaleOf lane)
    ((blocks.zip sc).flatMap (fun b => b.1.map (fun v => (mxQuantVal lane b.2 v).1)), sc)
  else (vs.map (fun v => (if t.fmt == 0 then toInteger 6 .rne v else toFloat (tensorFp t.fmt) .rne v).1), [])

/-- Write a tile into the tensor of a STORE (R86, R361). -/
def storeTile (s : State) (u : UnitRec) (c : Cluster) (o : MxOp) : State :=
  let t := storeTensor o.a.snap
  let sx : Int := let x := bits o.ctl.toNat 8 8; if x < 128 then x else (x : Int) - 256
  let psn := c.tilePsn.contains o.tile
  (List.range (t.tileRows o.a.coord)).foldl (fun s m =>
    let i := t.rowOrigin o.a.coord m
    let n := t.tileCols o.a.coord
    let row := storeRow t sx ((List.range 64).map (fun k => c.tileAt o.tile (64 * m + k)))
    let e := t.span i n
    let cs := (List.range e.2).map (fun j =>
      rowByte t.bits (t.bitOf i.1 i.2.1 i.2.2.1 i.2.2.2) n (fun k => ((row.1[k]?).getD 0, psn)) (e.1 + j))
    let s := spadCells s u.core (u.spadOff e.1) cs
    if !t.scl then s
    else
      let k := t.scaleSpan i n
      spadCells s u.core (u.spadOff k.1) ((row.2.take k.2).map (fun x => (BitVec.ofNat 8 x, 0xFF, psn)))) s

/-- The arrival of a STORE with ARR; one at a barrier of an ended unit is dropped, a gang barrier lives until every
member has retired (R96, R97, R352, R361). -/
def storeArrive (s : State) (uid : Nat) (u : UnitRec) (o : MxOp) : State :=
  let n := bits o.ctl.toNat 16 10
  if bits o.ctl.toNat 26 1 == 0 then s
  else match barrierOf s uid u n with
    | .ok (v, q, i) =>
      let gone := if n < 512 then u.st == .ended else gangRetired s q
      if gone || (q.bar i).claimed || (q.bar i).expected == 0 then s
      else if v == uid then countArrival s v i else (sendArrival s v i).2
    | .error _ => s

/-- MX_STORE_EXECUTE (R335, R361). Into the allocation of a unit that was cancelled while suspended nothing is written: no core
holds it (log 112). -/
def execMxStoreExecute (cluster : Nat) (s : State) : Result :=
  match firstOp s cluster (fun _ => true) with
  | none => .next s
  | some (i, o) =>
    if o.kind != .store then .next s
    else match s.unit o.a.snap.unit with
      | none => .next (retireOp (releaseOp s cluster o) cluster i o)
      | some u =>
        if u.away then .next s
        else
          let s := if u.placed then storeTile s u (s.cluster cluster) o else s
          .next (retireOp (releaseOp (storeArrive s o.a.snap.unit u o) cluster o) cluster i o)

/-! ### Residency (R345) -/

/-- MATRIX_PROGRAM_RESIDENT: the first waiting program of its cluster takes the lowest free slot when the core has
its identifiers free (R99, R345). -/
def execMatrixProgramResident (id : Nat) (s : State) : Result :=
  match s.waitProgs.find? (fun e => e.1 == id) with
  | none => .next s
  | some (_, w) =>
    let used := ((s.progs.filter (fun e => e.1 / 4 == w.cluster)).map (·.2.tidCount)).sum
    match (List.range 4).find? (fun k => (s.prog w.cluster k).isNone) with
    | none => .next s
    | some slot =>
      let order (x : Nat × WaitingProg) : Nat := ((s.launch x.2.launch).map (·.order)).getD 0
      if 256 < used + w.tidCount ||
          (leastBy order (s.waitProgs.filter (fun e => e.2.cluster == w.cluster))).map (·.1) != some id then .next s
      else
        let g : FMap Word64 := [(1, w.arg), (2, BitVec.ofNat 64 w.cluster), (3, w.g3)]
        let p : Prog := { launch := w.launch, job := w.job, th := { Thread.start w.entry with g }, tidCount := w.tidCount,
                          tids := [], saved := false, failed := false, age := s.nextId }
        .next ({ s with waitProgs := s.waitProgs.filter (fun e => e.1 != id), nextId := s.nextId + 1 }.setProg
          w.cluster slot p)

end Sys2Proof.Machine
end

