-- ==== Sys2Proof/Machine/Placement.lean ====
section
/-! DEFINITION. Placing units: die dispatchers (R371, R373), gangs (R374), residence (R373, R376, R377), zero fill
(R78) and stealing (R375), under capture and replay (R442). -/

namespace Sys2Proof.Machine
open Sys2Proof

/-! ### Room on a core (R77, R373) -/

/-- Units that hold resources of a core. -/
def unitsOn (s : State) (core : Nat) : FMap UnitRec := s.units.filter (fun e => e.2.placed && e.2.core == core)

/-- Allocations on a core, in 4 KiB: start and size. -/
def allocsOn (s : State) (core : Nat) : List (Nat × Nat) :=
  (unitsOn s core).map (fun e => (e.2.base4k, e.2.need.spad / 4096))

/-- Offsets at which a free range may start: 0 and the ends of allocations. -/
def rangeStarts (l : List (Nat × Nat)) : List Nat := (0 :: l.map (fun a => a.1 + a.2)).mergeSort (· ≤ ·)

/-- Length of the free range that starts at an offset. -/
def freeLength (l : List (Nat × Nat)) (b : Nat) : Nat :=
  if l.any (fun a => a.1 ≤ b && b < a.1 + a.2) then 0
  else (l.filter (fun a => b ≤ a.1 && a.2 != 0)).foldl (fun m a => min m (a.1 - b)) (512 - b)

/-- First fit: the lowest offset that starts a long enough free range (R77). -/
def firstFit (l : List (Nat × Nat)) (n : Nat) : Option Nat := (rangeStarts l).find? (fun b => n ≤ freeLength l b)

/-- Team slots of a core that are taken: by teams, or kept for a unit that is being loaded. -/
def slotsTaken (s : State) (core : Nat) : List Nat :=
  (s.teams.filter (fun e => e.1 / 32 == core)).map (fun e => e.1 % 32) ++
    ((unitsOn s core).filter (fun e => e.2.st == .resuming)).flatMap (fun e => e.2.slots.filter (· < 32))

/-- Warps of a core that are taken. -/
def warpsTaken (s : State) (core : Nat) : Nat :=
  ((s.teams.filter (fun e => e.1 / 32 == core)).map (fun e => e.2.warps)).sum +
    (((unitsOn s core).filter (fun e => e.2.st == .resuming)).map
      (fun e => e.2.savedTeams.length * e.2.need.warps)).sum

/-- What a core has free: team slots, warps, the longest free range, barriers, tags, windows, identifiers. -/
def coreRoom (s : State) (core : Nat) : Need :=
  let us := (unitsOn s core).map (fun e => e.2.need)
  let al := allocsOn s core
  { teams := 32 - (slotsTaken s core).length
    warps := 128 - warpsTaken s core
    spad := ((rangeStarts al).map (freeLength al)).foldl max 0 * 4096
    bars := 512 - (us.map (·.bars)).sum
    tags := 64 - (us.map (·.tags)).sum
    wins := 16 - (us.map (·.wins)).sum
    tids := 256 - (us.map (·.tids)).sum }

/-- Whether a unit fits free resources. -/
def Need.fits (n room : Need) : Bool :=
  n.teams ≤ room.teams && n.teams * n.warps ≤ room.warps && n.spad ≤ room.spad && n.bars ≤ room.bars &&
    n.tags ≤ room.tags && n.wins ≤ room.wins && n.tids ≤ room.tids

/-- A fenced core takes no unit (R415). -/
def coreFits (s : State) (core : Nat) (n : Need) : Bool := !s.cmFence.contains core && n.fits (coreRoom s core)

/-- The lowest free team slots of a core. -/
def takeSlots (s : State) (core n : Nat) : List Nat :=
  ((List.range 32).filter (fun k => !(slotsTaken s core).contains k)).take n

/-! ### Priorities (R371, R429) -/

/-- The priority a launch has now: CPRI of its slot, while its queue is mapped there. -/
def launchPri (s : State) (l : Nat) : Nat :=
  match s.launch l with
  | none => 0
  | some x => if (s.slot x.slot).valid && (s.slot x.slot).qid == x.qid then (s.slot x.slot).cpri else x.pri

/-- A dispatch of a launch: its slot's CPRI returns to BPRI (R429). -/
def noteDispatch (s : State) (l : Nat) : State :=
  match s.launch l with
  | none => s
  | some x =>
    let p := launchPri s l
    let s := s.setLaunch l { x with pri := p }
    let k := s.slot x.slot
    if k.valid && k.qid == x.qid then s.setSlot x.slot { k with cpri := k.bpri, age := s.now } else s

/-- Whether an ORD launch with a suspended unit holds back a unit of a launch and priority: one of its own, or of its
priority or lower (R377). -/
def ordHolds (s : State) (launch pri : Nat) : Bool :=
  s.launches.any (fun e => !e.2.suspended.isEmpty && (e.1 == launch || pri ≤ launchPri s e.1))

/-! ### Records of decisions (R441, R442) -/

/-- How capture names a launch: its queue and its number there. -/
def launchName (s : State) (l : Nat) : Word64 :=
  match s.launch l with
  | some x => BitVec.ofNat 64 (x.qid * 2 ^ 32 + x.ring)
  | none => 0

/-- PLACE: launch, unit index, core, time. -/
def placeDecision (s : State) (q : Queued) (core : Nat) : Option State :=
  decision s 2 core [launchName s q.launch, BitVec.ofNat 64 q.index] [BitVec.ofNat 64 s.now]

/-- The core a replayed PLACE names for a unit. -/
def replayedCore (s : State) (q : Queued) : Option Nat :=
  match nextDecision s with
  | some (w :: r) => if bits w.toNat 56 8 == 2 && r.take 2 == [launchName s q.launch, BitVec.ofNat 64 q.index]
      then some (bits w.toNat 0 10) else none
  | _ => none

/-- Whether a replayed PLACE names a core that takes no unit: a fenced one, or for a gang one of a cluster with a fenced core.
The unit is placed as without a record (R442, R456, log 41). -/
def placeLost (s : State) (q : Queued) : Bool :=
  match replayedCore s q with
  | some c => if q.gang == 0 then s.cmFence.contains c
      else (List.range 4).any (fun m => s.cmFence.contains (c / 4 * 4 + m))
  | none => false

/-- The core to which a replayed PLACE binds a unit. -/
def boundCore (s : State) (q : Queued) : Option Nat := if placeLost s q then none else replayedCore s q

/-- The decision to place a unit on a core. -/
def placeOn (s : State) (q : Queued) (core : Nat) : Option State :=
  if placeLost s q then some (skipDecision s) else placeDecision s q core

/-- STEAL: unit, victim, thief. -/
def stealDecision (s : State) (q : Queued) (victim thief : Nat) : Option State :=
  decision s 3 (victim * 2 ^ 10 + thief) [launchName s q.launch, BitVec.ofNat 64 q.index] []

/-- ORD: unit, start-order index; a unit without an index is named by its place in the launch's order. -/
def ordDecision (s : State) (q : Queued) (index : Nat) : Option State :=
  decision s 4 index [launchName s q.launch, BitVec.ofNat 64 q.index] []

/-! ### Dispatch (R371, R373) -/

/-- What a die dispatcher places next: the highest priority first, and one unit or gang of each launch in turn; in
replay the unit recorded (R442). -/
def dieHead (s : State) (die : Nat) : Option Queued :=
  let b := (s.die die).backlog
  let top := (b.map (fun q => launchPri s q.launch)).foldl max 0
  match nextDecision s with
  | some (w :: r) =>
    if recordType (w :: r) == 2 then b.find? (fun q => r.take 2 == [launchName s q.launch, BitVec.ofNat 64 q.index]) else none
  | _ => b.find? (fun q => launchPri s q.launch == top)

/-- Take entries out of a backlog; the others of their launch go behind the other launches. -/
def takeBacklog (s : State) (die : Nat) (launch : Nat) (p : Queued → Bool) : State :=
  let d := s.die die
  let rest := d.backlog.filter (fun q => !(q.launch == launch && p q))
  s.setDie die { d with backlog := rest.filter (fun q => q.launch != launch) ++ rest.filter (fun q => q.launch == launch) }

/-- The core with the fewest queued units among those with room, the lowest index first (R373). -/
def shortestQueue (s : State) (die : Nat) : Option Nat :=
  ((List.range' (256 * die) 256).filter (fun c =>
    !s.cmFence.contains c && (s.core c).unitQueue.length < 64)).foldl
    (fun (b : Option Nat) c => match b with
      | none => some c
      | some x => if (s.core c).unitQueue.length < (s.core x).unitQueue.length then some c else b) none

/-- UNIT_DISPATCH (R373): in replay the recorded core is taken (R442). -/
def execUnitDispatch (die : Nat) (s : State) : Result :=
  match dieHead s die with
  | none => .next s
  | some q =>
    if q.gang != 0 then .next s
    else
      let core := match boundCore s q with
        | some c => if (s.core c).unitQueue.length < 64 then some c else none
        | none => shortestQueue s die
      match core with
      | none => .next s
      | some c => match placeOn s q c with
        | none => .next s
        | some s =>
          let pri := launchPri s q.launch
          let s := takeBacklog s die q.launch (fun x => x.index == q.index)
          let s := noteDispatch s q.launch
          let k := s.core c
          .next (s.setCore c { k with unitQueue := k.unitQueue ++ [{ q with pri }] })

/-! ### Residence (R373, R376) -/

/-- A unit becomes resident: its teams take the lowest slots, zero fill starts, and it counts as started. -/
def makeResident (s : State) (q : Queued) (core index base4k : Nat) (slots : List Nat) : State :=
  match s.launch q.launch with
  | none => s
  | some l => match l.vec with
    | none => s
    | some v =>
      let (uid, s) := freshId s
      let u := UnitRec.start q.launch index q.job core base4k q.need
      let u := { u with slots, gang := q.gang, member := q.member, gangSize := q.gangSize,
                        counter := u.counter.start q.need.teams }
      let s := (s.setUnit uid u).onLevels q.launch (·.start 1)
      slots.zipIdx.foldl (fun s k =>
        s.setTeam core k.1 { Team.start uid k.2 q.need.warps v.entry v.lcb v.arg with age := 32 * uid + k.2 }) s

/-- The next start-order index of a launch (R376). -/
def nextOrd (s : State) (l : Nat) : Nat := match s.launch l with | some x => x.ordNext | none => 0

/-- Place a unit that fits; `k` is its index where it has one. -/
def letIn (s : State) (q : Queued) (core : Nat) : Option State :=
  match firstFit (allocsOn s core) (q.need.spad / 4096) with
  | none => none
  | some base =>
    let slots := takeSlots s core q.need.teams
    if q.ord then
      let n := nextOrd s q.launch
      match ordDecision s q n with
      | none => none
      | some s => some (makeResident (s.onLaunch q.launch (fun x => { x with ordNext := x.ordNext + 1 })) q core n base slots)
    else some (makeResident s q core q.index base slots)

/-- A core's copy of the time base at the latest slot tick (R372). -/
def coreClock (s : State) (core : Nat) : Int := Int.ofNat (s.now / 1000 * 1000) + (s.core core).skew

/-- Whether a slot tick has come and the copies of the time base have been re-aligned at it (R372). -/
def atTick (s : State) : Bool := s.now % 1000 == 0 && s.ticked == s.now

/-- Whether a time-triggered start may happen on a core: at a slot tick at which its copy reads at least TIME. -/
def timeCome (s : State) (q : Queued) (core : Nat) : Bool :=
  q.startTime == 0 || (atTick s && decide (Int.ofNat q.startTime ≤ coreClock s core))

/-- UNIT_RESIDENT: the head unit, which is never skipped (R373, R376, R377). -/
def execUnitResident (core : Nat) (s : State) : Result :=
  match (s.core core).unitQueue with
  | [] => .next s
  | q :: rest =>
    if !coreFits s core q.need || ordHolds s q.launch q.pri || !timeCome s q core then .next s
    else match letIn (s.setCore core { s.core core with unitQueue := rest }) q core with
      | none => .next s
      | some s => .next s

/-! ### Gangs (R374) -/

/-- Whether the members of a gang can all become resident on a cluster in one cycle. -/
def gangFits (s : State) (ms : List Queued) (cl : Nat) : Bool :=
  ms.all (fun q => coreFits s (4 * cl + q.member) q.need)

/-- Whether the copies of the members' cores lie within 1,000 ns of each other (R372). -/
def skewClose (s : State) (ms : List Queued) (cl : Nat) : Bool :=
  ms.all (fun a => ms.all (fun b =>
    decide (((s.core (4 * cl + a.member)).skew - (s.core (4 * cl + b.member)).skew).natAbs ≤ 1000)))

/-- The programs of a bundle for a cluster wait for a slot there, with g3 (R345, R374). -/
def startPrograms (s : State) (launch cl : Nat) (g3 : Word64) : State :=
  match s.launch launch with
  | none => s
  | some l => (l.matrixRecs cl).foldl (fun s r =>
    let (id, s) := freshId s
    { s with waitProgs := s.waitProgs ++ [(id, { launch, job := l.job, cluster := cl, tidCount := bits (r.headD 0).toNat 0 9,
                                                 entry := (r[1]?).getD 0, arg := (r[2]?).getD 0, g3 })] }) s

/-- GANG_PLACE (R374): the cluster of CMASK that waits for this gang, else the lowest of the die that fits. -/
def execGangPlace (die : Nat) (s : State) : Result :=
  match dieHead s die with
  | none => .next s
  | some q =>
    if q.gang == 0 || ordHolds s q.launch (launchPri s q.launch) then .next s
    else
      let ms := (s.die die).backlog.filter (fun x => x.gang == q.gang)
      let own := match q.cluster with
        | some c => [c]
        | none => List.range' (64 * die) 64
      let cls := match boundCore s q with
        | some c => [c / 4]
        | none => own
      match cls.find? (gangFits s ms) with
      | none => .next s
      | some cl =>
        if q.startTime != 0 && atTick s && !skewClose s ms cl then
          .next (s.onLaunch q.launch (fun l => { l with status := l.status ||| 8 }))
        else if ms.any (fun x => !timeCome s x (4 * cl + x.member)) then .next s
        else
          let placed := ms.foldl (fun (a : Option State) x => a.bind (fun s =>
            (placeOn s x (4 * cl + x.member)).bind (fun s => letIn s x (4 * cl + x.member)))) (some s)
          match placed with
          | none => .next s
          | some s1 =>
            let s1 := noteDispatch (takeBacklog s1 die q.launch (fun x => x.gang == q.gang)) q.launch
            match q.cluster with
            | none => .next s1
            | some c =>
              let g3 := if q.ord then nextOrd s q.launch else q.index
              .next (startPrograms (s1.onLaunch q.launch (fun l => { l with cmask := l.cmask.filter (· != c) }))
                q.launch c (BitVec.ofNat 64 g3))

/-! ### Zero fill (R78) -/

/-- A unit's allocation reads as zero, clean, and its teams may issue. -/
def zeroFilled (s : State) (u : Nat) (r : UnitRec) : State :=
  let s := spadClear s r.core (r.base4k * 4096) r.need.spad
  { s with
    units := s.units.put u { r with st := .running }
    teams := s.teams.map (fun (e : Nat × Team) =>
      if e.2.unit == u && e.2.set_ == .zeroFill then (e.1, { e.2 with set_ := .pending }) else e) }

/-- ZERO_FILL_DONE (R78, R160). -/
def execZeroFillDone (unit : Nat) (s : State) : Result :=
  match s.unit unit with
  | none => .next s
  | some r => if r.st == .zeroing then .next (zeroFilled s unit r) else .next s

/-! ### Stealing (R375) -/

/-- One step of the victim generator. -/
def xorshift (w : Word32) : Word32 :=
  let a := w ^^^ (w <<< 13)
  let b := a ^^^ (a >>> 17)
  b ^^^ (b <<< 5)

/-- Draw until the victim is another core of the die that is not fenced: the state, and the victim's number on the die
(R375, R456). -/
def nextVictim (no : Nat → Bool) (own : Nat) : Nat → Word32 → Word32 × Nat
  | 0, w => (w, (own + 1) % 256)
  | n + 1, w =>
    let x := xorshift w
    if x.toNat % 256 != own && !no (x.toNat % 256) then (x, x.toNat % 256) else nextVictim no own n x

/-- A dry core: an empty queue, and room for a unit. -/
def coreDry (s : State) (core : Nat) : Bool :=
  (s.core core).unitQueue.isEmpty && !s.cmFence.contains core && 0 < (coreRoom s core).teams && 0 < (coreRoom s core).warps

/-- The victim that a replayed STEAL names for a thief (R442). -/
def replayedVictim (s : State) (core : Nat) : Option Nat :=
  match nextDecision s with
  | some r => if recordType r == 3 && bits (r.headD 0).toNat 0 10 == core then some (bits (r.headD 0).toNat 10 10) else none
  | none => none

/-- A steal request goes out with the free resources; in replay to the victim recorded (R442). -/
def askVictim (s : State) (core : Nat) : State :=
  let k := s.core core
  let r := nextVictim (fun v => s.cmFence.contains (core / 256 * 256 + v)) (core % 256) 4096 k.steal
  let v := (replayedVictim s core).getD (core / 256 * 256 + r.2)
  s.setCore core { k with steal := r.1, victim := v, sent := coreRoom s core, stealState := 1 }

/-- STEAL (R375). -/
def execSteal (core : Nat) (s : State) : Result :=
  if (s.core core).stealState == 0 && coreDry s core then .next (askVictim s core) else .next s

/-- Whether the owner takes the only unit of its queue: then it wins. -/
def ownerTakes (s : State) (core : Nat) : Bool :=
  match (s.core core).unitQueue with
  | [q] => coreFits s core q.need && !ordHolds s q.launch q.pri && timeCome s q core
  | _ => false

/-- STEAL_REPLY (R375): the victim's tail unit, which becomes resident on the thief, or a refusal. A unit that R372 or
R377 holds back there, or that no longer fits, stands first in the thief's queue and is not stolen again (log 87). -/
def execStealReply (core : Nat) (s : State) : Result :=
  let k := s.core core
  if k.stealState != 1 then .next s
  else
    let v := s.core k.victim
    let refuse := s.setCore core { k with stealState := 2 }
    match v.unitQueue.getLast? with
    | none => .next refuse
    | some q =>
      if q.aff || s.cmFence.contains k.victim || !q.need.fits k.sent || ownerTakes s k.victim then .next refuse
      else match stealDecision s q k.victim core with
        | none => .next refuse
        | some s =>
          let s := s.setCore k.victim { v with unitQueue := v.unitQueue.dropLast }
          let s := s.setCore core { s.core core with stealState := 0 }
          let wait := s.setCore core { s.core core with unitQueue := { q with aff := true } :: (s.core core).unitQueue }
          .next (if !coreFits s core q.need || ordHolds s q.launch q.pri || !timeCome s q core then wait
            else (letIn s q core).getD wait)

/-- STEAL_RETRY (R375): unless the queue has filled. -/
def execStealRetry (core : Nat) (s : State) : Result :=
  if (s.core core).stealState != 2 then .next s
  else if coreDry s core then .next (askVictim s core)
  else .next (s.setCore core { s.core core with stealState := 0 })

end Sys2Proof.Machine
end

