-- ==== Sys2Proof/Machine/Queues.lean ====
section
/-! DEFINITION. User queues: doorbells (R427), slots and their gates (R428), ageing (R429), queue control blocks (R425,
R426); signal updates (R430) and coalesced completion messages (R433). -/

namespace Sys2Proof.Machine
open Sys2Proof

/-! ### Queue control blocks -/

/-- Write back what the device keeps in a QCB: OVF, MAPPED, TAKEN and DONE (R425). -/
def syncQcb (s : State) (k : Slot) (mapped : Bool) : State :=
  let w := physWord s (k.qcb + 8)
  let w := (w &&& ~~~3#64) ||| BitVec.ofNat 64 ((if k.ovf then 2 else 0) + (if mapped then 1 else 0))
  physWriteWords (physWriteWords s (k.qcb + 8) [w]) (k.qcb + 0x10) [k.taken.setWidth 64, k.done.setWidth 64]

/-- The slot a queue is mapped to. -/
def slotOf (s : State) (q : Nat) : Option Nat := (s.slots.find? (fun e => e.2.valid && e.2.qid == q)).map (·.1)

/-- Whether bundle `i` of a queue is not DONE. -/
def bundleOpen (s : State) (qid i : Nat) : Bool := s.launches.any (fun e => !e.2.injected && e.2.qid == qid && e.2.ring == i)

/-- DONE of a queue: it advances past leading bundles that are DONE (R426). -/
def doneCount (s : State) (qid : Nat) (done taken : Word32) : Word32 :=
  (List.range (taken - done).toNat).foldl (fun (d : Word32) j =>
    if d == done + BitVec.ofNat 32 j && !bundleOpen s qid d.toNat then d + 1 else d) done

/-- A bundle of a queue is DONE: the slot's count advances, or the QCB's when the queue is not mapped (R426). -/
def advanceDone (s : State) (qid qcb : Nat) : State :=
  match slotOf s qid with
  | some n =>
    let k := s.slot n
    let k := { k with done := doneCount s qid k.done k.taken }
    syncQcb (s.setSlot n k) k true
  | none =>
    let done := (physWord s (qcb + 0x18)).setWidth 32
    let taken := (physWord s (qcb + 0x10)).setWidth 32
    physWriteWords s (qcb + 0x18) [(doneCount s qid done taken).setWidth 64]

/-! ### Doorbells and signals -/

/-- QKICK_WRITE: a kick (R427); before bring-up has ended queues accept none (R459, log 33). -/
def execQkickWrite (q : Nat) (w : Word32) (s : State) : Result :=
  let s := { s with qkick := s.qkick.put q w }
  if !bootOver s then .next s
  else match slotOf s q with
  | some n =>
    let k := s.slot n
    if 2 ^ k.size < (w - k.taken).toNat then
      let k := { k with ovf := true }
      .next (postEvent (syncQcb (s.setSlot n k) k true) 0x01 q)
    else
      let k := { k with windex := w, ovf := false }
      .next (syncQcb (s.setSlot n k) k true)
  | none =>
    .next (updateSignal { s with kickPend := setIns s.kickPend q } 4095 (s.signal 4095 + 1))

/-- SIGNAL_UPDATE by a store or AMO of 8 bytes; a control core's write of the kick signal is an access fault before it
is one (R427, R430). -/
def execSignalUpdate (sig : Nat) (op : SignalOp) (value : Word64) (s : State) : Result :=
  if 4096 ≤ sig then .next s else .next (updateSignal s sig (SignalOp.apply op (s.signal sig) value))

/-! ### Ageing (R429) -/

/-- Whether a launch has a vector record (R365). -/
def Launch.hasUnits (l : Launch) : Bool := l.recs.any (fun r => bits (r.headD 0).toNat 62 2 == 0)

/-- Whether a slot has pending work: bundles to take, or a unit of one of its launches that is not placed. -/
def pendingWork (s : State) (k : Slot) : Bool :=
  k.taken != k.windex || s.dies.any (fun d => d.2.backlog.any (fun q =>
    match s.launch q.launch with
    | some l => l.qid == k.qid
    | none => false)) ||
  s.launches.any (fun e => e.2.qid == k.qid && (match e.2.st with
    | .taken => e.2.recs.length < bits (e.2.hdr.headD 0).toNat 52 4 || e.2.hdr.isEmpty || e.2.hasUnits
    | .waiting | .starting => e.2.hasUnits
    | _ => false))

/-- CPRI_AGEING (R429). -/
def execCpriAgeing (slot : Nat) (s : State) : Result :=
  let k := s.slot slot
  if !k.valid || s.now < k.age + 250000 then .next s
  else if pendingWork s k then .next (s.setSlot slot { k with cpri := min (k.cpri + 1) 7, age := k.age + 250000 })
  else .next (s.setSlot slot { k with age := s.now })

/-- CQ_COALESCE_TIMEOUT (R433). -/
def execCqCoalesceTimeout (cq : Nat) (s : State) : Result :=
  let q := s.cq cq
  let tmo := bits q.ctl.toNat 16 16
  if tmo != 0 && q.unannounced != 0 && q.oldest + 1000 * tmo ≤ s.now then .next (announce s cq) else .next s

/-! ### Mapping (R436) -/

/-- A slot is emptied: its state goes to the QCB, and the queue's pending bit is set when work remains. -/
def unmapSlot (s : State) (n : Nat) : State :=
  let k := s.slot n
  if !k.valid then s
  else
    let s := syncQcb s k false
    let w := physWord s (k.qcb + 8)
    let s := physWriteWords s (k.qcb + 8) [(w &&& ~~~0xE00000000000#64) ||| BitVec.ofNat 64 (k.cpri * 2 ^ 45)]
    let s := physWriteWords s (k.qcb + 0x30) [BitVec.ofNat 64 k.age, BitVec.ofNat 64 k.last]
    let s := match k.injected with
      | some ws => { s with injSaved := s.injSaved.put k.qcb ws }
      | none => s
    let s := if pendingWork s k then { s with kickPend := setIns s.kickPend k.qid } else s
    { s with waiters := s.waiters.map (fun (e : Nat × List Waiter) => (e.1, e.2.filter (fun w => w != .slot n))),
             slots := s.slots.del n, launches := s.launches.del k.ahead }

/-- Load a QCB into an empty slot. -/
def mapSlot (s : State) (qcb n : Nat) : State :=
  let w (o : Nat) : Nat := (physWord s (qcb + o)).toNat
  let qid := bits (w 8) 24 12
  let k : Slot :=
    { valid := true, qcb, ring := bits (w 0) 7 49 * 128, job := bits (w 8) 51 6, bpri := bits (w 8) 48 3,
      cpri := bits (w 8) 45 3, size := bits (w 8) 36 4, qid, ovf := bits (w 8) 1 1 == 1,
      taken := BitVec.ofNat 32 (w 0x10), done := BitVec.ofNat 32 (w 0x18), gen := bits (w 0x20) 63 1 == 1,
      gop := bits (w 0x20) 60 3, gsig := bits (w 0x20) 0 12, gval := BitVec.ofNat 64 (w 0x28), age := w 0x30,
      windex := s.qkick.look 0 qid, injected := s.injSaved.find qcb, gateHeld := false, gateOpen := false, last := w 0x38, ahead := 0 }
  let s := { s with injSaved := s.injSaved.del qcb, kickPend := setDel s.kickPend qid }
  syncQcb (s.setSlot n k) k true

end Sys2Proof.Machine
end

