-- ==== Sys2Proof/Machine/Firmware.lean ====
section
/-! DEFINITION. The six dispatch instructions of the firmware harts (R262, R436), with the exception they take: mcause,
mtval, mepc, and the RISC-V trap entry to mtvec (log 6). -/

namespace Sys2Proof.Machine
open Sys2Proof

/-- x register `r` of a hart; x0 reads as zero. -/
def Hart.rd (h : Hart) (r : BitVec 5) : Word64 := if r = 0 then 0 else h.x.look 0 r.toNat
/-- Write x register `r`; a write to x0 is discarded. -/
def Hart.wr (h : Hart) (r : BitVec 5) (v : Word64) : Hart := if r = 0 then h else { h with x := h.x.put r.toNat v }

/-- A precise exception of a hart: MIE goes to MPIE, MPP reads machine mode, and the hart goes to mtvec (log 6). -/
def Hart.trap (h : Hart) (mcause : Nat) (mtval : Word64) : Hart :=
  let mie := (h.mstatus >>> 3) &&& 1#64
  { h with mepc := h.pc, mcause := BitVec.ofNat 64 mcause, mtval, pc := h.mtvec &&& ~~~3#64, wait := .none,
           mstatus := (h.mstatus &&& ~~~0x1888#64) ||| (mie <<< 7) ||| 0x1800#64 }

/-- The acting hart. -/
def withHart (s : State) (k : Nat → Hart → Result) : Result :=
  match s.cur with
  | .hart h => k h (s.hart h)
  | _ => .fault .noSuchAgent

/-- The acting hart takes an exception. -/
def hartTrap (s : State) (mcause : Nat) (mtval : Word64) : Result :=
  withHart s (fun h x => .next (s.setHart h (x.trap mcause mtval)))

/-- The acting hart writes rd and goes on. -/
def hartNext (s : State) (d : BitVec 5) (v : Word64) : Result :=
  withHart s (fun h x => .next (s.setHart h { x.wr d v with pc := x.pc + 4, wait := .none }))

/-- The acting hart waits. -/
def hartWait (s : State) (w : Wait) : Result :=
  withHart s (fun h x => .next (s.setHart h { x with wait := w }))

/-! ### Rings (R435) -/

/-- The control block of the package event ring (R434). -/
def eventRing : Nat := 0x0010000000610000

/-- Words of a ring control block at an address: the event ring's registers, or far memory with a valid extent. -/
def ringBlock (s : State) (a : Nat) : Option (Word64 × Word64) :=
  if a == eventRing then some (s.event.base, s.event.head ++ s.event.prod)
  else match physRead s a 16 with
    | some (bs, _) => some (bytesWord (bs.take 8), bytesWord (bs.drop 8))
    | none => none

/-- Advance CONS of a ring. -/
def setCons (s : State) (a : Nat) (prod cons : Word32) : State :=
  if a == eventRing then { s with event := { s.event with head := cons } }
  else physWriteWords s (a + 8) [cons ++ prod]

/-- RFETCH (R436). -/
def execRfetch (d r : BitVec 5) (s : State) : Result :=
  withHart s (fun _ h =>
    let a := (h.rd r).toNat
    if a % 16 != 0 then hartTrap s 24 (h.rd r)
    else match ringBlock s a with
      | none => hartTrap s 24 (h.rd r)
      | some (w0, w1) =>
        let z := bits w0.toNat 0 4
        if z == 0 || 12 < z || bits w0.toNat 4 8 != 0 || bits w0.toNat 52 12 != 0 then hartTrap s 24 (h.rd r)
        else
          let prod := w1.setWidth 32
          let cons := w1.extractLsb' 32 32
          if prod == cons then hartNext s d 0
          else
            let e := bits w0.toNat 12 40 * 4096 + 8 * (cons.toNat % 2 ^ z)
            let v := physWord s e
            hartNext (setCons (physWriteWords s e [0]) a prod (cons + 1)) d v)

/-- FW_BFX (R436). -/
def execFwBfx (d r t : BitVec 5) (s : State) : Result :=
  withHart s (fun _ h =>
    let w := (h.rd t).toNat
    let start := bits w 0 6
    let len := bits w 8 6
    if 64 < start + len || bits w 14 50 != 0 || bits w 6 2 != 0 then hartTrap s 25 (h.rd t)
    else hartNext s d (BitVec.ofNat 64 (bits (h.rd r).toNat start len)))

/-- The signal an address names (R430). -/
def signalAt (a : Nat) : Option Nat :=
  if a % 8 == 0 && 0x0010000100000000 ≤ a && a < 0x0010000100008000 then some ((a - 0x0010000100000000) / 8) else none

/-- SWAIT (R430, R436): a parked hart is woken by the walk of an update. -/
def execSwait (d r t : BitVec 5) (s : State) : Result :=
  withHart s (fun n h =>
    let cond := bits (h.rd t).toNat 61 3
    let c : Word64 := BitVec.ofNat 64 (bits (h.rd t).toNat 0 61)
    match signalAt (h.rd r).toNat with
    | none => hartTrap s 26 (h.rd r)
    | some g =>
      if 5 ≤ cond then hartTrap s 26 (h.rd t)
      else if h.wait == .signal g then .next s
      else if signalHolds cond (s.signal g) c false then hartNext s d (s.signal g)
      else hartWait { s with waiters := s.waiters.put g (s.waiters.look [] g ++ [.hart n d.toNat cond c]) } (.signal g))

/-- DISP (R436): the bundle is copied into the slot's injection entry, once that is free. -/
def execDisp (r t : BitVec 5) (s : State) : Result :=
  withHart s (fun _ h =>
    let n := (h.rd t).toNat
    let a := (h.rd r).toNat
    if 32 ≤ n || !(s.slot n).valid then hartTrap s 27 (h.rd t)
    else if a % 64 != 0 then hartTrap s 27 (h.rd r)
    else if (s.slot n).injected.isSome then hartWait s (.injection n)
    else hartNext (s.setSlot n { s.slot n with injected := some ((List.range 16).map (fun i => physWord s (a + 8 * i))) }) 0 0)

/-- QMAP (R425, R436). -/
def execQmap (r t : BitVec 5) (s : State) : Result :=
  withHart s (fun _ h =>
    let n := (h.rd t).toNat
    let a := (h.rd r).toNat
    let w1 := (physWord s (a + 8)).toNat
    let g := (physWord s (a + 0x20)).toNat
    if 32 ≤ n then hartTrap s 28 (h.rd t)
    else if a % 128 != 0 || bits w1 63 1 == 0 || bits w1 0 1 == 1 || bits w1 36 4 == 0 ||
        (bits g 63 1 == 1 && 5 ≤ bits g 60 3) then hartTrap s 28 (h.rd r)
    else hartNext (mapSlot (unmapSlot s n) a n) 0 0)

/-- QUNMAP (R436). -/
def execQunmap (d r : BitVec 5) (s : State) : Result :=
  withHart s (fun _ h =>
    let n := (h.rd r).toNat
    if 32 ≤ n then hartTrap s 29 (h.rd r)
    else if !(s.slot n).valid then hartNext s d 0
    else hartNext (unmapSlot s n) d (BitVec.ofNat 64 ((s.slot n).qcb + 1)))

end Sys2Proof.Machine
end

