-- ==== Sys2Proof/Machine/Programs.lean ====
section
/-! DEFINITION. The order in which a cluster's matrix programs issue (R345). -/

namespace Sys2Proof.Machine
open Sys2Proof

/-- Whether the wait of a matrix program has ended (R84, R94, R209, R346, R351, R353); a wait that its instruction tests
itself has. -/
def progWaitOver (s : State) (cl slot : Nat) (p : Prog) : Bool :=
  let c := s.cluster cl
  match p.th.wait with
  | .register r => p.th.gPend.look 0 r == 0
  | .barrier v n ph => (match s.unit v with | some r => (r.bar (n % 512)).phase != ph | none => true)
  | .bank => (List.range 32).any (fun b => (c.banks.look Bank.idle b).st == .free) ||
      (match p.th.at_ with
       | some (.zeroing b) => (c.banks.look Bank.idle b).st != .zeroing
       | _ => false)
  | .retiring b => (c.banks.look Bank.idle b).st != .retiring || (c.banks.look Bank.idle b).prog != slot
  | .matrixQueue room => (c.opsOf slot).length ≤ room
  | .binding none => !(c.opsOf slot).any MxOp.namesPort
  | .binding (some index) => (match unitOf s p.launch index with
      | some (_, r) => r.st == .ended || clusterOf r.core != cl ||
          ((c.binding.isNone || (c.boundTo slot).isSome) && r.st != .zeroing && !r.away)
      | none => !notPlaced s p.launch index)
  | .holders t => !(p.tids.look TidEntry.unbound t).binding
  | .bind t _ => (p.tids.look TidEntry.unbound t).holders == 0 && !(p.tids.look TidEntry.unbound t).binding
  | .descriptor req => bindReady s req
  | .code va => !s.reqs.any (fun e => e.2.kind == .code && e.2.agent == .prog cl slot && e.2.va == va / 128 * 128)
  | _ => true

/-- Whether a matrix program can issue: a blocked one takes no turn, and delays none (R345). -/
def progReady (s : State) (cl slot : Nat) (p : Prog) : Bool :=
  !p.saved && (p.th.pending.any (fun x => !x.shelf) || progWaitOver s cl slot p)

/-- The ready programs of a cluster, as (slot, program). -/
def readyProgs (s : State) (cl : Nat) : List (Nat × Prog) :=
  (s.progs.filter (fun e => e.1 / 4 == cl && progReady s cl (e.1 % 4) e.2)).map (fun e => (e.1 % 4, e.2))

/-- The program whose turn it is: the oldest ready one that has not issued in this round, else the oldest of a new round
(R345). -/
def progDue (s : State) (cl : Nat) : Option (Nat × Bool) :=
  let ready := readyProgs s cl
  let old (l : List (Nat × Prog)) : Option Nat := (leastBy (fun (e : Nat × Prog) => e.2.age) l).map (·.1)
  match old (ready.filter (fun e => !(s.cluster cl).served.contains e.1)) with
  | some k => some (k, false)
  | none => (old ready).map (fun k => (k, true))

/-- A program issues in its round. -/
def serveProg (s : State) (cl slot : Nat) (fresh : Bool) : State :=
  let c := s.cluster cl
  s.setCluster cl { c with served := if fresh then [slot] else setIns c.served slot }

end Sys2Proof.Machine
end

