-- ==== Sys2Proof/Machine/Schedule.lean ====
section
/-! DEFINITION. Which team of a core goes on: the active set, the datapath and the ageing cap (R228, R378, R379). -/

namespace Sys2Proof.Machine
open Sys2Proof

/-- Thousandths of a core-clock cycle that a die has seen (R2). -/
def dieMilli (s : State) (die : Nat) : Nat :=
  let b := s.clkBase.look (0, 0) die
  b.2 + (s.now - b.1) * (s.pwrClk.look 1200 die).toNat

/-- Core-clock cycles that a die has seen; the nominal clock is 1,200 MHz (R1, R2, R457). -/
def dieCycles (s : State) (die : Nat) : Nat := dieMilli s die / 1000

/-! ### Whether a wait has ended -/

/-- Whether a blocking wait of a team's scalar stream has ended; the waits that hold the stream alone are tested again
by its instruction. -/
def waitOver (s : State) (t : Team) : Bool :=
  match s.unit t.unit with
  | none => true
  | some u => match t.th.wait with
    | .register r => t.th.gPend.look 0 r == 0
    | .queueRoom => t.queue.length < 64
    | .barrier v n p => (match s.unit v with | some r => (r.bar (n % 512)).phase != p | none => true)
    | .tags m any _ => tagTest u m any != .wait
    | .tagRoom n => (u.tag n).out < 255
    | .operandLog => t.opLog.length < 16
    | .peg w => (u.win w).freePegs != 0 || (u.win w).slots == 0
    | .slotWrites w j => !writesToward s t.unit ((u.win w).slotBase j) (u.win w).stride
    | .landed w j _ => (u.win w).slotState j != .armed
    | .pegsHome w => (u.win w).freePegs == (u.win w).pegs
    | .call => t.set_ != .parked
    | _ => true

/-- The lane instruction at the head of a team's queue (R210). -/
def headPass (s : State) (core slot : Nat) (t : Team) : Option Pass :=
  match s.unit t.unit, t.queue with
  | some u, e :: _ => match laneDecode (e.tmode.getLsbD 0) e.parcels with
    | .ok i => (laneOf i).map (fun w => ⟨core, slot, t, u, e, w.1, w.2, s.now⟩)
    | .error _ => none
  | _, _ => none

/-- Whether a team waits for code that met NOTPRESENT: it is parked, and blocked like any other (R399). -/
def codeParked (s : State) (core slot : Nat) (t : Team) : Bool :=
  match t.th.wait with
  | .code va => s.reqs.any (fun e => e.2.kind == .code && e.2.agent == .team core slot && e.2.va == va / 128 * 128 &&
      (e.2.st == .parked || e.2.st == .holding))
  | _ => false

/-- Whether a team's scalar stream waits for a blocking cause (R228, R399). -/
def scalarBlocked (s : State) (core slot : Nat) (t : Team) : Bool :=
  (t.th.wait.blocks && !waitOver s t) || codeParked s core slot t

/-- What keeps a lane instruction from its first pass: none where it goes on, or traps. -/
def Pass.waits (x : Pass) (s : State) : Option Wait :=
  if x.emptyTrap.isSome || (x.portTrap s).isSome then none
  else match x.headWait s with
    | some w => some w
    | none => if 0x80 ≤ x.op && x.op ≤ 0x85 then x.memWait s else none

/-- Whether a team's lane stream can issue a pass (R378); in handler mode it stands still (R393). -/
def canPass (s : State) (core slot : Nat) (t : Team) : Bool :=
  !t.th.handler && (match headPass s core slot t with
    | some x => (x.waits s).isNone
    | none => false)

/-- Whether the head of a team's lane queue waits for a blocking cause (R216, R228, R327). -/
def laneBlocked (s : State) (core slot : Nat) (t : Team) : Bool :=
  !t.th.handler && (match headPass s core slot t with
    | some x => (match x.waits s with | some w => w.blocks | none => false)
    | none => false)

/-- Whether a team is blocked (R228): parked in SYSC, or one of its streams waits for a blocking cause. -/
def teamBlocked (s : State) (core slot : Nat) (t : Team) : Bool :=
  t.set_ == .parked || scalarBlocked s core slot t || laneBlocked s core slot t

/-- Whether a team has no place in the active set: no cause waits for it, and its lane stream waits for a blocking cause,
or its scalar stream does while no lane pass can issue (log 85). -/
def teamStuck (s : State) (core slot : Nat) (t : Team) : Bool :=
  !t.th.pending.any (fun p => !p.shelf) &&
    (laneBlocked s core slot t || (scalarBlocked s core slot t && !canPass s core slot t))

/-- Whether a pending team can go on (R379, log 85). -/
def teamReady (s : State) (core slot : Nat) (t : Team) : Bool := t.set_ == .pending && !teamStuck s core slot t

/-! ### The active set (R378, R379) -/

/-- The teams of a core for which `p` holds, as (slot, team). -/
def coreTeams (s : State) (core : Nat) (p : Nat → Team → Bool) : List (Nat × Team) :=
  (s.teams.filter (fun e => e.1 / 32 == core && p (e.1 % 32) e.2)).map (fun e => (e.1 % 32, e.2))

/-- The oldest of teams (R378). -/
def oldest (l : List (Nat × Team)) : Option (Nat × Team) := leastBy (fun (e : Nat × Team) => e.2.age) l

/-- Teams of the active set of a core (R378). -/
def activeTeams (s : State) (core : Nat) : Nat := (coreTeams s core (fun _ t => t.set_ == .active)).length

/-- The oldest ready pending team of a core (R379). -/
def oldestReady (s : State) (core : Nat) : Option (Nat × Team) := oldest (coreTeams s core (teamReady s core))

/-- A team enters the active set. -/
def activate (s : State) (core slot : Nat) : State :=
  s.onTeam core slot (fun t => { t with set_ := .active, since := dieCycles s (dieOf core) })

/-- Active teams that have blocked leave the active set (R228, R379). -/
def dropStuck (s : State) (core : Nat) : State :=
  (coreTeams s core (fun k t => t.set_ == .active && teamStuck s core k t)).foldl
    (fun s e => s.onTeam core e.1 (fun t => { t with set_ := .pending })) s

/-- Free places of the active set go to ready pending teams, the oldest first (R379). -/
def fillPlaces (core : Nat) : Nat → State → State
  | 0, s => s
  | n + 1, s =>
    if 8 ≤ activeTeams s core then s
    else match oldestReady s core with
      | some (k, _) => fillPlaces core n (activate s core k)
      | none => s

/-- Note since when a ready team has waited for a place. -/
def noteReady (s : State) (core : Nat) : State :=
  let c := s.core core
  let n := if (oldestReady s core).isNone then 0 else if c.readySince == 0 then dieCycles s (dieOf core) + 1 else c.readySince
  if n == c.readySince then s else s.setCore core { c with readySince := n }

/-- The active set of a core as it stands when one of its teams has its turn. -/
def settleCore (s : State) (core : Nat) : State := noteReady (fillPlaces core 8 (dropStuck s core)) core

/-! ### The datapath (R378, R379) -/

/-- Active teams that can issue a pass. -/
def passers (s : State) (core : Nat) : List (Nat × Team) :=
  coreTeams s core (fun k t => t.set_ == .active && canPass s core k t)

/-- The team the datapath serves: the one it serves already while that can issue a pass, then the oldest (R378). -/
def onDatapath (s : State) (core : Nat) : Option Nat :=
  let ps := passers s core
  match (s.core core).path with
  | some k => if ps.any (fun e => e.1 == k) then some k else (oldest ps).map (·.1)
  | none => (oldest ps).map (·.1)

/-- Passes of the head of a team's queue: one for each swept warp, one cycle without any (R222). -/
def headPasses (s : State) (core slot : Nat) (t : Team) : Nat :=
  match headPass s core slot t with
  | some x => max 1 x.swept.length
  | none => 1

/-- The datapath serves a team: its run of passes goes on while another team can issue one. -/
def serve (s : State) (core slot : Nat) (t : Team) : State :=
  let c := s.core core
  let rival := (passers s core).any (fun e => e.1 != slot)
  let n := if c.path == some slot && rival then c.run else 0
  s.setCore core { c with path := some slot, run := if rival then n + headPasses s core slot t else 0 }

/-- Whether the ageing cap of a team on the datapath has come: 4,096 cycles of passes while another team can issue one. -/
def passCap (s : State) (core slot : Nat) : Bool :=
  (s.core core).path == some slot && 4096 ≤ (s.core core).run && (passers s core).any (fun e => e.1 != slot)

/-- Whether a team has been 4,096 cycles in the active set while a ready team waited. -/
def setCap (s : State) (core : Nat) (t : Team) : Bool :=
  (s.core core).readySince != 0 && (oldestReady s core).isSome &&
    max t.since ((s.core core).readySince - 1) + 4096 ≤ dieCycles s (dieOf core)

/-- The youngest age: put last among the ready (R288, R379). -/
def youngest (s : State) (core slot : Nat) : State :=
  let (n, s) := freshId s
  s.onTeam core slot (fun t => { t with age := 32 * n + t.index })

/-- AGEING_CAP_DEMOTE: an active team whose cap has come takes the youngest age and swaps places with the oldest ready
pending team; the datapath goes on with the team it serves, unless that is the one (R379). -/
def execAgeingCapDemote (core slot : Nat) (s : State) : Result :=
  match s.team core slot with
  | none => .next s
  | some t =>
    if t.set_ != .active || 1024 ≤ core || 32 ≤ slot || !(passCap s core slot || setCap s core t) then .next s
    else
      let ready := oldestReady s core
      let s1 := youngest s core slot
      let s1 := if (s1.core core).path == some slot then s1.setCore core { s1.core core with path := none, run := 0 } else s1
      match ready with
      | none => .next s1
      | some (k, _) => .next (noteReady (activate (s1.onTeam core slot (fun t => { t with set_ := .pending })) core k) core)

end Sys2Proof.Machine
end

