-- ==== Sys2Proof/Machine/SaveArea.lean ====
section
/-! DEFINITION. The save area of a unit: the unit block (R412), the team blocks (R413) and the matrix block (R411) as a
save writes them, and the state that a resume loads from them (R417). The manual gives no layout for an entry of w0 to
w15, of the lane instruction queue, of the operand logs and of the matrix block: DESIGN CHOICE, log 18. -/

namespace Sys2Proof.Machine
open Sys2Proof

/-! ### Words of a save area -/

/-- Words at an offset of a save area. -/
def saveWords (s : State) (pa : Nat) (ws : List Nat) : State := physWriteWords s pa (ws.map (BitVec.ofNat 64))

/-- A word of a save area. -/
def areaWord (s : State) (pa : Nat) : Nat := (physWord s pa).toNat

/-- Words of a save area. -/
def areaWords (s : State) (pa n : Nat) : List Nat := (List.range n).map (fun k => areaWord s (pa + 8 * k))

/-- Bytes of a save area, 0 where it cannot be read. -/
def areaBytes (s : State) (pa n : Nat) : List Byte :=
  match physRead s pa n with
  | some (bs, _) => bs
  | none => List.replicate n 0

/-- Whether a save area can be read: it is in a valid extent. Else a resume keeps what the model holds (log 18). -/
def areaThere (s : State) (pa : Nat) : Bool := (physRead s pa 8).isSome

/-- The numbers below `n` for which `p` holds, as a bit mask. -/
def bitSet (n : Nat) (p : Nat → Bool) : Nat := (((List.range n).filter p).map (2 ^ ·)).sum

/-- Rows of bytes with the lengths of `rows`, taken from `bs`. -/
def cutRows : List (List Byte) → List Byte → List (List Byte)
  | [], _ => []
  | r :: rs, bs => bs.take r.length :: cutRows rs (bs.drop r.length)

/-! ### Snapshots, windows, tags, barriers (R412) -/

/-- The descriptor words of a snapshot (R101). -/
def Tensor.words (t : Tensor) : List Nat :=
  [t.version * 2 ^ 48 + t.tw * 2 ^ 32 + t.tr * 2 ^ 16 + (if t.scl then 2 ^ 12 else 0) + (if t.esc then 2 ^ 11 else 0) +
     (t.rank - 1) * 256 + t.loc * 64 + t.fmt,
   t.base, t.dim 0 + t.dim 1 * 2 ^ 32, t.dim 2 + t.dim 3 * 2 ^ 32, t.pitchOf 1 + t.pitchOf 2 * 2 ^ 32, t.pitchOf 3,
   t.scale, t.aux.toNat]

/-- The 64 bytes of an identifier: zeros where it is unbound. -/
def TidEntry.saved (e : TidEntry) : List Nat :=
  match e.snap with
  | some t => t.words
  | none => List.replicate 8 0

/-- An identifier as loaded; the operations that hold it go on holding it, and it names the allocation that it named when it
was bound (R351). -/
def TidEntry.loaded (e : TidEntry) (bs : List Byte) (unit : Nat) : TidEntry :=
  { e with snap := if bs.all (· == 0) then none
                   else some (parseTensor bs ((e.snap.map (·.unit)).getD unit)).1 }

/-- An identifier table as loaded from `pa` on. -/
def loadTids (s : State) (pa n unit : Nat) (tids : FMap TidEntry) : FMap TidEntry :=
  (List.range n).foldl (fun m k =>
    m.put k ((m.look TidEntry.unbound k).loaded (areaBytes s (pa + 64 * k) 64) unit)) tids

/-- An entry of w0 to w15: its status word (R70), its configuration word (R53), the shape of its tiles as in a
descriptor's word 0 (R101), and BASE (DESIGN CHOICE, log 18). -/
def Win.saved (x : Win) : List Nat :=
  [x.word.toNat, x.ltid + x.slots * 2 ^ 8 + x.pegs * 2 ^ 16 + x.bar0 * 2 ^ 32,
   x.tw * 2 ^ 32 + x.tr * 2 ^ 16 + (if x.scl then 2 ^ 12 else 0) + x.fmt, x.base, 0, 0, 0, 0]

/-- A window as loaded. -/
def winLoaded (ws : List Nat) : Win :=
  let q := (ws[0]?).getD 0
  let c := (ws[1]?).getD 0
  let d := (ws[2]?).getD 0
  { ltid := bits c 0 8, bar0 := bits c 32 10, pegs := bits c 16 5, slots := bits c 8 5, fmt := bits d 0 6,
    scl := bits d 12 1 == 1, tr := bits d 16 16, tw := bits d 32 16, base := (ws[3]?).getD 0, next_ := bits q 8 5,
    freePegs := bits q 16 5
    st := (List.range (bits c 8 5)).filterMap (fun j =>
      if bits q (48 + j) 1 == 1 then some (j, .armed) else if bits q (32 + j) 1 == 1 then some (j, .landed) else none) }

/-- A tag as loaded (R88). -/
def tagLoaded (w out : Nat) : Tag := ⟨out, bits w 0 1 == 1, bits w 32 32, bits w 17 1 == 1, bits w 16 1 == 1⟩

/-- A barrier's word (R412). -/
def Barrier.saved (b : Barrier) : Nat := b.expected * 2 ^ 32 + (if b.phase then 2 ^ 31 else 0) + b.arrived

/-- A barrier as loaded, with its claim flag. -/
def barLoaded (w : Nat) (claimed : Bool) : Barrier := ⟨bits w 32 32, bits w 0 31, bits w 31 1 == 1, claimed⟩

/-! ### The unit block (R412) -/

/-- The unit block is written. -/
def writeUnitBlock (s : State) (u : UnitRec) (bound : Bool) : State :=
  let pa := u.save
  let s := saveWords s pa
    [2 ^ 48 + u.job * 2 ^ 42 + u.core * 2 ^ 32 + (u.need.teams - 1) * 2 ^ 22 + u.index,
     (u.need.warps - 1) * 2 ^ 48 + u.need.spad / 4096 * 2 ^ 32 + (if u.gang == 0 then 0 else 1),
     (u.gangSize - 1) * 2 ^ 62 + u.member * 2 ^ 60 + (if bound then 1 else 0), 0, 0, 0, 0, 0]
  let s := (List.range 16).foldl (fun s k => saveWords s (pa + 0x40 + 64 * k) (u.win k).saved) s
  let s := (List.range 64).foldl (fun s k => saveWords s (pa + 0x440 + 16 * k) [(u.tag k).word.toNat, (u.tag k).out]) s
  let s := (List.range 512).foldl (fun s k => saveWords s (pa + 0x840 + 8 * k) [(u.bar k).saved]) s
  let s := (List.range 256).foldl (fun s k =>
    saveWords s (pa + 0x1840 + 64 * k) (u.tids.look TidEntry.unbound k).saved) s
  let s := (List.range 8).foldl (fun s k =>
    saveWords s (pa + 0x5840 + 8 * k) [bitSet 64 (fun j => (u.bar (64 * k + j)).claimed)]) s
  let c := s.cluster (clusterOf u.core)
  if bound then physWrite s (pa + 0x58C0) ((c.p0 ++ c.p1 ++ c.p3).flatten) false else s

/-- The state of a unit as its block gives it. -/
def loadUnit (s : State) (uid : Nat) (u : UnitRec) : UnitRec :=
  let pa := u.save
  if !areaThere s pa then u
  else
    let claimed (n : Nat) : Bool := bits (areaWord s (pa + 0x5840 + 8 * (n / 64))) (n % 64) 1 == 1
    { u with
      windows := (List.range u.need.wins).map (fun k => (k, winLoaded (areaWords s (pa + 0x40 + 64 * k) 4)))
      tags := (List.range u.need.tags).map (fun k =>
        (k, tagLoaded (areaWord s (pa + 0x440 + 16 * k)) (areaWord s (pa + 0x448 + 16 * k))))
      bars := (List.range u.need.bars).map (fun k => (k, barLoaded (areaWord s (pa + 0x840 + 8 * k)) (claimed k)))
      tids := loadTids s (pa + 0x1840) u.need.tids uid u.tids }

/-- The rows that the ports of a bound unit held, as its block gives them (R117). -/
def loadRows (s : State) (u : UnitRec) : State :=
  if !areaThere s u.save then s
  else
    let k := clusterOf u.core
    let c := s.cluster k
    let n (l : List (List Byte)) : Nat := (l.map List.length).sum
    let bs := areaBytes s (u.save + 0x58C0) (n c.p0 + n c.p1 + n c.p3)
    s.setCluster k { c with p0 := cutRows c.p0 bs, p1 := cutRows c.p1 (bs.drop (n c.p0)),
                            p3 := cutRows c.p3 (bs.drop (n c.p0 + n c.p1)) }

/-! ### Team blocks (R413) -/

/-- The full bits of a lane: v0 to v63, then q0 to q15. -/
def Team.fullBits (t : Team) (lane : Nat) : Nat :=
  bitSet 64 (fun r => (t.vcell lane r).pend == 0) + 2 ^ 64 * bitSet 16 (fun j => (t.qcell lane j).pend == 0)

/-- An entry of the lane instruction queue: four parcels, LPC, TMODE with the registers whose values are captured, and
their values (DESIGN CHOICE, log 18). -/
def LaneEntry.saved (e : LaneEntry) : List Nat :=
  let p (i : Nat) : Nat := (e.parcels[i]?).getD 0
  let regs := (e.caps.take 4).zipIdx
  [p 0 + 2 ^ 32 * p 1, p 2 + 2 ^ 32 * p 3, e.lpc.toNat,
   e.tmode.toNat + 2 ^ 8 * e.parcels.length + 2 ^ 12 * regs.length + (regs.map (fun r => 2 ^ (16 + 8 * r.2) * r.1.1)).sum] ++
  (List.range 4).map (fun i => ((e.caps[i]?).map (fun r => r.2.toNat)).getD 0)

/-- An entry of the queue as loaded; it keeps its place and the result its g destination waits for. -/
def laneLoaded (ws : List Nat) (seq gpend : Nat) : LaneEntry :=
  let w (i : Nat) : Nat := (ws[i]?).getD 0
  { parcels := ([w 0 % 2 ^ 32, w 0 / 2 ^ 32, w 1 % 2 ^ 32, w 1 / 2 ^ 32]).take (bits (w 3) 8 4), lpc := BitVec.ofNat 64 (w 2)
    tmode := BitVec.ofNat 5 (w 3)
    caps := (List.range (bits (w 3) 12 4)).foldl (fun m i =>
      FMap.put m (bits (w 3) (16 + 8 * i) 8) (BitVec.ofNat 64 (w (4 + i)))) []
    gpend, seq }

/-- An entry of the engine operand log: what the command is and what it names (DESIGN CHOICE, log 18). -/
def Cmd.saved (c : Cmd) : List Nat :=
  let kind : Nat := match c.kind with
    | .fpost => 1 | .wpost => 2 | .cpy => 3 | .ratm => 4 | .mred => 5 | .mfill => 6 | .copyList => 7
  [2 ^ 63 + kind * 2 ^ 56 + c.tag * 2 ^ 48 + c.win * 2 ^ 40 + c.winSlot * 2 ^ 32 + c.op * 2 ^ 24 + c.scope * 2 ^ 8 +
     (if c.acq then 2 else 0) + (if c.rel then 1 else 0),
   c.spc.toNat, c.dstCoord.toNat, c.srcCoord.toNat, c.operand.toNat, c.compare.toNat, c.chain.toNat, c.base]

/-- The gang accesses of one instruction of a team in a warp, oldest first: the entries of the gang operand log (R327). -/
def gangLogRows (s : State) (core slot w : Nat) : List (List GangAccess) :=
  let mine := (s.gangAcc.filter (fun e => e.2.core == core && e.2.slot == slot && e.2.lane / 32 == w)).map (·.2)
  ((mine.map (·.instr)).dedup).map (fun i => mine.filter (fun g => g.instr == i))

/-- An entry of the gang operand log: its header, then the address and data of every lane (DESIGN CHOICE, log 18). -/
def gangSaved (gs : List GangAccess) : List Nat :=
  match gs with
  | [] => [0]
  | g :: _ => [2 ^ 63 + g.op * 2 ^ 32 + g.sub * 2 ^ 40, bitSet 32 (fun j => gs.any (fun x => x.lane % 32 == j))] ++
      (List.range 32).flatMap (fun j => match gs.find? (fun x => x.lane % 32 == j) with
        | some x => [x.gaddr + 2 ^ 32 * x.compare.toNat, x.data % 2 ^ 64, x.data / 2 ^ 64]
        | none => [0, 0, 0])

/-- A team block is written; `core` and `slot` are where the team is. -/
def writeTeamBlock (s : State) (u : UnitRec) (core slot : Nat) (t : Team) : State :=
  let lanes := 32 * t.warps
  let pa := teamBlockAt u t
  let regs := match t.live with
    | some n => n
    | none => 64
  let last := (match t.live with | some n => n * 256 | none => 2 ^ 63) + t.sfqPos
  let s := physWriteWords s pa [t.th.spc, t.lpc, t.tmode.setWidth 64, t.fstat.setWidth 64, t.ften.setWidth 64, t.th.tvec,
    t.th.tcause, t.th.tepc, t.telpc, t.th.tinfo, t.keylo, t.keyhi, t.th.tcmp, t.pipecfg.setWidth 64, t.sysmbx,
    BitVec.ofNat 64 last]
  let s := physWriteWords s (pa + 0x100) ((List.range 32).map (fun r => t.th.rd (BitVec.ofNat 5 r)))
  let s := saveWords s (pa + 0x200) [bitSet 32 (fun r => t.th.full (BitVec.ofNat 5 r))]
  let s := (List.range 8).foldl (fun s m => physWrite s (pa + 0x400 + 128 * m) (bytesOfNum 128 (t.mask m).toNat) false) s
  let s := physWrite s (pa + 0x800) (bytesOfNum 128 t.fmask.toNat) false
  let s := writeSfq s u t
  let s := if t.live.isSome then s else (List.range 64).foldl (fun s k =>
    saveWords s (pa + 0xC00 + 64 * k) (((t.queue[k]?).map LaneEntry.saved).getD (List.replicate 8 0))) s
  let s := (List.range 16).foldl (fun s k =>
    saveWords s (pa + 0x1C00 + 64 * k)
      ((((t.opLog[k]?).bind (fun id => s.cmds.find id)).map Cmd.saved).getD (List.replicate 8 0))) s
  let s := [4, 5, 6, 7].foldl (fun s p =>
    let mine := u.pipes.filter (fun e => e.1 / 1024 == p && e.1 % 32 == t.index)
    physWrite s (pa + 0x2000 + 4096 * (p - 4)) (mine.flatMap (fun e => rowBytes e.2)) false) s
  let s := (List.range t.warps).foldl (fun s w =>
    (List.range 4).foldl (fun s e =>
      saveWords s (pa + 0x6000 + (4 * w + e) * 0x400) (gangSaved (((gangLogRows s core slot w)[e]?).getD []))) s) s
  let s := (List.range regs).foldl (fun s r =>
    physWrite s (pa + 0x26000 + 4 * (lanes * r)) (rowBytes (t.lanes.map (fun l => (t.vcell l r).val))) false) s
  let s := if t.live.isSome then s else (List.range 16).foldl (fun s j =>
    physWrite s (pa + 0x26000 + 256 * lanes + 4 * (lanes * j)) (rowBytes (t.lanes.map (fun l => (t.qcell l j).val))) false) s
  t.lanes.foldl (fun s l =>
    let s := physWrite s (pa + 0x26000 + 320 * lanes + 10 * l) (bytesOfNum 10 (t.fullBits l)) false
    physWrite s (pa + 0x26000 + 330 * lanes + 2 * l) (bytesOfNum 2 (t.c.look 0 l).toNat) false) s

/-- The pending result of a register that a save area says is empty and to which none is bound: it stays empty. -/
def noPend : Nat := 2 ^ 62

/-- A cell as loaded: full with the value saved, or empty for the result that it waits for. -/
def Cell.loaded (c : Cell) (full : Bool) (v : Nat) : Cell :=
  ⟨BitVec.ofNat 32 v, if full then 0 else if c.pend == 0 then noPend else c.pend⟩

/-- The store-fault records of a block. -/
def loadSfq (s : State) (pa : Nat) : List StoreFault :=
  ((List.range 16).map (fun k => areaWords s (pa + 0x880 + 32 * k) 4)).filterMap (fun ws =>
    let w (i : Nat) : Nat := (ws[i]?).getD 0
    if bits (w 0) 63 1 == 0 then none
    else some ⟨bits (w 0) 56 4, bits (w 0) 50 6, bits (w 0) 0 32, BitVec.ofNat 64 (w 1), BitVec.ofNat 64 (w 2),
      BitVec.ofNat 64 (w 3)⟩)

/-- The lane instruction queue of a block. -/
def loadQueue (s : State) (pa : Nat) (held : List LaneEntry) : List LaneEntry :=
  ((List.range 64).map (fun k => (k, areaWords s (pa + 0xC00 + 64 * k) 8))).filterMap (fun (e : Nat × List Nat) =>
    if bits ((e.2[3]?).getD 0) 8 4 == 0 then none
    else some (laneLoaded e.2 (((held[e.1]?).map (·.seq)).getD 0) (((held[e.1]?).map (·.gpend)).getD 0)))

/-- The scalar stream as a block gives it: its control registers, and g0 to g31 with full and empty. -/
def Thread.loaded (t : Thread) (s : State) (pa : Nat) : Thread :=
  let full := areaWord s (pa + 0x200)
  let regs := (List.range' 1 31)
  { t with
    spc := physWord s pa, tvec := physWord s (pa + 0x28), tcause := physWord s (pa + 0x30), tepc := physWord s (pa + 0x38)
    tinfo := physWord s (pa + 0x48), tcmp := physWord s (pa + 0x60)
    g := regs.foldl (fun m r => m.put r (physWord s (pa + 0x100 + 8 * r))) t.g
    gPend := regs.foldl (fun (m : FMap Nat) r =>
      if bits full r 1 == 1 then m.del r else m.put r (if m.look 0 r == 0 then noPend else m.look 0 r)) t.gPend }

/-- A team as its block gives it (R413, R417): v0 to v(LIVE-1) of a cooperative save, every register of the other. -/
def loadTeam (s : State) (u : UnitRec) (t : Team) : Team :=
  let pa := teamBlockAt u t
  if !areaThere s pa then t
  else
    let lanes := 32 * t.warps
    let w (k : Nat) : Word64 := physWord s (pa + 8 * k)
    let regs := match t.live with
      | some n => n
      | none => 64
    let fullOf (l : Nat) : Nat := numOfBytes (areaBytes s (pa + 0x26000 + 320 * lanes + 10 * l) 10)
    let val (row l : Nat) : Nat := numOfBytes (areaBytes s (pa + 0x26000 + 4 * (lanes * row + l)) 4)
    let vs (l : Nat) : FMap Cell := (List.range regs).map (fun r =>
      (l * 64 + r, (t.vcell l r).loaded (bits (fullOf l) r 1 == 1) (val r l)))
    let qs (l : Nat) : List Cell := (List.range 16).map (fun j =>
      (t.qcell l j).loaded (bits (fullOf l) (64 + j) 1 == 1) (val (64 + j) l))
    { t with
      th := t.th.loaded s pa, lpc := w 1, tmode := (w 2).setWidth 5, fstat := (w 3).setWidth 5, ften := (w 4).setWidth 5
      telpc := w 8, keylo := w 10, keyhi := w 11, pipecfg := (w 13).setWidth 32, sysmbx := w 14
      sfqPos := bits (w 15).toNat 0 2, sfq := loadSfq s pa
      k := (List.range 8).map (fun m => (m, BitVec.ofNat 1024 (numOfBytes (areaBytes s (pa + 0x400 + 128 * m) 128))))
      fmask := BitVec.ofNat 1024 (numOfBytes (areaBytes s (pa + 0x800) 128))
      queue := if t.live.isSome then t.queue else loadQueue s pa t.queue
      v := t.lanes.flatMap vs
      q := if t.live.isSome then t.q else t.lanes.map (fun l => (l, qs l))
      c := t.lanes.map (fun l => (l, BitVec.ofNat 16 (numOfBytes (areaBytes s (pa + 0x26000 + 330 * lanes + 2 * l) 2)))) }

/-- The words of bytes. -/
def wordsOfBytes (n : Nat) (bs : List Byte) : List Word32 :=
  (List.range n).map (fun i => BitVec.ofNat 32 (numOfBytes ((bs.drop (4 * i)).take 4)))

/-- The pipes that a team pops, as its block gives them. -/
def loadPipes (s : State) (u : UnitRec) (t : Team) : UnitRec :=
  let pa := teamBlockAt u t
  if !areaThere s pa then u
  else [4, 5, 6, 7].foldl (fun u p =>
    let mine := u.pipes.filter (fun e => e.1 / 1024 == p && e.1 % 32 == t.index)
    (mine.foldl (fun (a : UnitRec × Nat) e =>
      let ws := wordsOfBytes e.2.length (areaBytes s (pa + 0x2000 + 4096 * (p - 4) + a.2) (4 * e.2.length))
      ({ a.1 with pipes := a.1.pipes.put e.1 ws }, a.2 + 4 * e.2.length)) (u, 0)).1) u

/-! ### The matrix block (R411) -/

/-- The banks a program holds, in ascending number. -/
def Cluster.heldBanks (c : Cluster) (slot : Nat) : List Nat :=
  (List.range 32).filter (fun b =>
    let k := c.banks.look Bank.idle b
    k.st == .held && k.prog == slot)

/-- The words of a queued operation: what it is, its coordinate words, and its identifiers (DESIGN CHOICE, log 18). -/
def MxOp.saved (o : MxOp) : List Nat :=
  let kind : Nat := match o.kind with | .mul => 1 | .zero => 2 | .drain => 3 | .store => 4
  [2 ^ 63 + kind * 2 ^ 56 + o.tile * 2 ^ 48 + o.kc * 2 ^ 40 + (if o.z then 2 ^ 33 else 0) + (if o.begun then 2 ^ 32 else 0) +
     o.line, o.a.coord.toNat, o.b.coord.toNat, o.ctl.toNat % 2 ^ 40 + o.a.tid * 2 ^ 48 + o.b.tid * 2 ^ 56]

/-- The matrix block is written: the program's registers, its identifiers, its queue and its held banks. -/
def writeMatrixBlock (s : State) (u : UnitRec) (cl slot : Nat) : State :=
  match s.prog cl slot with
  | none => s
  | some p =>
    let pa := matrixBlock u
    let c := s.cluster cl
    let bs := c.heldBanks slot
    let psn := (bs.zipIdx.map (fun b => 2 ^ (4 * b.2) * bitSet 4 (fun j => c.tilePsn.contains (4 * b.1 + j)))).sum
    let s := physWriteWords s pa [p.th.spc, BitVec.ofNat 64 (bitSet 32 (bs.contains ·)), BitVec.ofNat 64 (psn % 2 ^ 64),
      BitVec.ofNat 64 (psn / 2 ^ 64), BitVec.ofNat 64 p.tidCount, p.th.tvec, p.th.tcause, p.th.tepc,
      BitVec.ofNat 64 (c.opsOf slot).length, p.th.tinfo, 0, 0, p.th.tcmp]
    let s := physWriteWords s (pa + 0x100) ((List.range 32).map (fun r => p.th.rd (BitVec.ofNat 5 r)))
    let s := saveWords s (pa + 0x200) [bitSet 32 (fun r => p.th.full (BitVec.ofNat 5 r))]
    let s := (List.range 256).foldl (fun s k =>
      saveWords s (pa + 0x400 + 64 * k) (p.tids.look TidEntry.unbound k).saved) s
    let s := (List.range 16).foldl (fun s k =>
      saveWords s (pa + 0x4400 + 32 * k) ((((c.opsOf slot)[k]?).map MxOp.saved).getD (List.replicate 4 0))) s
    bs.zipIdx.foldl (fun s b => (List.range 256).foldl (fun s r =>
      physWrite s (pa + 0x10000 + 0x10000 * b.2 + 256 * r)
        (rowBytes ((List.range 64).map (fun n => c.acc.look 0 (b.1 * 16384 + 64 * r + n)))) false) s) s

/-- The matrix program as its block gives it: the banks that its mask names, in ascending number; its queued operations go on as the model holds them (log 18). -/
def loadMatrix (s : State) (u : UnitRec) (cl slot : Nat) : State :=
  match s.prog cl slot with
  | none => s
  | some p =>
    let pa := matrixBlock u
    if !areaThere s pa then s
    else
      let c := s.cluster cl
      let mask := areaWord s (pa + 8)
      let bs := (List.range 32).filter (fun b => bits mask b 1 == 1)
      let psn := areaWord s (pa + 16) + 2 ^ 64 * areaWord s (pa + 24)
      let bound := match c.binding with | some b => b.unit | none => 0
      let c := (bs.zipIdx.filter (fun b => c.holdsBank slot b.1)).foldl (fun c b => [0, 1, 2, 3].foldl (fun (c : Cluster) j =>
        let tile := 4 * b.1 + j
        let at_ := pa + 0x10000 + 0x10000 * b.2 + 0x4000 * j
        let c := c.setTile tile (fun i => BitVec.ofNat 32 (numOfBytes (areaBytes s (at_ + 4 * i) 4)))
        { c with tilePsn := if bits psn (4 * b.2 + j) 1 == 1 then setIns c.tilePsn tile else setDel c.tilePsn tile }) c) c
      (s.setCluster cl c).setProg cl slot
        { p with th := p.th.loaded s pa, tids := loadTids s (pa + 0x400) p.tidCount bound p.tids }

end Sys2Proof.Machine
end

