-- ==== Sys2Proof/Machine/Preempt.lean ====
section
/-! DEFINITION. Pre-emption: requests, saves and deadlines (R407 to R410), darning (R414, R415), resume (R377, R417, R418,
R463), and fenced cores (R406, R456). -/

namespace Sys2Proof.Machine
open Sys2Proof

/-- The state after an outcome. -/
def after (r : Result) (s : State) : State :=
  match r with
  | .next t => t
  | .fault _ => s
  | .refused _ => s

/-! ### Saving a team (R409) -/

/-- What a cooperative save leaves: v from LIVE upward and the result queues read 0, full (R288). -/
def Team.forget (t : Team) (live : Nat) : Team :=
  { t with v := t.v.filter (fun e => e.1 % 64 < live), q := [] }

/-- Whether something of the team still waits for a pending result. -/
def Team.awaits (t : Team) (id : Nat) (p : Pending) : Bool :=
  p.store.isSome || p.op == 0x66 || p.cc.isSome || t.v.any (fun e => e.2.pend == id) ||
    t.q.any (fun e => e.2.any (fun c => c.pend == id)) || t.th.gPend.any (fun e => e.2 == id)

/-- Every result whose value is known arrives (R409). -/
def settleResults (s : State) (core slot : Nat) : State :=
  (s.pendings.filter (fun e => e.2.core == core && e.2.slot == slot)).foldl
    (fun s e => after (execLongResultArrival core slot e.1 s) s) s

/-- A team is saved: cooperatively with LIVE, or at instruction level. -/
def saveTeam (s : State) (core slot : Nat) (live : Option Nat) : State :=
  let s := settleResults s core slot
  match s.team core slot with
  | none => s
  | some t =>
    let t := { t with set_ := .saved, live }
    let t := match live with
      | some n => t.forget n
      | none => t
    { s with pendings := s.pendings.map (fun (e : Nat × Pending) =>
        if e.2.core == core && e.2.slot == slot && !t.awaits e.1 e.2 then (e.1, { e.2 with discard := true }) else e)
    }.setTeam core slot t

/-! ### Moving a team's traffic -/

/-- What is in flight for a team follows it to another key; its code fetches are left as prefetches. -/
def moveTraffic (s : State) (core slot core' slot' : Nat) : State :=
  { s with
    pendings := s.pendings.map (fun (e : Nat × Pending) =>
      if e.2.core == core && e.2.slot == slot then (e.1, { e.2 with core := core', slot := slot' }) else e)
    gangAcc := s.gangAcc.map (fun (e : Nat × GangAccess) =>
      if e.2.core == core && e.2.slot == slot then (e.1, { e.2 with core := core', slot := slot' }) else e)
    cmds := s.cmds.map (fun (e : Nat × Cmd) =>
      if e.2.agent == .team core slot then (e.1, { e.2 with agent := .team core' slot' }) else e)
    reqs := s.reqs.map (fun (e : Nat × Req) =>
      if e.2.agent == .team core slot then
        (e.1, if e.2.kind == .code then { e.2 with dest := 1 } else { e.2 with agent := .team core' slot' })
      else e) }

/-! ### Suspending a unit (R408, R410, R415) -/

/-- The units a command names: the whole gang (R407). -/
def gangUnits (s : State) (uid : Nat) (u : UnitRec) : List Nat :=
  if u.gang == 0 then [uid] else (s.units.filter (fun e => e.2.gang == u.gang && e.2.st != .ended)).map (·.1)

/-- Every scratchpad source that the unit's commands can still read is read (R410). -/
def readSources (s : State) (uid : Nat) : State :=
  (s.cmds.filter (fun e => e.2.unit == uid && (e.2.kind == .wpost || e.2.kind == .cpy))).foldl (fun s e =>
    match s.cmds.find e.1 with
    | some c => (prepare s e.1 c).getD s
    | none => s) s

/-- PSTAT after a result (R407). -/
def pstatWord (result entry : Nat) : Word64 :=
  BitVec.ofNat 64 (result * 2 ^ 62 + (entry - 1) / 64 * 64 + (entry - 1) % 64)

/-- A unit is suspended under a darning entry: sources are read, its blocks are written, its teams leave the core. -/
def suspendUnit (s : State) (uid entry : Nat) : State :=
  let s := readOperands (readSources s uid) uid
  match s.unit uid with
  | none => s
  | some u =>
    let s := writeUnitBlock s u (boundProg s uid u).isSome
    let ts := s.teamsOf uid
    let s := writeEvents (ts.foldl (fun s t => writeTeamBlock s u u.core t.1 t.2) s) { u with events := [], lostEvents := 0 }
    let s := match boundProg s uid u with
      | some (c, p) => writeMatrixBlock s u c p
      | none => s
    let x : Darning := { Darning.free with
      state := 1, unit := uid, core := u.core, base4k := u.base4k, size4k := u.need.spad / 4096, job := u.job,
      save := u.save, pend := boundCount s uid, mark := s.nextId }
    let s := s.setDarning entry x
    let s := s.setUnit uid { u with
      st := .suspended, entry, resumeCore := 0, auto := false,
      slots := (List.range u.need.teams).map (fun i => ((ts.find? (fun t => t.2.index == i)).map (·.1)).getD 32)
      savedTeams := ts.map (fun (t : Nat × Team) => (t.2.index, t.2)) }
    let s := { s with teams := s.teams.filter (fun e => e.2.unit != uid) }
    let s := ts.foldl (fun s t => moveTraffic s u.core t.1 (savedCore uid) t.2.index) s
    let s := s.onLaunch u.launch (fun l => match l.vec with
      | some v => if v.ord then { l with suspended := setIns l.suspended u.index } else l
      | none => l)
    let c := s.core u.core
    s.setCore u.core { c with pstat := pstatWord 1 entry, pcmdBusy := resumeRuns s u.core }

/-- Whether every team of a unit has been saved, and its matrix program too. -/
def unitSaved (s : State) (uid : Nat) (u : UnitRec) : Bool :=
  (s.teamsOf uid).all (fun t => t.2.set_ == .saved) &&
    (match boundProg s uid u with
     | some (c, p) => (match s.prog c p with | some r => r.saved | none => true)
     | none => true)

/-- Whether a matrix program is blocked: its wait is for a barrier, a bank, a register, room in its queue or its binding,
and has not ended. -/
def progBlocked (s : State) (cl slot : Nat) (p : Prog) : Bool :=
  match p.th.wait with
  | .barrier _ _ _ | .binding _ | .bank | .retiring _ | .register _ | .matrixQueue _ => !progWaitOver s cl slot p
  | _ => false

/-- Save what has blocked, of a unit that is being pre-empted, or all of it (R408, R422). -/
def saveBlocked (s : State) (uid : Nat) (u : UnitRec) (all : Bool) : State :=
  let s := (s.teamsOf uid).foldl (fun s t =>
    if t.2.set_ != .saved && (all || teamBlocked s u.core t.1 t.2)
    then saveTeam s u.core t.1 none else s) s
  match boundProg s uid u with
  | some (c, p) => s.onProg c p (fun r => if all || progBlocked s c p r then { r with saved := true } else r)
  | none => s

/-- The save area a unit is suspended to: on a fenced core, whose units are saved one after another, the area that PSAVE
names then (R406, R407, log 113). -/
def saveArea (s : State) (u : UnitRec) : Nat :=
  if s.cmFence.contains u.core then bits (s.core u.core).psave.toNat 12 40 * 4096 else u.save

/-- Whether the save area of a unit on a fenced core still holds another unit (log 113). -/
def areaTaken (s : State) (uid : Nat) (u : UnitRec) : Bool :=
  s.cmFence.contains u.core && s.units.any (fun e => e.1 != uid && e.2.away && e.2.save == saveArea s u)

/-- A unit that is being pre-empted goes on as R408 lays down; a gang is suspended whole (R463). -/
def settleUnit (s : State) (uid : Nat) : State :=
  match s.unit uid with
  | none => s
  | some u =>
    if u.st != .requested && u.st != .saving then s
    else
      let s := saveBlocked s uid u (u.st == .saving)
      let s := if unitSaved s uid u then s.onUnit uid (fun r => { r with st := .saving }) else s
      let mates := gangUnits s uid u
      if mates.all (fun v => match s.unit v with
          | some r => r.away || (r.st == .saving && unitSaved s v r && !areaTaken s v r)
          | none => true) then
        mates.foldl (fun s v => match s.unit v with
          | some r => if r.st == .saving then
              (match freeEntry s (dieOf r.core) with
               | some e => suspendUnit (s.setUnit v { r with save := saveArea s r }) v e
               | none => s)
            else s
          | none => s) s
      else s

/-- Whether a resuming unit has been loaded. -/
def loaded (s : State) (u : UnitRec) : Bool :=
  u.st == .resuming && (u.entry == 0 || 4 ≤ (s.darning u.entry).state)

/-- Whether a unit may not run where it is being resumed: the core, or for a gang one of its cluster, is fenced (R406,
R463). -/
def placeFenced (s : State) (u : UnitRec) : Bool :=
  if u.gang == 0 then s.cmFence.contains u.core
  else (List.range 4).any (fun m => s.cmFence.contains (u.core / 4 * 4 + m))

/-- A resume that cannot end is turned back: a unit that is being loaded stays in its save area, and a loaded one takes a
new entry in HOLD, its state still being saved (R406, R415, R463). -/
def turnBack (s : State) (uid : Nat) : State :=
  match s.unit uid with
  | none => s
  | some u =>
    if u.st == .suspended then dropResume s uid
    else if u.st != .resuming then s
    else if !loaded s u then
      dropResume ((s.setDarning u.entry { s.darning u.entry with state := 2 }).setUnit uid
        { u with st := .suspended, placed := false }) uid
    else match freeEntry s (dieOf u.core) with
      | none => s
      | some k =>
        let x : Darning := { Darning.free with
          state := 1, unit := uid, core := u.core, base4k := u.base4k, size4k := u.need.spad / 4096, job := u.job,
          save := u.save, pend := boundCount s uid, mark := s.nextId }
        let s := dropResume ((s.setDarning k x).setUnit uid { u with st := .suspended, entry := k }) uid
        s.setCore u.core { s.core u.core with pstat := pstatWord 1 k }

/-- Every unit that is being pre-empted, and every resume that a fence has overtaken. -/
def settleUnits (s : State) : State :=
  let s := (s.units.filter (fun e => e.2.st == .resuming && placeFenced s e.2)).foldl (fun s e =>
    (gangUnits s e.1 e.2).foldl turnBack s) s
  (s.units.filter (fun e => e.2.st == .requested || e.2.st == .saving)).foldl (fun s e => settleUnit s e.1) s

/-- A request or a force starts for one unit, by a command or by a fence (R406, R408). A unit still in its zero fill starts
after it. -/
def startSave (s : State) (uid : Nat) (force command : Bool) : State :=
  let s := match s.unit uid with
    | some u => if u.st == UnitState.zeroing then zeroFilled s uid u else s
    | none => s
  match s.unit uid with
  | none => s
  | some u =>
    if u.st != UnitState.running then s
    else
      let c := s.core u.core
      let s := s.setUnit uid { u with
        st := if force then .saving else .requested
        save := bits c.psave.toNat 12 40 * 4096
        deadline := dieCycles s (dieOf u.core) + c.pdl.toNat }
      let s := s.setCore u.core { c with pcmdBusy := c.pcmdBusy || command }
      let s := { s with teams := s.teams.map (fun (e : Nat × Team) =>
        if e.2.unit == uid then (e.1, { e.2 with th := { e.2.th with preq := true } }) else e) }
      match boundProg s uid u with
      | some (k, p) => s.onProg k p (fun r => { r with th := { r.th with preq := true } })
      | none => s

/-- PCMD CMD 1 and 2 (R407): ignored while BUSY. -/
def pcmdSave (core : Nat) (slot : BitVec 5) (force : Bool) (s : State) : Result :=
  let c := s.core core
  if c.pcmdBusy then .next s
  else
    let s := s.setCore core { c with pcmdSlot := slot }
    match s.team core slot.toNat with
    | none => .next s
    | some t => match s.unit t.unit with
      | none => .next s
      | some u => .next (settleUnits ((gangUnits s t.unit u).foldl (fun s v => startSave s v force true) s))

/-- PCMD_REQUEST (R407, R408). -/
def execPcmdRequest (core : Nat) (slot : BitVec 5) (s : State) : Result := pcmdSave core slot false s
/-- PCMD_FORCE (R407, R408). -/
def execPcmdForce (core : Nat) (slot : BitVec 5) (s : State) : Result := pcmdSave core slot true s

/-- PREEMPT_DEADLINE: every remaining team takes the instruction-level save (R408). -/
def execPreemptDeadline (unit : Nat) (s : State) : Result :=
  match s.unit unit with
  | none => .next s
  | some u =>
    if u.st != .requested || dieCycles s (dieOf u.core) < u.deadline then .next s
    else .next (settleUnits (s.setUnit unit { u with st := .saving }))

/-! ### The image (R415) -/

/-- The pages of an allocation. -/
def imagePages (u : UnitRec) : List Nat := (List.range (u.need.spad / 4096)).map (· * 4096)

/-- Whether the copy of an allocation has met an uncorrectable word (R81). -/
def copyHurt (s : State) (u : UnitRec) : Bool :=
  s.mem.ecc.any (fun e => e.2 == 3 && overlaps (spadKey u.core (u.spadOff 0)) u.need.spad (8 * e.1) 8)

/-- Copy the allocation to its shadow image, poison with it. -/
def copyOut (s : State) (u : UnitRec) : State :=
  (imagePages u).foldl (fun s o =>
    physCells s (u.save + shadowOffset u + o) ((List.range 4096).map (fun j =>
      ((unitByte s u (o + j)).1, 0xFF, (unitByte s u (o + j)).2)))) s

/-- Load the shadow image at the unit's place. -/
def copyIn (s : State) (u : UnitRec) : State :=
  (imagePages u).foldl (fun s o =>
    (List.range 512).foldl (fun s w =>
      let pa := u.save + shadowOffset u + o + 8 * w
      match physRead s pa 8 with
      | some (bs, p) => spadWrite s u.core (u.spadOff (o + 8 * w)) bs p
      | none => spadWrite s u.core (u.spadOff (o + 8 * w)) (List.replicate 8 0) true) s) s

/-- DARNING_COPY_DONE: the image is in the shadow, the allocation is free, and later landings are diverted; a unit
cancelled meanwhile goes to DISCARD (R415). A copy that meets an uncorrectable word fences the core instead (R81, R406). -/
def execDarningCopyDone (die entry : Nat) (s : State) : Result :=
  let k := 64 * die + entry + 1
  let e := s.darning k
  if e.state != 1 then .next s
  else match s.unit e.unit with
    | none => .next (s.setDarning k Darning.free)
    | some u =>
      let s := eccRead s u.core (u.spadOff 0) u.need.spad
      if copyHurt s u then .next s
      else
        let s := (copyOut s u).setUnit e.unit { u with placed := false }
        if u.st != .ended then .next (s.setDarning k { e with state := 2 })
        else if e.pend == 0 then .next (reapUnit (closeEntry s e.unit k) e.unit)
        else .next (s.setDarning k { e with state := 5 })

/-! ### Resume (R417, R418, R463) -/

/-- Whether the rules of R463 and R346 let a unit be resumed on a core. -/
def resumeAllowed (s : State) (uid : Nat) (u : UnitRec) (core : Nat) : Bool :=
  !s.cmFence.contains core && core < 1024 &&
    (match s.launch u.launch with
     | some l => (match l.vec with | some v => v.dies.getLsbD (dieOf core) | none => false)
     | none => false) &&
    (u.gang == 0 || (core % 4 == u.member &&
      s.units.all (fun e => e.2.gang != u.gang || e.1 == uid || e.2.resumeCore == 0 ||
        (e.2.resumeCore - 1) / 4 == core / 4) &&
      (List.range 4).all (fun m => !s.cmFence.contains (core / 4 * 4 + m)))) &&
    (if s.units.any (fun e => (e.1 == uid || (u.gang != 0 && e.2.gang == u.gang)) && (boundProg s e.1 e.2).isSome)
     then clusterOf core == clusterOf u.core else true)

/-- A resume begins when its entry diverts nothing more, no suspended unit of the launch comes before it, and the
core has room (R168, R377, R415). -/
def tryLoad (s : State) (uid : Nat) : State :=
  match s.unit uid with
  | none => s
  | some u =>
    let e := s.darning u.entry
    let core := u.resumeCore - 1
    let need := { u.need with teams := u.savedTeams.length }
    let first := match s.launch u.launch with
      | some l => l.suspended.all (fun i => u.index ≤ i || (u.gang != 0 && s.units.any (fun x =>
          x.2.launch == u.launch && x.2.index == i && x.2.gang == u.gang)))
      | none => true
    if u.st != .suspended || u.resumeCore == 0 || e.state != 2 || e.out != 0 || !first || !coreFits s core need then s
    else match firstFit (allocsOn s core) (u.need.spad / 4096) with
      | none => s
      | some b =>
        let s := s.setDarning u.entry { e with state := 3, ncore := core, nbase4k := b }
        s.setUnit uid { u with st := .resuming, core, base4k := b, placed := true,
                               slots := (List.range u.need.teams).map (fun i =>
                                 ((takeSlots s core u.savedTeams.length)[u.savedTeams.findIdx (fun k => k.1 == i)]?).getD 32) }

/-- PCMD_RESUME (R407, R463): SLOT is written; a resume that breaks the rules is ignored. -/
def execPcmdResume (core : Nat) (slot : BitVec 5) (s : State) : Result :=
  let s := if (s.core core).pcmdBusy then s else s.setCore core { s.core core with pcmdSlot := slot }
  let c := s.core core
  let a := bits c.psave.toNat 12 40 * 4096
  match s.units.find? (fun e => e.2.st == .suspended && e.2.save == a && e.2.resumeCore == 0) with
  | none => .next s
  | some (uid, u) =>
    if c.pcmdBusy || !resumeAllowed s uid u core then .next s
    else .next (tryLoad ((s.setUnit uid { u with resumeCore := core + 1 }).setCore core { c with pcmdBusy := true }) uid)

/-- Cores on which the scheduler may resume a unit, and the units that go with it: for a gang those of one cluster. -/
def resumePlaces (s : State) (uid : Nat) (u : UnitRec) (core : Nat) : List (Nat × Nat) :=
  if u.gang == 0 then [(uid, core)]
  else (gangUnits s uid u).filterMap (fun v => (s.unit v).map (fun r => (v, core / 4 * 4 + r.member)))

/-- Whether a suspended unit can be resumed on a core at once. -/
def canResume (s : State) (uid core : Nat) : Bool :=
  match s.unit uid with
  | some u => u.st == .suspended && u.resumeCore == 0 && resumeAllowed s uid u core &&
      coreFits s core { u.need with teams := u.savedTeams.length }
  | none => false

/-- Whether the entry of a suspended unit diverts nothing more (R168, R415). -/
def entryQuiet (s : State) (uid : Nat) : Bool :=
  match s.unit uid with
  | some u => (s.darning u.entry).state == 2 && (s.darning u.entry).out == 0
  | none => false

/-- The scheduler's own resume: the lowest index of a launch's set of suspended units, once its entry diverts nothing more,
at the first core that can take it, be it that a command named a core that cannot; the members of a gang on one cluster
(R377, R424, log 54). -/
def scheduleResume (s : State) (uid : Nat) : State :=
  match s.unit uid with
  | none => s
  | some u =>
    let due := match s.launch u.launch with
      | some l => l.suspended.contains u.index && l.suspended.all (fun i => u.index ≤ i)
      | none => false
    let mates := gangUnits s uid u
    if !due || !mates.all (entryQuiet s) then s
    else
      let free := mates.foldl dropResume s
      match (List.range 1024).find? (fun c =>
        (u.gang == 0 || c % 4 == u.member) && (resumePlaces free uid u c).all (fun p => canResume free p.1 p.2)) with
      | none => s
      | some c =>
        let ps := resumePlaces free uid u c
        ps.foldl (fun s p => tryLoad s p.1)
          (ps.foldl (fun s p => s.onUnit p.1 (fun r => { r with resumeCore := p.2 + 1, auto := true })) free)

/-- One event record is applied (R417); a fault of a team that has exited becomes its report (R418). -/
def applyEvent (uid core : Nat) (s : State) (e : EventRec) : State :=
  match s.unit uid with
  | none => s
  | some u =>
    if e.type_ == 1 then
      let v := u.countBytes e.num e.bytes
      let s := s.setUnit uid v
      match u.barOwner e.num with
      | some (w, j) => if (u.win w).slotState j == .armed && (v.win w).slotState j == .landed
          then captureTile s core e.team w j (slotBytes s u w j) else s
      | none => s
    else if e.type_ == 2 then s.setUnit uid { u with tags := u.tags.put e.num ((u.tag e.num).note e.bytes e.done e.psn e.flt) }
    else match (s.teamsOf uid).find? (fun t => t.2.index == e.num) with
      | some (sl, t) => s.setTeam core sl { t with th := t.th.post ⟨0x12, e.done, e.word, false, none⟩ }
      | none => endedReport s u e.num e.done

/-- The state of a unit and of what goes with it, as its save area gives it (R417). -/
def loadState (s : State) (uid : Nat) : State :=
  match s.unit uid with
  | none => s
  | some u =>
    let s := match boundProg s uid u with
      | some (k, p) => loadMatrix (loadRows s u) u k p
      | none => s
    let v := loadUnit s uid u
    let v := v.savedTeams.foldl (fun (v : UnitRec) x => loadPipes s v x.2) v
    s.setUnit uid { v with savedTeams := v.savedTeams.map (fun x => (x.1, loadTeam s v x.2)) }

/-- A loaded unit runs: its teams take their slots, events are applied, results that waited fill their entries, REQ is
cleared (R229, R408, R417, R418). -/
def runUnit (s : State) (uid : Nat) : State :=
  let s := loadState s uid
  match s.unit uid with
  | none => s
  | some u =>
    let (n, s) := freshId s
    let s := s.setUnit uid
      { u with st := .running, savedTeams := [], resumeCore := 0, auto := false, events := [], lostEvents := 0 }
    let s := u.savedTeams.foldl (fun s x =>
      let t : Team := x.2
      let sl := (u.slots[x.1]?).getD 0
      let th := { t.th with preq := false }
      let t := { t with th, live := none, age := 32 * n + t.index,
                        set_ := if t.th.wait == .call then .parked else .pending }
      settleResults (moveTraffic (s.setTeam u.core sl t) (savedCore uid) t.index u.core sl) u.core sl) s
    let s := u.events.foldl (applyEvent uid u.core) s
    let s := if u.lostEvents == 0 then s
      else applyEvent uid u.core s ⟨3, 0, false, false, 0, 0, BitVec.ofNat 64 (u.lostEvents % 2 ^ 32), 0⟩
    let s := s.onLaunch u.launch (fun l => { l with suspended := l.suspended.filter (· != u.index) })
    let c := s.core u.core
    let s := s.setCore u.core { c with pcmdBusy := c.pcmdBusy && u.auto, pstat := (c.pstat &&& 0x3FFFFFFFFFFFFFFF#64) ||| 0x8000000000000000#64 }
    match boundProg s uid u with
    | some (k, p) => s.onProg k p (fun r => { r with saved := false, th := { r.th with preq := false } })
    | none => s

/-- RESUME_LOAD_DONE (R415, R417, R463): the image is loaded; the members of a gang enter RUNNING together. For an entry
in DIVERT, the conditions of a resume that waits are tested again, and the scheduler may begin one (R377). -/
def execResumeLoadDone (die entry : Nat) (s : State) : Result :=
  let k := 64 * die + entry + 1
  let e := s.darning k
  match s.unit e.unit with
  | none => .next s
  | some u =>
    if e.state == 2 then
      let s := tryLoad s e.unit
      .next (match s.unit e.unit with
        | some r => if r.st == .suspended then scheduleResume s e.unit else s
        | none => s)
    else if e.state != 3 || u.st != .resuming then .next s
    else
      let s := copyIn s u
      let same := e.ncore == e.core && e.nbase4k == e.base4k
      let s := if same || e.pend == 0 then closeEntry s e.unit k
        else s.setDarning k { e with state := 4 }
      let c := s.core u.core
      let s := s.setCore u.core { c with pstat := (c.pstat &&& 0xC000000000000000#64) ||| BitVec.ofNat 64 (k - 1) }
      let mates := gangUnits s e.unit u
      if mates.all (fun v => match s.unit v with | some r => loaded s r && !placeFenced s r | none => true) then
        .next (mates.foldl runUnit s)
      else .next s

/-! ### Fenced cores (R406, R456) -/

/-- The teams in the save area of a lost unit end: each writes a report, and they count as failed (R404, R406). -/
def loseSaved (s : State) (uid : Nat) (r : UnitRec) : State :=
  let bid := match s.launch r.launch with | some l => l.bid | none => 0
  let s := r.savedTeams.foldl (fun s x =>
    teamReport s r.job (reportWords (teamTid r r.core ((r.slots[x.1]?).getD 0) x.2) bid 0 0xFE (x.2.fmask != 0) true 0 0 s.now)
      x.2.fmask) s
  let s := freeCalls s (r.savedTeams.flatMap (·.2.th.calls))
  let s := { s with
    pendings := s.pendings.map (fun (e : Nat × Pending) =>
      if e.2.core == savedCore uid then (e.1, { e.2 with discard := true }) else e)
    gangAcc := s.gangAcc.filter (fun e => e.2.core != savedCore uid) }
  let s := s.onUnit uid (fun r => { r.noteSaved s.now with
    failed := true
    counter := { r.counter with fail := true, done := satCount (r.counter.done + r.savedTeams.length) }
    savedTeams := [] })
  let s := gangAbort (s.onLevels r.launch (fun c => { c with fail := true })) r 0xFE
  let e := s.darning r.entry
  if r.entry != 0 && e.state != 4 then
    endUnit (if e.pend == 0 then closeEntry s uid r.entry else s.setDarning r.entry { e with state := 5 }) uid
  else
    let s := endUnit s uid
    match s.unit uid with
    | some r => (takeDiscard s uid r s.nextId (boundCount s uid)).getD s
    | none => s

/-- A unit that holds the failing word is lost; one whose image is being copied goes with its entry (R406). -/
def loseUnit (s : State) (uid : Nat) : State :=
  match s.unit uid with
  | none => s
  | some u =>
    if u.st == .suspended || u.st == .resuming then loseSaved s uid u
    else
      let s := (s.teamsOf uid).foldl (fun s t => endTeam s u.core t.1 0 0xFE true 0 0) s
      match s.unit uid with
      | none => s
      | some r => if r.entry != 0 && (s.darning r.entry).state != 4 then s
          else (takeDiscard s uid r s.nextId (boundCount s uid)).getD s

/-- The commands that would resume a unit on a core are given up (R407, R463). -/
def dropResumes (s : State) (core : Nat) : State :=
  (s.units.filter (fun e => e.2.st == .suspended && e.2.resumeCore != 0 &&
    (if e.2.gang == 0 then e.2.resumeCore == core + 1 else (e.2.resumeCore - 1) / 4 == core / 4))).foldl
    (fun s e => dropResume s e.1) s

/-- CORE_FENCE: an uncorrectable error on a core; `holds` says whose it is (R406). -/
def fenceCore (s : State) (core : Nat) (holds : Nat → UnitRec → Bool) : State :=
  if s.cmFence.contains core then s
  else
    let s := { s with cmFence := setIns s.cmFence core, cmGen := s.cmGen + 1 }
    let s := errorRecord s 2 0 (BitVec.ofNat 64 core) (s.cmGen.setWidth 64)
    let here := unitsOn s core
    let mine (e : Nat × UnitRec) : Bool := holds e.1 e.2 && (e.2.st != .resuming || loaded s e.2)
    let s := (here.filter (fun e => mine e && e.2.st != .ended)).foldl (fun s e => loseUnit s e.1) s
    let s := dropResumes s core
    let c := s.core core
    let s := s.setCore core { c with unitQueue := [], stealState := 0 }
    let d := s.die (dieOf core)
    let s := s.setDie (dieOf core) { d with backlog := d.backlog ++ c.unitQueue }
    let s := (here.filter (fun e => !mine e)).foldl (fun s e => match s.unit e.1 with
      | some u => (gangUnits s e.1 u).foldl (fun s v =>
          (startSave s v true false).onUnit v (fun r => if r.st == .requested then { r with st := .saving } else r)) s
      | none => s) s
    settleUnits s

/-- Whether the allocation of a unit holds a scratchpad word, by its key / 8. -/
def holdsWord (core word : Nat) (u : UnitRec) : Bool := overlaps (spadKey core (u.base4k * 4096)) u.need.spad (8 * word) 8

/-- Errors in register files, lane instruction queues and team states fence their cores (R406). -/
def settleHurt (s : State) : State :=
  (s.teams.filter (fun e => e.2.hurt)).foldl (fun s e =>
    fenceCore { s with teams := s.teams.map (fun x => if x.1 == e.1 then (x.1, { x.2 with hurt := false }) else x) }
      (e.1 / 32) (fun uid _ => uid == e.2.unit)) s

/-- What reads of damaged words lead to: a corrected word is written back and counted; an uncorrectable one fences
its core (R81, R406, R456). -/
def settleEcc (s : State) : State :=
  settleHurt (s.mem.ecc.foldl (fun s e =>
    let core := 8 * e.1 / 0x200000
    let clear (s : State) : State := { s with mem := { s.mem with ecc := s.mem.ecc.del e.1 } }
    if e.2 == 4 then
      let c := s.core core
      let n := if c.cecnt == 0xFFFFFFFF#32 then c.cecnt else c.cecnt + 1
      let s := (clear s).setCore core { c with cecnt := n }
      if n == s.ceLimit && n != c.cecnt then errorRecord s 4 0 (BitVec.ofNat 64 core) (n.setWidth 64) else s
    else if e.2 == 3 then fenceCore (clear s) core (fun _ u => holdsWord core e.1 u)
    else s) s)

end Sys2Proof.Machine
end

