-- ==== Sys2Proof/Machine/System.lean ====
section
/-! DEFINITION. The system instructions of the scalar stream: SYSC with its answer (R284, R451 to R453), YIELD (R288), EXIT
(R287), IRQ (R285, R448), LVL (R290), FENCE (R151, R158), DRAIN (R283); trap entry (R390 to R393) and the timer (R450). -/

namespace Sys2Proof.Machine
open Sys2Proof

/-! ### FENCE and DRAIN -/

/-- The reads of the team that an acquire fence orders before every later access, and the place of the fence (R151, R156). -/
def fenceReads (s : State) (core slot : Nat) : State :=
  { s.onTeam core slot (fun t => { t with fencedAt := s.nextId }) with gangAcc := s.gangAcc.map (fun e =>
      if e.2.core == core && e.2.slot == slot && e.2.op != 0x84 then (e.1, { e.2 with fence := true }) else e) }

/-- FENCE: lane passes before it are done, and before a release every earlier access is performed (R151). An acquire
fence holds later accesses back until earlier reads are performed (R156, R171). Accesses are performed in the order of
the model's steps, so an sc fence's place is its step (R158). -/
def execFence (k : BitVec 2) (sc : BitVec 3) (s : State) : Result :=
  if 4 < sc.toNat then illegalWord s (.fence k sc) 0x17
  else match s.cur with
    | .prog _ _ => withProg s (fun _ _ _ => .next (retire s))
    | _ => withTeam s (fun c sl t _ =>
        if passesDone t && (k == 0 || accessesDone s c sl t) then .next (fenceReads (retire s) c sl) else .next (block s .laneStream))

/-- DRAIN: lane passes and port stores before it are done, and every command issued before it has passed; then it is a
report point (R283, R328). -/
def execDrain (s : State) : Result :=
  withTeam s (fun c sl t _ =>
    if !passesDone t || portStoreBusy s c sl then .next (block s .laneStream)
    else if t.opLog.any (fun id => match s.cmds.find id with | some c => !c.passed | none => false) then .next (block s .drain)
    else withReport s t (.next (retire s)))

/-! ### YIELD and EXIT -/

/-- Whether a result bound for v0 to v(LIVE-1) is pending. -/
def Team.liveEmpty (t : Team) (live : Nat) : Bool := t.v.any (fun e => e.1 % 64 < live && e.2.pend != 0)

/-- YIELD (R288, R346, R393). -/
def execYield (l : BitVec 8) (w : BitVec 1) (s : State) : Result :=
  match s.cur with
  | .prog c p => withProg s (fun _ _ r =>
      if r.th.preq then .next ((retire s).onProg c p (fun r => { r with saved := true }))
      else if w == 1 then
        let (n, s) := freshId s
        .next ((retire s).onProg c p (fun r => { r with age := n }))
      else .next (retire s))
  | _ => withTeam s (fun c sl t _ =>
      if 64 < l.toNat then illegalWord s (.yield l w) 0x11
      else withReport s t (
        if t.th.preq then
          (if t.th.handler then .next (saveTeam (retire s) c sl none)
           else if passesDone t && !t.liveEmpty l.toNat then .next (saveTeam (retire s) c sl (some l.toNat))
           else .next (block s .results))
        else .next (if w == 1 then youngest (retire s) c sl else retire s)))

/-- EXIT (R287, R346): a team is a report point and waits for its accesses; a program for its operations. -/
def execExit (st : BitVec 16) (s : State) : Result :=
  match s.cur with
  | .prog c p => withProg s (fun _ _ _ =>
      if ((s.cluster c).opsOf p).isEmpty then .next (endProg s c p (st != 0)) else .next (block s (.matrixQueue 0)))
  | _ => withTeam s (fun c sl t _ => withReport s t (
      if accessesDone s c sl t then .next (endTeam s c sl st.toNat 0 (st != 0) 0 0) else .next (block s .laneStream)))

/-! ### IRQ -/

/-- IRQ: a message with TID and the time of issue; it blocks only for room. As a release the message follows the
accesses before it: IRQ_MESSAGE_MOVE waits for them (R285, R448, R449). Held entries of a handler do not count (R393). -/
def execIrq (a : BitVec 5) (v : BitVec 11) (s : State) : Result :=
  withTeam s (fun c sl t u => withRegs s [a] (fun th =>
    if 64 ≤ s.irqBuf.length then .next (block s .irqRoom)
    else .next (retire { s with irqBuf := s.irqBuf ++ [⟨v.toNat, th.rd a, teamTid u c sl t, s.now, t.unit, t.index,
      if t.th.handler then 0 else s.nextId, s.nextId⟩] })))

/-! ### LVL (R205, R206, R290) -/

/-- The launch of the acting stream. -/
def curLaunch (s : State) : Option Nat :=
  match s.cur with
  | .team c t => match s.team c t with
    | some r => (s.unit r.unit).map (·.launch)
    | none => none
  | .prog c p => (s.prog c p).map (·.launch)
  | _ => none

/-- The unit of the acting stream. -/
def curUnit (s : State) : Nat :=
  match s.cur with
  | .team c t => match s.team c t with
    | some r => r.unit
    | none => 0
  | _ => 0

/-- The counter of the level instance that holds the acting stream. -/
def levelCounter (s : State) (level : Nat) : Counter :=
  match curLaunch s with
  | none => Counter.zero
  | some l => match s.launch l with
    | none => Counter.zero
    | some x => match level with
      | 0 => ((s.unit (curUnit s)).map (·.counter)).getD Counter.zero
      | 1 => x.counter
      | 2 => s.graphs.look Counter.zero x.graphKey
      | 3 => s.phases.look Counter.zero x.phaseKey
      | _ => s.jobCtr.look Counter.zero x.job

/-- Cancel the level instance that holds a launch; a second cancel has no effect, and one of an instance whose members
have all finished only sets CXL (R206, R207). A bundle whose header is not read is tested once it is. -/
def cancelLevel (s : State) (level launch unit : Nat) : State :=
  match s.launch launch with
  | none => s
  | some x =>
    let c := match level with
      | 1 => x.counter
      | 2 => s.graphs.look Counter.zero x.graphKey
      | 3 => s.phases.look Counter.zero x.phaseKey
      | _ => s.jobCtr.look Counter.zero x.job
    let on : Counter := { c with cxl := true }
    if level == 0 then cancelUnit s unit
    else if c.cxl then s
    else
      let inGraph (l : Launch) : Bool := !l.hdr.isEmpty && l.graphKey == x.graphKey
      let inPhase (l : Launch) : Bool := !l.hdr.isEmpty && l.phaseKey == x.phaseKey
      match level with
      | 1 =>
        let s1 := s.setLaunch launch { x with counter := on }
        if instanceOver s c x.job (fun l => l.order == x.order) (fun _ => false) then s1 else cancelLaunch s1 launch
      | 2 =>
        let s1 := { s with graphs := s.graphs.put x.graphKey on }
        if instanceOver s c x.job inGraph (fun w => bits w.toNat 32 16 == x.graph) then s1 else cancelWhere s1 inGraph
      | 3 =>
        let s1 := { s with phases := s.phases.put x.phaseKey on }
        if instanceOver s c x.job inPhase (fun w => bits w.toNat 16 16 == x.phase) then s1 else cancelWhere s1 inPhase
      | _ => cancelJob s x.job

/-- Whether a level can be named: level 0 only by a team (R257, R290). -/
def levelOk (s : State) (l : BitVec 3) : Bool :=
  l.toNat ≤ 4 && !(l == 0 && (match s.cur with | .prog _ _ => true | _ => false))

/-- LVL_RD (R290). -/
def execLvlRd (d : BitVec 5) (l : BitVec 3) (s : State) : Result :=
  if !levelOk s l then illegalWord s (.lvlRd d l) 0x10
  else withRegs s [d] (fun _ => .next (retireWith s d (levelCounter s l.toNat).word))

/-- LVL_CANCEL: the counter as it stands goes to gd, and the cancel acts (R206, R290). -/
def execLvlCancel (d : BitVec 5) (l : BitVec 3) (s : State) : Result :=
  if !levelOk s l then illegalWord s (.lvlCancel d l) 0x10
  else withRegs s [d] (fun _ =>
    let done := retireWith s d (levelCounter s l.toNat).word
    match curLaunch s with
    | none => .next done
    | some x => .next (cancelLevel done l.toNat x (curUnit s)))

/-! ### SYSC (R284, R451 to R453) -/

/-- The acting team is parked at its SYSC, with the entry it has. -/
def park (s : State) (core slot : Nat) (c : Option Nat) : State :=
  s.onTeam core slot (fun t => { t with set_ := .parked, th := { t.th.setStage (.parked c) with wait := .call } })

/-- The completion queue entry of a call (R452). -/
def postCall (s : State) (cq c : Nat) (x : Call) : State :=
  let s := { s with calls := s.calls.put c { x with posted := true } }
  if ringSize (s.cq cq).ctl == 0 then postEvent s 0x02 cq
  else postCq s cq (2 * 2 ^ 56 + c * 2 ^ 44 + x.gen.toNat * 2 ^ 16 + x.svc.toNat) [x.tid, x.args.headD 0, BitVec.ofNat 64 s.now]

/-- Whether a call can be posted: its queue is disabled or has room. -/
def callRoom (s : State) (cq : Nat) : Bool := ringSize (s.cq cq).ctl == 0 || !(s.cq cq).full

/-- A parked team's call: it takes the lowest FREE entry, posts it, and returns once it is answered. -/
def callStep (s : State) (core slot : Nat) (t : Team) (u : UnitRec) (svc : BitVec 16) (held : Option Nat) : State :=
  let cq := bits (s.job u.job).jscq.toNat 0 8
  match held with
  | none =>
    (match (List.range 4096).find? (fun c => (s.calls.look Call.free c).state == 0) with
     | none => park s core slot none
     | some c =>
       let old := s.calls.look Call.free c
       let x : Call :=
         { old with tid := teamTid u core slot t, state := 1, gen := old.gen + 1, svc, caller := (t.unit, t.index),
                    args := (List.range 6).map (fun i => t.th.rd (BitVec.ofNat 5 (i + 1))), posted := false }
       let s := park { s with calls := s.calls.put c x } core slot (some c)
       if callRoom s cq then postCall s cq c x else s)
  | some c =>
    let x := s.calls.look Call.free c
    if x.state == 2 then
      { s with calls := s.calls.put c { x with state := 0 } }.onTeam core slot (fun t =>
        { t with set_ := .pending, th := (t.th.wr 1 t.sysmbx).next_ })
    else if !x.posted && callRoom s cq then postCall s cq c x
    else s

/-- SYSC (R284, R452). -/
def execSysc (i : BitVec 16) (s : State) : Result :=
  withTeam s (fun c sl t u =>
    match t.th.at_ with
    | some (.parked held) => .next (callStep s c sl t u i held)
    | _ => withRegs s [1, 2, 3, 4, 5, 6] (fun _ =>
      if !accessesDone s c sl t then .next (block s .laneStream)
      else if bits (s.job u.job).jscq.toNat 8 1 == 0 then .next (retireWith s 1 (BitVec.allOnes 64))
      else .next (callStep s c sl t u i none)))

/-- The caller of a call receives its result, where its state is (R453). -/
def answerTeam (t : Team) (r : Word64) : Team :=
  { t with sysmbx := r, set_ := if t.set_ == .parked then .pending else t.set_ }

/-- The answer in the save area of a caller whose unit is suspended: SYSMBX of its team block (R413, R453). -/
def answerSaved (s : State) (uid team : Nat) (r : Word64) : State :=
  match s.unit uid with
  | some u => match u.savedTeams.find team with
    | some t => physWriteWords s (teamBlockAt u t + 0x70) [r]
    | none => s
  | none => s

/-- ANSWER: only with the entry's generation, while it is PARKED (R453). -/
def execAnswer (ctag : Nat) (w : Word64) (s : State) : Result :=
  let x := s.calls.look Call.free ctag
  if x.state != 1 || bits w.toNat 0 16 != x.gen.toNat then .next s
  else
    let s := answerSaved { s with calls := s.calls.put ctag { x with state := 2 } } x.caller.1 x.caller.2 x.result
    .next { s with
      teams := s.teams.map (fun (e : Nat × Team) =>
        if e.2.unit == x.caller.1 && e.2.index == x.caller.2 then (e.1, answerTeam e.2 x.result) else e)
      units := s.units.map (fun (e : Nat × UnitRec) =>
        if e.1 == x.caller.1 then
          (e.1, { e.2 with savedTeams := e.2.savedTeams.map (fun (k : Nat × Team) =>
            if k.1 == x.caller.2 then (k.1, answerTeam k.2 x.result) else k) })
        else e) }

/-! ### Traps that wait, the timer -/

/-- Whether a cause may be taken now: not one that waits for the handler to resume the stream (R390), and TIMER not by a
team whose call has not returned (R450). -/
def takeable (parked : Bool) (p : PendingTrap) : Bool := !p.shelf && !(parked && p.cause == 0x14)

/-- Whether an agent's stream is on its core. -/
def present (s : State) : Agent → Bool
  | .team c t => match s.team c t with
    | some r => c < 0x10000 && r.set_ != .saved && r.set_ != .zeroFill
    | none => false
  | .prog c p => match s.prog c p with
    | some r => !r.saved
    | none => false
  | _ => false

/-- Whether an agent is a team whose SYSC has parked it and has not returned: it may be answered already (R450, R453). -/
def parkedIn (s : State) : Agent → Bool
  | .team c t => match s.team c t with
    | some r => r.set_ == .parked || (match r.th.at_ with
      | some (.parked _) => true
      | _ => false)
    | none => false
  | _ => false

/-- The cause an agent takes at its next boundary: the lowest (R390). -/
def nextTrap (s : State) (a : Agent) : Option PendingTrap :=
  if !present s a then none
  else match s.thread a with
    | some th => th.pending.find? (takeable (parkedIn s a))
    | none => none

/-- A cause is taken off a stream; a parked team leaves SYSC. -/
def dropTrap (s : State) (a : Agent) (p : PendingTrap) : State :=
  let s := s.onThread a (fun t => { t with pending := t.pending.erase p })
  match a with
  | .team c t => s.onTeam c t (fun r => { r with set_ := if r.set_ == .parked then .pending else r.set_ })
  | _ => s

/-- TRAP_ENTRY (R390 to R392, R418). -/
def execTrapEntry (a : Agent) (s : State) : Result :=
  match nextTrap s a with
  | none => .next s
  | some p => match s.thread a with
    | none => .next s
    | some th => .next (takeTrap (dropTrap s a p) a p.cause p.sub th.spc p.elpc p.info)

/-- Whether a stream is away with its unit, or saved as a matrix program: TCMP waits for the resume (R450). -/
def savedStream (s : State) : Agent → Bool
  | .team c _ => 0x10000 ≤ c
  | .prog c p => match s.prog c p with
    | some r => r.saved
    | none => false
  | _ => false

/-- TIMER (R450). -/
def execTimer (a : Agent) (s : State) : Result :=
  match s.thread a with
  | none => .next s
  | some th =>
    if s.now < th.tcmp.toNat || savedStream s a then .next s
    else .next (s.onThread a (fun t => { t with tcmp := BitVec.allOnes 64 }.post ⟨0x14, 0, BitVec.ofNat 64 s.now, false, none⟩))

end Sys2Proof.Machine
end

