-- ==== Sys2Proof/Machine/FrontEnd.lean ====
section
/-! DEFINITION. The front end: taking a bundle and reading its records (R364, R367, R368, R428), starting it (R369,
R372, R373), copy lists (R366), slot ticks (R372), completion (R370, R426, R432), and read responses (R344, R367). -/

namespace Sys2Proof.Machine
open Sys2Proof

/-! ### Requests of the front end -/

/-- A request of the front end, through the tables of a job whatever EN holds (R15). -/
def frontReq (s : State) (kind : ReqKind) (owner job va len : Nat) (write : Bool) : Nat × State :=
  addReq s (Req.make kind owner .device 0 job va len write)

/-! ### Starting (R369, R372, R373) -/

/-- Clusters that a bundle's matrix records name, in rising order. -/
def matrixClusters (l : Launch) : List Nat := (List.range 256).filter (fun c => 0 < l.progsOn c)

/-- The die dispatcher of gang or unit `k` of the rotation: the dies of DIES in turn (R373). -/
def turnDie (v : VecRec) (k : Nat) : Nat :=
  let ds := (List.range 4).filter v.dies.getLsbD
  (ds[k % max 1 ds.length]?).getD 0

/-- The units of a launch with the die each goes to; gangs take the identities from `base` on (R373, R374). -/
def unitItems (id : Nat) (l : Launch) (v : VecRec) (cls : List Nat) (base start : Nat) : List (Nat × Queued) :=
  let ganged := 1 < v.gang || !cls.isEmpty
  (List.range (v.units / v.gang)).flatMap (fun i =>
    let cluster := cls[i]?
    let die := match cluster with
      | some c => c / 64
      | none => turnDie v (i - cls.length)
    (List.range v.gang).map (fun m =>
      (die, { launch := id, index := i * v.gang + m, job := l.job, need := v.need, gang := if ganged then base + i else 0,
              member := m, gangSize := v.gang, aff := v.aff, ord := v.ord, pri := l.pri, cluster, startTime := start })))

/-- Give units to their dispatchers. -/
def handOut (s : State) (items : List (Nat × Queued)) : State :=
  [0, 1, 2, 3].foldl (fun s d =>
    let x := s.die d
    match (items.filter (fun q => q.1 == d)).map (·.2) with
    | [] => s
    | qs => s.setDie d { x with backlog := x.backlog ++ qs }) s

/-- The first read of a copy list. -/
def startCopies (s : State) (id : Nat) (l : Launch) : State :=
  (l.recs.filter (fun r => recKind r == 2)).foldl (fun s r =>
    let (c, s) := freshId s
    let x : CopyList := ⟨id, l.job, wordAt r 1, bits (wordAt r 0) 0 16, 0, true, []⟩
    (frontReq { s with copies := s.copies.put c x } .list c l.job (wordAt r 1) 32 false).2) s

/-- STARTING: every sub-launch is released in one step, and the bundle runs (R369). `start` is TIME for units of a
time-triggered bundle that is not late, else 0. -/
def startLaunch (s : State) (id start : Nat) : State :=
  match s.launch id with
  | none => s
  | some l =>
    let cls := matrixClusters l
    let vec := (l.recs.find? (fun r => recKind r == 0)).map vecOf
    let gangs := match vec with
      | some v => v.units / v.gang
      | none => 0
    let (order, s) := freshId s
    let l := { l with
      order, st := .running, tstart := s.now, vec, progs := (cls.map l.progsOn).sum, cmask := cls.take gangs
      copies := ((l.recs.filter (fun r => recKind r == 2)).map (fun r => bits (wordAt r 0) 0 16)).sum }
    let base := s.nextId
    let s := { s with nextId := s.nextId + gangs }.setLaunch id l
    let s := match vec with
      | some v => handOut s (unitItems id l v cls base start)
      | none => s
    let s := (cls.drop gangs).foldl (fun s c => startPrograms s id c (BitVec.allOnes 64)) s
    startCopies s id l

/-- The checks of a bundle once its reading has ended (R367, R368): JOBOFF comes first (R455); one that a cancel has met is
refused for nothing else. -/
def checkBundle (s : State) (id : Nat) : State :=
  match s.launch id with
  | none => s
  | some l =>
    match refusalOf s l false with
    | some (st, c) => refuseLaunch s id l st c
    | none =>
      if l.tt && s.now ≤ l.time then s.setLaunch id { l with st := .waiting }
      else startLaunch (s.setLaunch id { l with status := if l.tt then l.status ||| 4 else l.status }) id 0

/-- What follows a header or record: the next record's read, or the checks. -/
def readOn (s : State) (id : Nat) : State :=
  match s.launch id with
  | none => s
  | some l =>
    if !formatOk l.hdr l.recs || l.recs.length == nsub l.hdr then checkBundle s id
    else (frontReq s .record id l.job (wordAt (l.recs.getLastD []) 7) 64 false).2

/-- The words of read bytes. -/
def readWords (bs : List Byte) : List Word64 :=
  (List.range (bs.length / 8)).map (fun i => bytesWord ((bs.drop (8 * i)).take 8))

/-- A header with its first record has been read. -/
def headerRead (s : State) (id : Nat) (ws : List Word64) : State :=
  match s.launch id with
  | none => s
  | some l =>
    let h := ws.take 8
    readOn (s.setLaunch id { l with hdr := h, recs := [ws.drop 8], time := wordAt h 1, tt := bits (wordAt h 0) 62 1 == 1 }) id

/-! ### BUNDLE_TAKE (R368, R428) -/

/-- Whether the previous bundle of a slot's queue lets the next be taken (R368). -/
def previousLets (s : State) (k : Slot) (ser : Bool) : Bool :=
  match s.launch k.last with
  | none => true
  | some l => !ser && (l.st == .running || l.st == .completing || l.st == .starting)

/-- Where a slot's head bundle lies. -/
def Slot.headAddr (k : Slot) : Nat := k.ring + 128 * (k.taken.toNat % 2 ^ k.size)

/-- Word 0 of a slot's head bundle: of the injected one, of one that has been read ahead, or where its page is present;
of one whose read ahead met a fault, 0. -/
def headWord (s : State) (k : Slot) : Option Word64 :=
  match k.injected with
  | some ws => some (ws.headD 0)
  | none => match s.launch k.ahead with
    | some l => if l.reason == 5 then some 0 else l.hdr.head?
    | none => peekHeader s k.job k.headAddr

/-- Whether a level that would hold a slot's head bundle has been cancelled: the bundle then completes without waiting
for the one before it (R206, R368). -/
def headCancelled (s : State) (k : Slot) : Bool :=
  (s.jobCtr.look Counter.zero k.job).cxl || (match headWord s k with
    | some w =>
      (s.graphs.look Counter.zero (k.job * 65536 + bits w.toNat 32 16)).cxl ||
        (s.phases.look Counter.zero (k.job * 65536 + bits w.toNat 16 16)).cxl
    | none => false)

/-- A slot whose head meets every condition except the gate. -/
def headReady (s : State) (k : Slot) : Bool :=
  k.hasHead && (match headWord s k with
    | some w => previousLets s k (w.getLsbD 63) || headCancelled s k
    | none => false)

/-- The gate of a slot's head (R428). -/
def gateHolds (s : State) (k : Slot) : Bool :=
  !k.gen || k.gateOpen || headCancelled s k || signalHolds k.gop (s.signal k.gsig) k.gval false

/-- The slot the front end takes from: the highest CPRI, then the lowest number (R428). -/
def bestSlot (s : State) : Option Nat :=
  ((List.range 32).filter (fun n => headReady s (s.slot n) && gateHolds s (s.slot n))).foldl
    (fun (b : Option Nat) n => match b with
      | none => some n
      | some m => if (s.slot m).cpri < (s.slot n).cpri then some n else b) none

/-- The slot the front end takes from: in replay the one recorded, once it may take (R442). -/
def dueSlot (s : State) : Option Nat :=
  match nextDecision s with
  | none => bestSlot s
  | some r =>
    if recordType r != 1 then none
    else match slotOf s (bits (r.headD 0).toNat 0 56) with
      | some n => if headReady s (s.slot n) && gateHolds s (s.slot n) then some n else none
      | none => none

/-- A bundle of a slot, nothing of it read. -/
def freshBundle (n : Nat) (k : Slot) (st : BundleState) : Launch :=
    { slot := n, qid := k.qid, ring := k.taken.toNat, qcb := k.qcb, injected := k.injected.isSome, job := k.job,
      addr := k.headAddr, st, hdr := [], recs := [], status := 0, reason := 0,
      time := 0, tt := false, tstart := 0, tend := 0, written := 0, counter := Counter.zero, firstFail := 0x3FFFFF,
      nfail := 0, vec := none, ordNext := 0, ended := 0, suspended := [], progs := 0, cmask := [], copies := 0, pri := k.cpri,
      order := 0 }

/-- The header of a head bundle whose page is not present is read ahead: SER is not known before (R367, R368, log 86). -/
def readAhead (s : State) (n : Nat) (k : Slot) : State :=
  let (id, s) := freshId s
  let s := (s.setLaunch id (freshBundle n k .queued)).setSlot n { k with ahead := id }
  (frontReq s .header id k.job k.headAddr 128 false).2

/-- A bundle is TAKEN: its header is read, or is at hand when it was injected or read ahead; an injected one leaves what is
read ahead for the ring's head. -/
def takeBundle (s : State) (n : Nat) (k : Slot) : State :=
  let ahead := if k.injected.isSome then 0 else k.ahead
  let (id, s) := if ahead == 0 then freshId s else (ahead, s)
  let read := s.launch ahead
  let l := freshBundle n k .taken
  let k1 := { k with cpri := k.bpri, age := s.now, last := id, gateOpen := false, injected := none
                     ahead := if k.injected.isSome then k.ahead else 0
                     taken := if k.injected.isSome then k.taken else k.taken + 1 }
  let s := syncQcb ((s.setLaunch id l).setSlot n k1) k1 true
  match k.injected, read with
  | some ws, _ => headerRead s id ws
  | none, some x => if x.hdr.isEmpty then refuseFault s id else headerRead s id (x.hdr ++ x.recs.flatten)
  | none, none => (frontReq s .header id k.job l.addr 128 false).2

/-- BUNDLE_TAKE: a head that only its gate holds back parks its slot on GSIG (R428); one whose header cannot be seen is
read ahead. -/
def execBundleTake (slot : Nat) (s : State) : Result :=
  let k := s.slot slot
  if k.hasHead && k.ahead == 0 && (headWord s k).isNone then .next (readAhead s slot k)
  else if headReady s k && !gateHolds s k && !k.gateHeld then
    .next ({ s with waiters := s.waiters.put k.gsig (s.waiters.look [] k.gsig ++ [Waiter.slot slot]) }.setSlot slot
      { k with gateHeld := true })
  else if dueSlot s != some slot then .next s
  else
    let bid := bits ((headWord s k).getD 0).toNat 0 16
    match decision s 1 k.qid [k.taken.setWidth 64, BitVec.ofNat 64 bid] [BitVec.ofNat 64 s.now] with
    | none => .next s
    | some s => .next (takeBundle s slot k)

/-- SLOT_TICK: copies of the time base are re-aligned, and waiting bundles whose TIME has come start (R368, R372). -/
def execSlotTick (skews : List (Nat × Int)) (s : State) : Result :=
  if s.now % 1000 != 0 then .next s
  else
    let s := { s with ticked := s.now, cores := s.cores.map (fun (c : Nat × Core) => (c.1, { c.2 with skew := 0 })) }
    let s := skews.foldl (fun s x => s.setCore x.1 { s.core x.1 with skew := x.2 }) s
    .next ((s.launches.filter (fun e => e.2.st == .waiting && e.2.time ≤ s.now)).foldl
      (fun s e => startLaunch s e.1 e.2.time) s)

/-! ### Copy lists (R366) -/

/-- Whether a copy command keeps the rules of R366. -/
def copyOk (ws : List Word64) : Bool :=
  wordAt ws 0 % 8 == 0 && wordAt ws 1 % 8 == 0 && wordAt ws 2 % 8 == 0 && 8 ≤ wordAt ws 2 && wordAt ws 2 ≤ 2 ^ 32 &&
    wordAt ws 3 < 4

/-- A copy command that is not performed: FLT (R366). -/
def copyFault (s : State) (launch : Nat) : State :=
  s.onLaunch launch (fun l => { l with copies := l.copies - 1, status := l.status ||| 0x20 })

/-- Go on to the next command of a list: its read goes out. -/
def nextCopy (s : State) (c : Nat) (x : CopyList) : State :=
  if x.left ≤ 1 then { s with copies := s.copies.del c }
  else
    let y := { x with left := x.left - 1, next_ := x.next_ + 1, asked := true, words := [] }
    (frontReq { s with copies := s.copies.put c y } .list c x.job (x.addr + 32 * y.next_) 32 false).2

/-- A copy command is issued: its source reads and destination writes. -/
def issueCopy (s : State) (x : CopyList) : State :=
  let dst := wordAt x.words 0
  let src := wordAt x.words 1
  let len := wordAt x.words 2
  let (id, s) := freshId s
  let c : Cmd :=
    { kind := .copyList, agent := .device, core := 0, slot := 0, team := 0, unit := 0, job := x.job, spc := 0, tag := 0,
      scope := 4, acq := wordAt x.words 3 % 2 == 1, rel := wordAt x.words 3 / 2 == 1, win := 0, winSlot := 0, pegged := false,
      base := 0, dst := Tensor.none, dstCoord := BitVec.ofNat 64 dst, src := Tensor.none, srcCoord := BitVec.ofNat 64 src, via := Tensor.none,
      holds := [], passed := false, op := 0, size := 0, operand := 0, compare := 0, writing := false, buf := [], lost := 0,
      lostVa := 0, lostPte := 0, flt := false, psn := false, hops := [], hop := 0, words := [], chain := 0, pat := 0,
      launch := x.launch, leg := .home, lastHop := (0, 0) }
  let s := { s with cmds := s.cmds.put id c }
  let s := (linePieces src len).foldl (fun s p => (frontReq s .copySrc id x.job p.1 p.2 false).2) s
  (linePieces dst len).foldl (fun s p => (frontReq s .copyDst id x.job p.1 p.2 true).2) s

/-- COPY_COMMAND_ISSUE: the command that has been read is issued, or is not performed (R366). -/
def execCopyCommandIssue (id : Nat) (s : State) : Result :=
  match s.copies.find id with
  | none => .next s
  | some x =>
    if x.words.isEmpty then .next s
    else
      let s1 := if copyOk x.words then issueCopy s x else copyFault s x.launch
      .next (nextCopy s1 id x)

/-! ### READ_RESPONSE (R344, R367) -/

/-- Bytes of a response that can be used: not faulted, not poisoned. -/
def Req.clean (r : Req) : Bool := r.st == .returned && r.leg == .back && !r.psn.contains true

/-- READ_RESPONSE: a bind's descriptor, a header, a record or the words of a copy command. -/
def execReadResponse (id : Nat) (s : State) : Result :=
  match s.reqs.find id with
  | none => .next s
  | some r =>
    if !(r.st == .returned && r.leg == .back) && r.st != .faulted then .next s
    else match r.kind with
      | .bind =>
        let s := if r.st == .returned then setReq s id { r with st := .arrived } else s
        let here := match s.thread r.agent with
          | some th => th.at_ == some (.reading r.cmd) && th.wait == .descriptor r.cmd
          | none => false
        if here && present s r.agent && bindReady s r.cmd then
          bindFinish { s with cur := r.agent } (r.dest / 64) r.cmd
        else .next s
      | .header =>
        let s := dropReq s id
        (match s.launch r.cmd with
         | none => .next s
         | some l =>
           if l.st == .queued then
             let ws := readWords r.data
             .next (s.setLaunch r.cmd (if r.clean then { l with hdr := ws.take 8, recs := [ws.drop 8] } else { l with reason := 5 }))
           else if l.st != .taken then .next s
           else if r.clean then .next (headerRead s r.cmd (readWords r.data))
           else .next (refuseFault s r.cmd))
      | .record =>
        let s := dropReq s id
        (match s.launch r.cmd with
         | none => .next s
         | some l => if l.st != .taken then .next s
           else if r.clean then .next (readOn (s.setLaunch r.cmd { l with recs := l.recs ++ [readWords r.data] }) r.cmd)
           else .next (refuseFault s r.cmd))
      | .list =>
        let s := dropReq s id
        (match s.copies.find r.cmd with
         | none => .next s
         | some x => if r.clean then .next { s with copies := s.copies.put r.cmd { x with asked := false, words := readWords r.data } }
           else .next (nextCopy (copyFault s x.launch) r.cmd x))
      | .fpost | .wpost | .cpySrc | .cpyDst | .ratm | .chain | .code | .copySrc | .copyDst | .completion => .next s

/-! ### Completion (R368 to R370, R426, R432) -/

/-- Whether every sub-launch is complete, every engine command they issued has ended, and every gang access of their teams has
been performed (R164, R369). -/
def subsDone (s : State) (id : Nat) (l : Launch) : Bool :=
  (match l.vec with | some v => l.ended == v.units | none => true) && l.progs == 0 && l.copies == 0 &&
    !s.clusters.any (fun c => c.2.banks.any (fun b => b.2.launch == id && b.2.st != .free)) &&
    !s.cmds.any (fun c => match s.unit c.2.unit with | some u => u.launch == id | none => false) &&
    !s.gangAcc.any (fun a => a.2.launch == id)

/-- The words of a completion record (R370). -/
def recordWords (l : Launch) : List Word64 :=
  [BitVec.ofNat 64 (l.bid * 2 ^ 48 + l.reason * 256 + l.status.toNat), BitVec.ofNat 64 l.tstart, BitVec.ofNat 64 l.tend,
   l.counter.word, BitVec.ofNat 64 l.firstFail, BitVec.ofNat 64 l.nfail, 0, 0]

/-- DONE: the bundle goes, and its queue's count advances (R426). -/
def finishBundle (s : State) (id : Nat) (l : Launch) : State :=
  advanceDone { s with launches := s.launches.del id } l.qid l.qcb

/-- The signal update of a completing bundle (R370); the kick signal takes none (R427). -/
def completeSignal (s : State) (l : Launch) : State :=
  let g := bits (wordAt l.hdr 2) 0 12
  let v : Word64 := BitVec.ofNat 64 (wordAt l.hdr 3)
  if g == 4095 then s
  else match bits (wordAt l.hdr 0) 60 2 with
  | 0 => s
  | 1 => updateSignal s g (SignalOp.apply .set (s.signal g) v)
  | 2 => updateSignal s g (SignalOp.apply .add (s.signal g) v)
  | _ => updateSignal s g (SignalOp.apply .sub (s.signal g) v)

/-- The completion queue entry, while its queue has room; then the bundle is DONE (R432). -/
def completeEntry (s : State) (id : Nat) (l : Launch) : State :=
  let c := bits (wordAt l.hdr 4) 0 8
  if bits (wordAt l.hdr 4) 8 1 == 0 then finishBundle s id l
  else if ringSize (s.cq c).ctl == 0 then finishBundle (postEvent s 0x02 c) id l
  else if (s.cq c).full then s
  else finishBundle (postCq s c (2 ^ 56 + l.qid * 2 ^ 32 + l.bid * 2 ^ 16)
    [BitVec.ofNat 64 (l.reason * 256 + l.status.toNat), BitVec.ofNat 64 (wordAt l.hdr 5), BitVec.ofNat 64 l.tend]) id l

/-- What a COMPLETING bundle writes next: record, signal, entry, in that order (R368). -/
def completeOn (s : State) (id : Nat) (l : Launch) : State :=
  if l.hdr.isEmpty then finishBundle s id l
  else
    let reca := wordAt l.hdr 5
    if l.written == 0 && reca != 0 && reca % 64 == 0 then
      let (q, s) := frontReq (s.setLaunch id { l with written := 1 }) .completion id l.job reca 64 true
      match s.reqs.find q with
      | some r => setReq s q { r with data := (recordWords l).flatMap (wordBytes 8) }
      | none => s
    else if l.written == 1 then s
    else
      let s := if l.written == 3 then s else completeSignal s l
      completeEntry (s.setLaunch id { l with written := 3 }) id { l with written := 3 }

/-- BUNDLE_COMPLETE (R368). -/
def execBundleComplete (launch : Nat) (s : State) : Result :=
  match s.launch launch with
  | none => .next s
  | some l =>
    if l.st == .running && subsDone s launch l then
      let l := { l with st := .completing, tend := s.now }
      .next (completeOn (s.setLaunch launch l) launch l)
    else if l.st == .completing then .next (completeOn s launch l)
    else .next s

end Sys2Proof.Machine
end

