-- ==== Sys2Proof/Machine/Paging.lean ====
section
/-! DEFINITION. Page tables of RISC-V: what the control-core harts (R443) and the IOMMUs of the root ports (R447) share. The
manual names Sv57 and the IOMMU and describes neither: all of this is PRESUMED from the RISC-V specifications (log 101). -/

namespace Sys2Proof.Machine
open Sys2Proof

/-- Why a walk ends without an address: a page fault, an access fault on an entry, or a fault of the guest stage at a
guest physical address. -/
inductive WalkFault where
  | page
  | access
  | guest (gpa : Nat)
  deriving DecidableEq, Repr

/-- What an access asks of a leaf. -/
inductive MemUse where
  | fetch
  | load
  | store
  deriving DecidableEq, Repr

/-- Levels of a table by MODE: Sv39, Sv48, Sv57, and their guest forms. -/
def pageLevels (mode : Nat) : Option Nat :=
  match mode with
  | 8 => some 3
  | 9 => some 4
  | 10 => some 5
  | _ => none

/-- Whether a leaf grants a use: R or X for a load under MXR, W, X; A is set, and D for a store (Svade). -/
def leafGrants (mxr : Bool) (u : MemUse) (pte : Nat) : Bool :=
  let b (i : Nat) : Bool := bits pte i 1 == 1
  b 6 && (match u with
    | .fetch => b 3
    | .load => b 1 || (mxr && b 3)
    | .store => b 2 && b 7)

/-- The address a leaf of level `l` gives: a misaligned superpage is a fault; N names 64 KiB (Svnapot). -/
def leafTarget (pte l a : Nat) : Except WalkFault Nat :=
  let ppn := bits pte 10 44
  if bits pte 63 1 == 1 then
    if l != 0 || ppn % 16 != 8 then .error .page
    else .ok ((ppn / 16 * 16 + bits a 12 4) * 4096 + a % 4096)
  else if ppn % 2 ^ (9 * l) != 0 then .error .page
  else .ok ((ppn + a / 4096 % 2 ^ (9 * l)) * 4096 + a % 4096)

/-- A walk from the table at page `base`: `tr` gives the place of an entry, `grants` what a leaf must allow; `wide` is the
root of a guest table, four times as long. -/
def walkTable (s : State) (tr : Nat → Except WalkFault Nat) (grants : Nat → Bool) (a : Nat) :
    Bool → Nat → Nat → Except WalkFault Nat
  | _, 0, _ => .error .page
  | wide, l + 1, base =>
    match tr (base * 4096 + 8 * bits a (12 + 9 * l) (if wide then 11 else 9)) with
    | .error e => .error e
    | .ok pa => match physRead s pa 8 with
      | some (bs, false) =>
        let pte := numOfBytes bs
        if bits pte 0 1 == 0 || bits pte 1 2 == 2 || bits pte 54 7 != 0 then .error .page
        else if bits pte 1 3 == 0 then
          if bits pte 4 1 == 1 || bits pte 6 2 != 0 || bits pte 61 3 != 0 then .error .page
          else walkTable s tr grants a false l (bits pte 10 44)
        else if !grants pte then .error .page
        else leafTarget pte l a
      | _ => .error .access

/-- Whether an address is the sign extension of its low bits, as a table of `n` levels needs. -/
def canonFor (n a : Nat) : Bool := bits a (11 + 9 * n) (53 - 9 * n) == 0 || bits a (11 + 9 * n) (53 - 9 * n) == 2 ^ (53 - 9 * n) - 1

/-- The guest stage: the register that names its table, in the layout of hgatp; its leaves are user pages. -/
def guestStage (s : State) (atp : Word64) (mxr : Bool) (u : MemUse) (gpa : Nat) : Except WalkFault Nat :=
  match bits atp.toNat 60 4 with
  | 0 => .ok gpa
  | m => match pageLevels m with
    | none => .error (.guest gpa)
    | some n =>
      if 2 ^ (14 + 9 * n) ≤ gpa then .error (.guest gpa)
      else match walkTable s .ok (fun pte => bits pte 4 1 == 1 && leafGrants mxr u pte) gpa true n (bits atp.toNat 0 44) with
        | .error .page => .error (.guest gpa)
        | r => r

/-- The first stage, in the layout of satp; `tr` is the stage below it. -/
def firstStage (s : State) (atp : Word64) (tr : MemUse → Nat → Except WalkFault Nat) (grants : Nat → Bool) (a : Nat) :
    Except WalkFault Nat :=
  match bits atp.toNat 60 4 with
  | 0 => .ok a
  | m => match pageLevels m with
    | none => .error .page
    | some n =>
      if !canonFor n a then .error .page else walkTable s (tr .load) grants a false n (bits atp.toNat 0 44)

end Sys2Proof.Machine
end

