-- ==== Sys2Proof/Machine/Iommu.lean ====
section
/-! DEFINITION. The IOMMU of a root port (R447): its registers, device contexts, translation, command queue and fault queue,
those of the RISC-V IOMMU specification 1.0, which the manual names and does not describe: PRESUMED (log 51). It has Sv39,
Sv48 and Sv57 in both stages, base-format device contexts, message-signalled interrupts, no process contexts and no ATS. -/

namespace Sys2Proof.Machine
open Sys2Proof

/-- Address of a register of a port's IOMMU. -/
def iommuAt (port off : Nat) : Nat := 0x00100000006D0000 + 0x1000 * port + off

/-- capabilities: version 1.0, Sv39 to Sv57 in both stages, 56-bit addresses. -/
def iommuCaps : Word64 := 0x00000038000E0E10

/-- The word of a register, 8 bytes. -/
def iommuReg (s : State) (port off : Nat) : Word64 := if off == 0 then iommuCaps else s.regs.look 0 (iommuAt port off)
def setIommu (s : State) (port off : Nat) (w : Word64) : State := { s with regs := s.regs.put (iommuAt port off) w }

/-- The halves of a register word. -/
def loHalf (w : Word64) : Nat := bits w.toNat 0 32
def hiHalf (w : Word64) : Nat := bits w.toNat 32 32
def regPair (hi lo : Nat) : Word64 := BitVec.ofNat 64 (hi % 2 ^ 32 * 2 ^ 32 + lo % 2 ^ 32)

/-- An interrupt of the IOMMU, 0 of the command queue and 1 of the fault queue: its bit of ipsr is set, and the MSI of its
vector is sent unless masked. -/
def iommuInterrupt (s : State) (port k : Nat) : State :=
  let w := iommuReg s port 0x50
  if w.getLsbD (32 + k) then s
  else
    let s := setIommu s port 0x50 (w ||| (1#64 <<< (32 + k)))
    let v := bits (iommuReg s port 0x2F8).toNat (4 * k) 4
    let d := iommuReg s port (0x308 + 16 * v)
    if d.getLsbD 32 then s else sendMsi s (iommuReg s port (0x300 + 16 * v)) (d.setWidth 32)

/-! ### The fault queue -/

/-- Entries of a queue whose base register is `w`. -/
def queueSize (w : Word64) : Nat := 2 ^ (bits w.toNat 0 5 + 1)

/-- A fault record: cause, transaction type, device, and the address; a full queue sets fqof, one that cannot be written
fqmf. -/
def iommuFault (s : State) (port cause ttyp rid iova gpa : Nat) : State :=
  let csr := iommuReg s port 0x48
  let base := iommuReg s port 0x28
  let ht := iommuReg s port 0x30
  let n := queueSize base
  let flag (i : Nat) : State := setIommu s port 0x48 (csr ||| (1#64 <<< i))
  let told (s : State) : State := if csr.getLsbD 33 then iommuInterrupt s port 1 else s
  if !csr.getLsbD 48 || csr.getLsbD 40 || csr.getLsbD 41 then s
  else if (hiHalf ht + 1) % n == loHalf ht % n then told (flag 41)
  else
    let pa := bits base.toNat 10 44 * 4096 + 32 * (hiHalf ht % n)
    if (physRead s pa 32).isNone then told (flag 40)
    else
      let s := physWriteWords s pa [BitVec.ofNat 64 (rid * 2 ^ 40 + ttyp * 2 ^ 34 + cause), 0, BitVec.ofNat 64 iova,
        BitVec.ofNat 64 gpa]
      told (setIommu s port 0x30 (regPair ((hiHalf ht + 1) % n) (loHalf ht)))

/-! ### Device contexts and translation -/

/-- The device context of a device: tc, iohgatp, ta and fsc, or the cause for which there is none. -/
def deviceContext (s : State) (port rid : Nat) : Except Nat (List Word64) :=
  let ddtp := (iommuReg s port 0x10).toNat
  let entry (pa n : Nat) : Except Nat (List Word64) :=
    match physRead s pa (8 * n) with
    | some (bs, false) => .ok ((List.range n).map (fun j => bytesWord ((bs.drop (8 * j)).take 8)))
    | _ => .error 257
  let leaf (page : Nat) : Except Nat (List Word64) :=
    match entry (page * 4096 + 32 * bits rid 0 7) 4 with
    | .error c => .error c
    | .ok ws =>
      let tc := (ws.headD 0).toNat
      if bits tc 0 1 == 0 then .error 258
      else if bits tc 1 3 != 0 || bits tc 5 59 != 0 then .error 259
      else .ok ws
  let down (page i : Nat) (k : Nat → Except Nat (List Word64)) : Except Nat (List Word64) :=
    match entry (page * 4096 + 8 * i) 1 with
    | .error c => .error c
    | .ok ws =>
      let w := (ws.headD 0).toNat
      if bits w 0 1 == 0 then .error 258
      else if bits w 1 9 != 0 || bits w 54 10 != 0 then .error 259
      else k (bits w 10 44)
  let root := bits ddtp 10 44
  match bits ddtp 0 4 with
  | 2 => if rid / 2 ^ 7 != 0 then .error 260 else leaf root
  | 3 => if rid / 2 ^ 16 != 0 then .error 260 else down root (bits rid 7 9) leaf
  | 4 => down root (bits rid 16 8) (fun p => down p (bits rid 7 9) leaf)
  | _ => .error 256

/-- Where an access of a device goes, or the cause of its fault with the guest address. The device is a user: its pages have
U. -/
def iommuTranslate (s : State) (port rid iova : Nat) (write : Bool) : Except (Nat × Nat) Nat :=
  let use : MemUse := if write then .store else .load
  let cause (e : WalkFault) : Nat × Nat := match e with
    | .page => (if write then 15 else 13, 0)
    | .access => (if write then 7 else 5, 0)
    | .guest g => (if write then 23 else 21, g)
  if bits (iommuReg s port 0x10).toNat 0 4 == 1 then .ok iova
  else match deviceContext s port rid with
    | .error c => .error (c, 0)
    | .ok ws =>
      let g := ws.getD 1 0
      match (firstStage s (ws.getD 3 0) (fun u => guestStage s g false u)
          (fun pte => bits pte 4 1 == 1 && leafGrants false use pte) iova).bind (guestStage s g false use) with
      | .ok a => .ok a
      | .error e => .error (cause e)

/-- Whether faults of a device go unreported: DTF of its context, for what that context translates. -/
def faultsHidden (s : State) (port rid : Nat) : Bool :=
  match deviceContext s port rid with
  | .ok ws => (ws.headD 0).getLsbD 4
  | .error _ => false

/-- An inbound access: the machine, and where it goes; none where it faults, which is recorded. `who` is the device above
bit 64 and its address below. -/
def iommuAccess (s : State) (port who : Nat) (write : Bool) : State × Option Nat :=
  let rid := who / 2 ^ 64 % 65536
  let iova := who % 2 ^ 64
  match iommuTranslate s port rid iova write with
  | .ok a => (s, some a)
  | .error (c, g) =>
    (if faultsHidden s port rid then s else iommuFault s port c (if write then 3 else 2) rid iova g, none)

/-! ### The command queue -/

/-- Commands from the head on: invalidations, of which no cache has need, and IOFENCE.C, which writes its datum; another
command, or one that cannot be read, stops the queue. -/
def runCommands (s : State) (port : Nat) : Nat → State
  | 0 => s
  | k + 1 =>
    let csr := iommuReg s port 0x48
    let base := iommuReg s port 0x18
    let ht := iommuReg s port 0x20
    let n := queueSize base
    let stop (i : Nat) : State :=
      let s := setIommu s port 0x48 (csr ||| (1#64 <<< i))
      if csr.getLsbD 1 then iommuInterrupt s port 0 else s
    if !csr.getLsbD 16 || bits csr.toNat 8 3 != 0 || loHalf ht % n == hiHalf ht % n then s
    else match physRead s (bits base.toNat 10 44 * 4096 + 16 * (loHalf ht % n)) 16 with
      | some (bs, false) =>
        let w := numOfBytes (bs.take 8)
        let next (s : State) : State := setIommu s port 0x20 (regPair (hiHalf ht) ((loHalf ht + 1) % n))
        (match bits w 0 7, bits w 7 3 with
         | 1, 0 | 1, 1 | 3, 0 => runCommands (next s) port k
         | 2, 0 =>
           let s := if bits w 10 1 == 1 then
               physWrite s (numOfBytes (bs.drop 8) * 4 % 2 ^ 64) (bytesOfNum 4 (bits w 32 32)) false
             else s
           runCommands (next s) port k
         | _, _ => stop 10)
      | _ => stop 8

/-! ### Writes of registers -/

/-- Bits that a write of a register keeps. -/
def iommuMask (off : Nat) : Word64 :=
  if 0x300 ≤ off && off < 0x400 then (if off % 16 == 0 then 0x00FFFFFFFFFFFFFC else 0x00000001FFFFFFFF)
  else match off with
    | 0x010 => 0x003FFFFFFFFFFC0F
    | 0x018 | 0x028 => 0x003FFFFFFFFFFC1F
    | 0x020 => 0xFFFFFFFF00000000
    | 0x030 => 0x00000000FFFFFFFF
    | 0x048 => 0x0000000300000003
    | 0x2F8 => 0xFF
    | _ => 0

/-- Bits of a register that writing 1 clears: the errors of cqcsr and fqcsr, and ipsr. -/
def iommuClears (off : Nat) : Word64 :=
  match off with
  | 0x048 => 0x0000030000000F00
  | 0x050 => 0x0000000300000000
  | _ => 0

/-- A write of 8 bytes: a queue that is turned on starts empty, and commands are run. -/
def writeIommu (s : State) (port off : Nat) (w : Word64) : State :=
  let old := iommuReg s port off
  let m := iommuMask off
  let new := ((old &&& ~~~m) ||| (w &&& m)) &&& ~~~(w &&& iommuClears off)
  let s := if off == 0 then s else setIommu s port off new
  let s := if off != 0x48 then s
    else
      let on : Word64 := (new &&& ~~~0x0001000000010000#64) ||| ((new &&& 0x0000000100000001#64) <<< 16)
      let s := setIommu s port 0x48 on
      let s := if new.getLsbD 0 && !old.getLsbD 0 then
          setIommu s port 0x20 (regPair (hiHalf (iommuReg s port 0x20)) 0) else s
      if new.getLsbD 32 && !old.getLsbD 32 then setIommu s port 0x30 (regPair 0 (loHalf (iommuReg s port 0x30))) else s
  runCommands s port (queueSize (iommuReg s port 0x18))

end Sys2Proof.Machine
end

