-- ==== Sys2Proof/Machine/Packets.lean ====
section
/-! DEFINITION. The packets of requests, responses and chains (R190, R201, R386), and what their flits' acceptance
means to them (R202). The requests a packet carries go with it; the words that R190 calls kind-specific are laid out by
log 97. -/

namespace Sys2Proof.Machine
open Sys2Proof

/-- A packet ready to be sent: its bytes, the module it goes to or comes from, the module address it is routed by, and
the requests or the chain it carries. -/
structure Ready where
  bytes : List Byte
  module : Nat
  maddr : Nat
  ids : List Nat
  deriving DecidableEq, Repr

/-- The header of a packet (R190). -/
def packetHeader (kind len maddr module reqid status : Nat) (more : List Word64) : List Byte :=
  (([BitVec.ofNat 64 (kind * 2 ^ 56 + len * 2 ^ 44 + maddr % 2 ^ 41),
     BitVec.ofNat 64 (module * 2 ^ 56 + reqid % 2 ^ 24 * 2 ^ 32 + status * 2 ^ 24)] ++ more ++
    List.replicate 6 0).take 8).flatMap (wordBytes 8)

/-- A packet: header, then payload. -/
def packetOn (kind module maddr reqid status : Nat) (more : List Word64) (payload : List Byte) (ids : List Nat) : Ready :=
  ⟨packetHeader kind payload.length maddr module reqid status more ++ payload, module, maddr, ids⟩

/-- STATUS of a response or a write (R190). -/
def statusBits (s : State) (module : Nat) (psn revoked : Bool) : Nat :=
  (if psn then 1 else 0) + (if revoked then 2 else 0) + (if s.modDead.contains module then 4 else 0)

/-- One poison bit for each 8 bytes of a payload. -/
def poisonWords (psn : List Bool) : List Word64 :=
  (List.range 4).map (fun j => BitVec.ofNat 64 (((List.range 64).map (fun i =>
    if ((psn.drop (512 * j + 8 * i)).take 8).contains true then 2 ^ i else 0)).sum))

/-- The bytes of the lines of a write, from the first to the last, zero between them. -/
def joinLines (cells : Req → List (Byte × Byte × Bool)) : FMap Req → Nat → List (Byte × Byte × Bool)
  | [], _ => []
  | e :: l, at_ => List.replicate (e.2.va - at_) (0, 0, false) ++ cells e.2 ++ joinLines cells l (e.2.va + e.2.len)

/-- A write packet of some lines (R386). -/
def writePacket (s : State) (id : Nat) (r : Req) (cells : Req → List (Byte × Byte × Bool)) (l : FMap Req) : Ready :=
  let va := match l with | e :: _ => e.2.va | [] => r.va
  let maddr := match l with | e :: _ => e.2.maddr | [] => r.maddr
  let cs := joinLines cells l va
  packetOn 3 r.module maddr id (statusBits s r.module (anyPoison cs) false) (poisonWords (cs.map (·.2.2))) (cs.map (·.1))
    (l.map (·.1))

/-- Whether the write packet of a line can be formed: no line of its block is on its way through translation, and no
lower block of the command is (R386); a line in the fault buffer holds no other back (R23). -/
def blockFormed (s : State) (r : Req) : Bool :=
  !(reqsOf s r.cmd (fun q => q.kind == r.kind && !q.zero && q.va / 2048 ≤ r.va / 2048)).any (fun e =>
    e.2.st == .fresh || e.2.st == .walking ||
      (e.2.st == .routed && e.2.leg == .home && e.2.va / 2048 < r.va / 2048))

/-- Lines of a request's packet that have not been sent. -/
def unsent (q : Req) : Bool := q.st == .routed && q.leg == .home

/-- The packet a request takes to its module (R190). -/
def requestPacket (s : State) (id : Nat) (r : Req) : Option Ready :=
  if !unsent r || r.zero then none
  else match r.kind with
    | .fpost | .code | .bind | .header | .record | .list | .cpySrc | .copySrc =>
      some (packetOn 1 r.module r.maddr id 0 [BitVec.ofNat 64 r.len] [] [id])
    | .ratm => (s.cmds.find r.cmd).map (fun c =>
        packetOn 5 r.module r.maddr id 0 [BitVec.ofNat 64 (r.len + c.op * 2 ^ 16), c.operand, c.compare] [] [id])
    | .completion => some (writePacket s id r Req.cells [(id, r)])
    | .wpost | .cpyDst => if blockFormed s r then some (writePacket s id r Req.cells (packetOf s r unsent)) else none
    | .copyDst =>
      if !blockFormed s r || (cmdReqs s r.cmd).any (fun e => e.2.kind == .copySrc || e.2.untranslated) then none
      else (s.cmds.find r.cmd).map (fun c => writePacket s id r (copyCells c) (packetOf s r unsent))
    | .chain => none

/-- A line that has been performed and not acknowledged. -/
def unanswered (q : Req) : Bool := q.st == .returned && q.leg == .there

/-- The response to a request (R190). -/
def responsePacket (s : State) (id : Nat) (r : Req) : Option Ready :=
  let status := statusBits s r.module (r.psn.contains true) r.revoked
  if !unanswered r || r.zero then none
  else match r.kind with
    | .fpost | .code | .bind | .header | .record | .list | .cpySrc | .copySrc =>
      some (packetOn 2 r.module r.maddr id status (poisonWords r.psn) r.data [id])
    | .ratm => some (packetOn 6 r.module r.maddr id status [] r.data [id])
    | .completion => some (packetOn 4 r.module r.maddr id status [] [] [id])
    | .wpost | .cpyDst | .copyDst =>
      if (packetOf s r Req.arrived).isEmpty then
        some (packetOn 4 r.module r.maddr id status [] [] ((packetOf s r unanswered).map (·.1)))
      else none
    | .chain => none

/-- A chain on its way to the module of entry 0: its block (R199, R201). -/
def chainPacket (s : State) (id : Nat) (c : Cmd) : Option Ready :=
  let rs := cmdReqs s id
  match rs.find? (fun e => e.2.dest == 0) with
  | none => none
  | some e =>
    if c.leg != .home || c.hop != 0 || rs.any (fun e => e.2.st != .routed) then none
    else
      let ws := [c.chain, c.pat] ++ c.hops.flatMap (fun h => [BitVec.ofNat 64 h.1, if h.2 then 1 else 0])
      some (packetOn 7 e.2.module e.2.maddr id 0 [] (ws.flatMap (wordBytes 8)) [id])

/-- The completion of a chain, with the STATUS of every hop (R201). -/
def chainAnswer (s : State) (id : Nat) (c : Cmd) : Option Ready :=
  if c.leg != .there || c.hop != c.hops.length || !(cmdReqs s id).isEmpty then none
  else some (packetOn 8 c.lastHop.1 c.lastHop.2 id (statusBits s c.lastHop.1 c.psn c.flt) [] [] [id])

/-- The packet that request or chain `id` has for a direction. -/
def packetFor (s : State) (dir : LinkDir) (id : Nat) : Option Ready :=
  match s.reqs.find id, s.cmds.find id, dir with
  | some r, _, .out => requestPacket s id r
  | some r, _, .back => responsePacket s id r
  | none, some c, .out => if c.kind == .mred || c.kind == .mfill then chainPacket s id c else none
  | none, some c, .back => if c.kind == .mred || c.kind == .mfill then chainAnswer s id c else none
  | none, none, _ => none

/-- DATA flits of a packet (R190). -/
def Ready.flits (p : Ready) : Nat := (p.bytes.length + 239) / 240

/-! ### How far packets have come -/

/-- Set how far a request or a chain has come. -/
def setLeg (s : State) (id : Nat) (leg : Leg) : State :=
  match s.reqs.find id, s.cmds.find id with
  | some r, _ => setReq s id { r with leg }
  | none, some c => { s with cmds := s.cmds.put id { c with leg } }
  | none, none => s

/-- A packet has been sent. -/
def packetSent (s : State) (dir : LinkDir) (ids : List Nat) : State :=
  ids.foldl (fun s id => setLeg s id (match dir with | .out => .sent | .back => .answered)) s

/-- The first flit of a packet is accepted: its requests have arrived, and meet the revokes that came before (R202). -/
def packetBegun (s : State) (dir : LinkDir) (id : Nat) : State :=
  let meet (r : Req) : Req := { r with revoked := moduleRevokes s r.module r.maddr, came := s.nextId }
  match dir, s.reqs.find id, s.cmds.find id with
  | .out, some r, _ => if r.leg == .sent then { setReq s id { meet r with leg := .begun } with nextId := s.nextId + 1 } else s
  | .out, none, some c =>
    if c.leg == .sent then
      { s with cmds := s.cmds.put id { c with leg := .begun },
               reqs := s.reqs.map (fun (e : Nat × Req) =>
                 if e.2.cmd == id && e.2.kind == .chain && e.2.dest == 0 then (e.1, meet e.2) else e) }
    else s
  | _, _, _ => s

/-- The last flit of a packet is accepted. -/
def packetEnded (s : State) (dir : LinkDir) (id : Nat) : State :=
  match dir, s.reqs.find id, s.cmds.find id with
  | .out, some r, _ => if r.leg == .begun then setLeg s id .there else s
  | .out, none, some c => if c.leg == .begun then setLeg s id .there else s
  | .back, some r, _ => if r.leg == .answered then readBack s id r else s
  | .back, none, some c => if c.leg == .answered then setLeg s id .back else s
  | _, none, none => s

/-! ### The send queue of a link (R458) -/

/-- Flits that wait to be sent on a link toward the modules. -/
def sendQueue (s : State) (link : Nat) : Nat :=
  (s.link link).out.resend.length +
    (s.reqs.map (fun e => match requestPacket s e.1 e.2 with
      | some p => if p.ids.head? == some e.1 && linkOf s p.module p.maddr == some link then p.flits else 0
      | none => 0)).sum

end Sys2Proof.Machine
end

