-- ==== Sys2Proof/Machine/Links.lean ====
section
/-! DEFINITION. The Gorot links: flits, acknowledgement, credits and replay (R188 to R193, R197), lane events and
their records (R194, R195), telemetry (R196), commands (R185 to R187), and width by gating (R458). In an occasion of
a flit, its direction is the one the flit travels in; its header's ACK and CRED concern the other one. -/

namespace Sys2Proof.Machine
open Sys2Proof

/-- The other direction of a link. -/
def otherDir : LinkDir → LinkDir
  | .out => .back
  | .back => .out

/-- The direction `d` of a link. -/
def Link.dir (k : Link) : LinkDir → LinkEnd
  | .out => k.out
  | .back => k.back

def Link.setDir (k : Link) (d : LinkDir) (e : LinkEnd) : Link :=
  match d with
  | .out => { k with out := e }
  | .back => { k with back := e }

/-- How far number `a` lies past `b`, modulo 2^24 (R188). -/
def seqDist (a b : BitVec 24) : Nat := (a - b).toNat

/-- Whether `a` comes before `b` in the window. -/
def seqBefore (a b : BitVec 24) : Bool := a != b && seqDist b a < 2 ^ 23

/-- Whether the link carries DATA flits: UP or DEGRADED (R194). -/
def Link.carries (k : Link) : Bool := k.state == 3 || k.state == 4

/-- The lanes of a set, lowest first. -/
def lanesOf (m : BitVec 18) : List Nat := (List.range 18).filter (fun i => m.getLsbD i)

def maskOfLanes (l : List Nat) : BitVec 18 := l.foldl (fun m i => m ||| (1#18 <<< i)) 0

/-- The `n` lowest lanes of a set. -/
def lowest (n : Nat) (m : BitVec 18) : BitVec 18 := maskOfLanes ((lanesOf m).take n)

/-- The data lanes 0 to 15. -/
def dataLanes : BitVec 18 := 0xFFFF

/-- The largest set of 16, 8 or 4 lanes of a healthy set; none below 4 (R194). -/
def widestSet (m : BitVec 18) : Option (BitVec 18) :=
  let n := (lanesOf m).length
  if 16 ≤ n then some (lowest 16 m) else if 8 ≤ n then some (lowest 8 m)
  else if 4 ≤ n then some (lowest 4 m) else none

/-- The set after a loss: 8 or else 4 of the lowest healthy data lanes (R194). -/
def lossSet (healthy : BitVec 18) : Option (BitVec 18) :=
  let n := (lanesOf (healthy &&& dataLanes)).length
  if 8 ≤ n then some (lowest 8 (healthy &&& dataLanes))
  else if 4 ≤ n then some (lowest 4 (healthy &&& dataLanes)) else none

/-! ### Records (R195) -/

def satInc (w : Word32) : Word32 := if w == BitVec.allOnes 32 then w else w + 1

/-- A record of an event on link `n`: `k` is the link before it, `e` and `m` the epoch and ACTIVE after. -/
def linkRecord (s : State) (n : Nat) (k : Link) (typ lane : Nat) (e : BitVec 4) (m : BitVec 18) (seq : BitVec 24)
    (outage replayed : Nat) (credit : Int) : State :=
  let margin : BitVec 16 := BitVec.ofInt 16 (k.margins.look 0 lane)
  let ws : List Word64 :=
    [BitVec.ofNat 64 s.now,
     BitVec.ofNat 64 (typ * 2 ^ 56 + n * 2 ^ 48 + lane * 2 ^ 40 + k.epoch.toNat * 2 ^ 36 + e.toNat * 2 ^ 32 +
       k.module.toNat * 2 ^ 24 + seq.toNat),
     BitVec.ofNat 64 (k.active.toNat * 2 ^ 18 + m.toNat),
     BitVec.ofNat 64 (outage % 2 ^ 32 * 2 ^ 32 + replayed),
     BitVec.ofNat 64 ((BitVec.ofInt 16 credit).toNat * 2 ^ 16 + margin.toNat), 0, 0, 0]
  let r := s.link n
  raiseFirmware ((physWriteWords s (r.levbase.toNat + 64 * r.levp.toNat) ws).setLink n { r with levp := r.levp + 1 }) 1

/-! ### Flits (R188) -/

/-- A 256-byte flit: header word, 240 bytes of payload, CRC-64 over both. -/
def flitBytes (seq ack : BitVec 24) (typ cred : Nat) (epoch : BitVec 4) (body : List Byte) : List Byte :=
  let b := wordBytes 8 (BitVec.ofNat 64 (seq.toNat * 2 ^ 40 + ack.toNat * 2 ^ 16 + typ * 2 ^ 12 + cred * 2 ^ 4 +
    epoch.toNat)) ++ (body ++ List.replicate 240 0).take 240
  b ++ wordBytes 8 (crc64 b)

def flitWord (f : List Byte) : Nat := (bytesWord (f.take 8)).toNat
def flitSeq (f : List Byte) : BitVec 24 := BitVec.ofNat 24 (bits (flitWord f) 40 24)
def flitAck (f : List Byte) : BitVec 24 := BitVec.ofNat 24 (bits (flitWord f) 16 24)
def flitType (f : List Byte) : Nat := bits (flitWord f) 12 4
def flitCred (f : List Byte) : Nat := bits (flitWord f) 4 8
def flitEpoch (f : List Byte) : BitVec 4 := BitVec.ofNat 4 (flitWord f)
/-- Payload bytes of a flit. -/
def flitBody (f : List Byte) : List Byte := (f.drop 8).take 240
/-- Whether the CRC-64 of a flit holds. -/
def flitCrcOk (f : List Byte) : Bool := crc64 (f.take 248) == bytesWord (f.drop 248)

/-- A flit as the receiver sees it: `noise` has a 1 for each bit that the fibre flips. -/
def flitNoise (f : List Byte) (noise : BitVec 2048) : List Byte := bytesOfNum 256 (numOfBytes f ^^^ noise.toNat)

/-! ### Sending -/

/-- An armed LTEST darkens its lane as its DATA flit begins on it, toward the module (R186). On a lane that is not ACTIVE
no flit begins: such a test darkens nothing (DESIGN CHOICE, log 118). -/
def Link.begins (k : Link) (d : LinkDir) (q : BitVec 24) : Link :=
  let lane := bits k.ltest.toNat 24 5
  if d == .out && k.ltest.getLsbD 63 && k.active.getLsbD lane && bits k.ltest.toNat 0 24 == q.toNat then
    { k with dark := k.dark ||| (1#18 <<< lane) }
  else k

/-- A buffer that a flit has left: its credit is to be returned, in CRED of a flit that goes back (R192, log 98). -/
def Link.freed (k : Link) (d : LinkDir) : Link :=
  let e := k.dir d
  k.setDir d { e with freeBufs := e.freeBufs - 1, owed := e.owed + 1 }

/-- A flit goes out in direction `d`, with ACK and CRED for the other one; dark lanes of the package's bank lose their
part of it (R186, R188, R192). -/
def Link.emit (k : Link) (d : LinkDir) (typ : Nat) (seq : BitVec 24) (body : List Byte) : Link :=
  let r := k.dir (otherDir d)
  let cred := min r.owed 255
  let f := flitBytes seq (r.expect - 1) typ cred k.epoch body
  let lost := if d == .out then k.dark &&& k.active else 0
  let k := k.setDir (otherDir d) { r with owed := r.owed - cred, freeBufs := r.freeBufs + cred }
  let e := k.dir d
  k.setDir d { e with wire := e.wire ++ [(f, lost)] }

/-- A DATA flit goes out: it takes a credit (R192). -/
def Link.sendData (k : Link) (d : LinkDir) (q : BitVec 24) (body : List Byte) : Link :=
  let k := (k.begins d q).emit d 0 q body
  let e := k.dir d
  k.setDir d { e with credits := e.credits - 1, sentSinceTele := e.sentSinceTele + 1 }

/-- A control flit goes out; its SEQ is the next number the sender will use (R188). -/
def Link.control (k : Link) (d : LinkDir) (typ : Nat) (body : List Byte) : Link :=
  k.emit d typ (k.dir d).nextSeq body

/-- IDLE flits that carry ACK and return every credit owed, at least `n` of them (R192). -/
def Link.idles (k : Link) (d : LinkDir) (n : Nat) : Link :=
  (List.range (max n (((k.dir (otherDir d)).owed + 254) / 255))).foldl (fun k _ => k.control d 1 []) k

/-- Replayed flits go out as credits allow (R191, R192). -/
def Link.pump (k : Link) (d : LinkDir) : Link :=
  if !k.carries then k
  else
    let e := k.dir d
    let qs := e.resend.take e.credits.toNat
    qs.foldl (fun k q => k.sendData d q (((e.replay.find? (fun x => x.1 == q)).map (·.2)).getD []))
      (k.setDir d { e with resend := e.resend.drop qs.length })

/-- A sender forgets the flits an acknowledgement covers. -/
def LinkEnd.acked (e : LinkEnd) (upto : BitVec 24) : LinkEnd :=
  let keep (q : BitVec 24) : Bool := !(q == upto || seqBefore q upto)
  { e with replay := e.replay.filter (fun x => keep x.1), resend := e.resend.filter keep }

/-- The receiver of direction `d` sends a NAK that names its next expected number (R191). -/
def Link.nak (k : Link) (d : LinkDir) (now : Nat) : Link :=
  let e := k.dir d
  (k.setDir d { e with nakWait := true, nakAt := now }).emit (otherDir d) 2 e.expect []

/-- The flits of a packet, with their numbers. -/
def flitsOf (first : BitVec 24) (p : Ready) : List (BitVec 24 × List Byte) :=
  (List.range p.flits).map (fun j => (first + BitVec.ofNat 24 j, (p.bytes.drop (240 * j)).take 240))

/-- A packet takes its consecutive numbers and goes out. -/
def Link.sendPacket (k : Link) (d : LinkDir) (p : Ready) : Link :=
  let e := k.dir d
  let fs := flitsOf e.nextSeq p
  let j := k.setDir d { e with
    nextSeq := e.nextSeq + BitVec.ofNat 24 p.flits, replay := e.replay ++ fs,
    packets := e.packets ++ [⟨e.nextSeq, p.flits, p.ids⟩] }
  fs.foldl (fun k f => k.sendData d f.1 f.2) j

/-- Whether a packet to an SQ page waits for earlier requests of its agent to the page, its own lines apart (R40, R163). -/
def held (s : State) (p : Ready) : Bool :=
  p.ids.any (fun i => match s.reqs.find i with
    | some r => sqBehind s (if r.kind == .copyDst then (cmdReqs s r.cmd).map (·.1) else p.ids) i r
    | none => chainBlocked s i)

/-- Whether a packet can go out on a link: a request on the link its module's mask and hash choose, a response on a link
to its module (R187, log 31); one that goes to an SQ page not before the earlier ones of its agent to the page are over
(R40); each flit with its credit and its room in the replay buffer, after the flits to replay
(R191, R192). -/
def canSend (s : State) (link : Nat) (dir : LinkDir) (p : Ready) : Bool :=
  let k := s.link link
  let e := k.dir dir
  (dir == .back || (linkOf s p.module p.maddr == some link && !held s p)) && k.module.toNat == p.module && k.carries &&
    e.resend.isEmpty && (p.flits : Int) ≤ e.credits && e.replay.length + p.flits ≤ 512

/-- PACKET_SEND: the packet of a request or chain, or its response, goes out as consecutive DATA flits (R190, R386). -/
def execPacketSend (link : Nat) (dir : LinkDir) (id : Nat) (s : State) : Result :=
  match packetFor s dir id with
  | none => .next s
  | some p =>
    if canSend s link dir p then
      .next (packetSent (s.setLink link ((s.link link).sendPacket dir p)) dir p.ids)
    else .next s

/-! ### Receiving -/

/-- The header of a flit that travels in `d`: ACK and CRED concern the other direction (R188, R192). -/
def Link.header (k : Link) (d : LinkDir) (f : List Byte) : Link :=
  let e := (k.dir (otherDir d)).acked (flitAck f)
  k.setDir (otherDir d) { e with credits := e.credits + flitCred f }

/-- What becomes of the oldest flit on a wire. -/
inductive Arrival where
  | none                                  -- there is no such flit
  | dropped (k : Link)
  | taken (k : Link) (f : List Byte)

/-- The oldest flit of direction `d` arrives, if it was sent as one of TYPE `typ`. A flit with a bad CRC, a reserved TYPE
or an EPOCH not the receiver's is dropped, and counted where the package receives a bad CRC (R185, R188); during an
outage only the header of a flit counts (R194). The first flit that a dark active lane carried comes as the loss of light
of WAVELENGTH_LOSS (R186). -/
def Link.receive (k : Link) (d : LinkDir) (typ : Nat) (noise : BitVec 2048) : Arrival :=
  let e := k.dir d
  match e.wire with
  | [] => .none
  | (f, lost) :: rest =>
    if flitType f != typ || (k.carries && lost &&& k.active != 0) then .none
    else
      let k := k.setDir d { e with wire := rest, aged := e.aged - 1 }
      let g := flitNoise f noise
      if lost != 0 || !flitCrcOk g then .dropped (if d == .back then { k with badcrc := satInc k.badcrc } else k)
      else if 6 ≤ flitType g || flitEpoch g != e.epoch then .dropped k
      else if k.carries && flitType g == typ then .taken (k.header d g) g
      else .dropped (k.header d g)

/-- A dropped DATA flit leads to a NAK, unless one is out or the link is in an outage (R188, R191, R194). -/
def Link.missed (k : Link) (d : LinkDir) (now : Nat) : Link :=
  if k.carries && !(k.dir d).nakWait then k.nak d now else k

/-- The packet that holds an accepted number. -/
def LinkEnd.packetAt (e : LinkEnd) (q : BitVec 24) : Option Packet :=
  e.packets.find? (fun p => seqDist q p.first < p.flits)

/-- A DATA flit is accepted: its buffer is freed, and ACK and CRED go back (R191, R192, log 98). Only accepted flits count
toward the 1,024 of an audit (R197; DESIGN CHOICE, log 117). -/
def Link.accepted (k : Link) (d : LinkDir) : Link :=
  let e := k.dir d
  ((k.setDir d { e with expect := e.expect + 1, nakWait := false, gotSinceAudit := e.gotSinceAudit + 1 }).freed d).idles
    (otherDir d) 1

/-- What the acceptance of number `q` means to the packet it belongs to (R202). -/
def packetFlit (s : State) (link : Nat) (dir : LinkDir) (q : BitVec 24) : State :=
  let k := s.link link
  let e := k.dir dir
  match e.packetAt q with
  | none => s
  | some p =>
    let s := if q == p.first then p.ids.foldl (fun s id => packetBegun s dir id) s else s
    if seqDist q p.first + 1 == p.flits then
      p.ids.foldl (fun s id => packetEnded s dir id)
        (s.setLink link (k.setDir dir { e with packets := e.packets.erase p }))
    else s

/-- DATA_FLIT_RECEIVE: the expected flit is accepted, when a buffer is free; one that fails or lies beyond leads to a NAK
unless one is out; one accepted before is dropped (R188, R191, R192). -/
def execDataFlitReceive (link : Nat) (dir : LinkDir) (noise : BitVec 2048) (s : State) : Result :=
  match (s.link link).receive dir 0 noise with
  | .none => .next s
  | .dropped k => .next (s.setLink link ((k.freed dir).missed dir s.now))
  | .taken k f =>
    let k := k.pump (otherDir dir)
    let e := k.dir dir
    let q := flitSeq f
    if q == e.expect && 0 < e.freeBufs then
      .next (packetFlit (s.setLink link (k.accepted dir)) link dir q)
    else if seqBefore q e.expect then .next (s.setLink link (k.freed dir))
    else .next (s.setLink link ((k.freed dir).missed dir s.now))

/-- A control flit arrives: dropped, or its header counts and `act` follows (R188). -/
def controlArrives (s : State) (link : Nat) (dir : LinkDir) (typ : Nat) (noise : BitVec 2048)
    (act : State → Link → List Byte → State) : Result :=
  match (s.link link).receive dir typ noise with
  | .none => .next s
  | .dropped k => .next (s.setLink link k)
  | .taken k f => .next (act s k f)

/-- IDLE_FLIT_RECEIVE (R192). -/
def execIdleFlitReceive (link : Nat) (dir : LinkDir) (noise : BitVec 2048) (s : State) : Result :=
  controlArrives s link dir 1 noise (fun s k _ => s.setLink link (k.pump (otherDir dir)))

/-- A NAK of number `q` reaches the sender of direction `d` (R191, R193). -/
def Link.replayFrom (k : Link) (d : LinkDir) (q : BitVec 24) : Link :=
  let e := (k.dir d).acked (q - 1)
  let e := { e with resend := e.replay.map (·.1), nakSeq := q, nakCount := if e.nakSeq == q then e.nakCount + 1 else 1 }
  let k := if d == .out then { k with replays := satInc k.replays } else k
  (k.setDir d e).pump d

/-- NAK_RECEIVE: earlier flits are acknowledged and the sender replays from the named one (R191, R193). -/
def execNakReceive (link : Nat) (dir : LinkDir) (noise : BitVec 2048) (s : State) : Result :=
  controlArrives s link dir 2 noise (fun s k f => s.setLink link (k.replayFrom (otherDir dir) (flitSeq f)))

/-- NAK_TIMEOUT: the receiver that has waited 2 µs for a replayed flit sends its NAK again, in direction `dir` (R191). -/
def execNakTimeout (link : Nat) (dir : LinkDir) (s : State) : Result :=
  let k := s.link link
  let e := k.dir (otherDir dir)
  if k.carries && e.nakWait && e.nakAt + 2000 ≤ s.now then .next (s.setLink link (k.nak (otherDir dir) s.now)) else .next s

/-! ### Telemetry and audit -/

/-- An entry of a TELEMETRY payload: BEREXP, MARGIN and PWR; the rest is 0 (R196). -/
def telemetryEntry (w : Word64) : Word64 := w &&& 0xFFFFFFFFFF#64

/-- TELEMETRY_SEND after 4,096 DATA flits in direction `dir`, with what the end measures of each lane (R196). -/
def execTelemetrySend (link : Nat) (dir : LinkDir) (readings : List Word64) (s : State) : Result :=
  let k := s.link link
  let e := k.dir dir
  if e.sentSinceTele < 4096 || !k.carries then .next s
  else .next (s.setLink link ((k.setDir dir { e with sentSinceTele := e.sentSinceTele - 4096 }).control dir 3
    ((List.range 18).flatMap (fun i => wordBytes 8 (telemetryEntry (readings.getD i 0))))))

/-- MARGIN of lane `i` in a TELEMETRY payload. -/
def telemetryMargin (body : List Byte) (i : Nat) : Int :=
  (BitVec.ofNat 16 (bits (bytesWord ((body.drop (8 * i)).take 8)).toNat 16 16)).toInt

/-- The spares that are free: healthy, not active and trained for no lane, lowest first. -/
def Link.freeSpares (k : Link) : List Nat :=
  [16, 17].filter (fun i => k.healthy.getLsbD i && !k.active.getLsbD i && (k.spareFor.find i).isNone)

/-- Whether this flit is an active lane's second in a row with a low margin, and no spare is trained for it (R194). -/
def Link.ages (k : Link) (side lane : Nat) : Bool :=
  k.lowCount.look 0 (side + lane) == 2 && !k.spareFor.any (fun x => x.2 == lane)

/-- A low margin twice in a row: the lowest spare that is free is trained for the lane (R194). -/
def Link.age (k : Link) (side lane : Nat) : Link :=
  if !k.ages side lane then k
  else match k.freeSpares with
    | [] => k
    | i :: _ => { k with spareFor := k.spareFor.put i lane }

/-- The margins of one telemetry flit, in steps of 0.05 dB (R196). -/
def Link.readings (k : Link) (side : Nat) (body : List Byte) : Link :=
  (List.range 18).foldl (fun k i =>
    let m := telemetryMargin body i
    let low := if m < 20 && k.active.getLsbD i then k.lowCount.look 0 (side + i) + 1 else 0
    Link.age { k with margins := k.margins.put (side + i) m, lowCount := k.lowCount.put (side + i) low } side i) k

/-- TELEMETRY_RECEIVE: the far end's margins of this end's lanes; a lane that ages while no spare is left stays in service,
and its event is recorded (R194 to R196). -/
def execTelemetryReceive (link : Nat) (dir : LinkDir) (noise : BitVec 2048) (s : State) : Result :=
  let side := if dir == .back then 0 else 18
  controlArrives s link dir 3 noise (fun s k f =>
    let j := (k.pump (otherDir dir)).readings side (flitBody f)
    ((List.range 18).filter (j.ages side)).foldl
      (fun s i => linkRecord s link j 2 i j.epoch j.active j.out.nextSeq 0 0 0) (s.setLink link j))

/-- AUDIT_SEND in direction `dir`, after 1,024 DATA flits received in the other: FREE, which counts the credits of this
flit, and RSEQ; not while the receiver waits for a replay (R197, log 98). -/
def execAuditSend (link : Nat) (dir : LinkDir) (s : State) : Result :=
  let k := s.link link
  let e := k.dir (otherDir dir)
  if e.gotSinceAudit < 1024 || !k.carries || e.nakWait then .next s
  else
    let k := k.setDir (otherDir dir) { e with gotSinceAudit := e.gotSinceAudit - 1024 }
    let free := (e.freeBufs + min e.owed 255).toNat
    .next (s.setLink link (k.control dir 4
      (bytesOfNum 4 free ++ bytesOfNum 4 (e.expect - 1).toNat)))

/-- AUDIT_RECEIVE: credits are recomputed, and a correction is recorded (R197). -/
def execAuditReceive (link : Nat) (dir : LinkDir) (noise : BitVec 2048) (s : State) : Result :=
  controlArrives s link dir 4 noise (fun s k f =>
    let e := k.dir (otherDir dir)
    let w := (bytesWord ((flitBody f).take 8)).toNat
    let correct : Int := (bits w 0 32 : Int) - (seqDist (e.nextSeq - 1) (BitVec.ofNat 24 (bits w 32 24)) : Int)
    let s := s.setLink link ((k.setDir (otherDir dir) { e with credits := correct }).pump (otherDir dir))
    if correct == e.credits then s
    else linkRecord s link k 7 0xFF k.epoch k.active e.nextSeq 0 0 (correct - e.credits))

/-! ### Changes of the lane map -/

/-- A MAP flit in each direction that names the first number under the new map; ACTIVE changes and EPOCH advances
(R194, R458). -/
def Link.remap (k : Link) (m : BitVec 18) : Link :=
  let k := (k.control .out 5 []).control .back 5 []
  { k with active := m, epoch := k.epoch + 1 }

/-- MAP_FLIT_RECEIVE: the receiver goes over to the new map and its epoch (R194). -/
def execMapFlitReceive (link : Nat) (dir : LinkDir) (noise : BitVec 2048) (s : State) : Result :=
  controlArrives s link dir 5 noise (fun s k _ =>
    let e := k.dir dir
    s.setLink link ((k.setDir dir { e with epoch := e.epoch + 1 }).pump (otherDir dir)))

/-- A full retrain begins (R194). -/
def Link.startFull (k : Link) (now : Nat) : Link :=
  { k with state := 5, full := true, since := if k.state == 5 then k.since else now, widening := 0,
           spareFor := [], placed := 0 }

/-- First flit a replay sends again toward the module, and how many there are. -/
def Link.replayed (k : Link) : BitVec 24 × Nat :=
  let l := (k.out.replay.map (·.1)).filter (fun q => !seqBefore q k.out.expect)
  (l.headD k.out.nextSeq, l.length)

/-- A lost lane: it is no longer healthy, and a spare that is lost stands in no position. -/
def Link.unhealthy (k : Link) (lane : Nat) : Link :=
  { k with healthy := k.healthy &&& ~~~(1#18 <<< lane), spareFor := k.spareFor.del lane,
           placed := k.placed &&& ~~~(1#18 <<< lane) }

/-- The LOSS record of a loss after which every lane retrains: that event has the new map, the outage and the replay
(R195, log 99). -/
def lossToFull (s : State) (link lane : Nat) (k : Link) : State :=
  linkRecord s link k 1 lane k.epoch k.active k.replayed.1 0 0 0

/-- Whether the light of a lane still comes: the first flit that the dark lane lost is not yet the next to arrive (R186). -/
def Link.lightComes (k : Link) (lane : Nat) : Bool :=
  match k.out.wire with
  | [] => false
  | f :: l => !f.2.getLsbD lane && l.any (fun g => g.2.getLsbD lane)

/-- WAVELENGTH_LOSS on an active lane: both ends stop and retrain to fewer lanes, or every lane retrains; a loss
during a retrain folds into it (R194). -/
def execWavelengthLoss (link lane : Nat) (s : State) : Result :=
  let k := s.link link
  if !k.active.getLsbD lane || !(k.carries || k.state == 5) || (k.carries && k.lightComes lane) then .next s
  else
    let h := k.unhealthy lane
    if k.state == 5 then .next (s.setLink link h)
    else match lossSet h.healthy with
      | none => .next (lossToFull (s.setLink link (h.startFull s.now)) link lane k)
      | some _ => .next (s.setLink link { h with state := 5, full := false, since := s.now, widening := 0, lost := some lane })

/-- INACTIVE_LANE_LOSS on a healthy lane that is neither active nor gated off; during a retrain it folds into that
(R194). -/
def execInactiveLaneLoss (link lane : Nat) (s : State) : Result :=
  let k := s.link link
  if !k.healthy.getLsbD lane || k.active.getLsbD lane || k.gated.getLsbD lane then .next s
  else
    let s := s.setLink link (k.unhealthy lane)
    .next (if k.state == 5 then s else linkRecord s link k 1 lane k.epoch k.active k.out.nextSeq 0 0 0)

/-- Data positions that have lost their lane and no spare stands in, lowest first (R194). -/
def Link.lostPositions (k : Link) : List Nat :=
  (List.range 16).filter (fun i => !k.healthy.getLsbD i && !k.spareFor.any (fun x => x.2 == i))

/-- The lanes of the 16 data positions, where every position has a healthy one. -/
def Link.fullMap (k : Link) : Option (BitVec 18) :=
  if k.lostPositions.isEmpty then
    some (maskOfLanes ((List.range 16).filter (fun i => k.healthy.getLsbD i) ++
      (k.spareFor.filter (fun x => !k.healthy.getLsbD x.2)).map (·.1)))
  else none

/-- A spare stands in a lost position: with every position healthy a MAP flit restores 16 lanes. `j` is the link with
the spare trained for it; its record is written once (R194, R195). -/
def spareStands (s : State) (link lane : Nat) (k j : Link) : State :=
  let note (s : State) (e : BitVec 4) (m : BitVec 18) : State :=
    if k.placed.getLsbD lane then s else linkRecord s link k 3 lane e m k.out.nextSeq 0 0 0
  let j := { j with placed := j.placed ||| (1#18 <<< lane), spareAt := s.now }
  match if k.state == 4 then j.fullMap else none with
  | none => note (s.setLink link j) k.epoch k.active
  | some m =>
    let s := note (s.setLink link { j.remap m with state := 3, gated := 0 }) (k.epoch + 1) m
    linkRecord s link k 4 0xFF (k.epoch + 1) m k.out.nextSeq 0 0 0

/-- SPARE_IN: a trained spare takes the ageing lane it was trained for, by a MAP flit, or the lowest free spare the lowest
lost position (R194, R195). -/
def execSpareIn (link lane : Nat) (s : State) : Result :=
  let k := s.link link
  if lane < 16 || 18 ≤ lane || !k.carries || !k.healthy.getLsbD lane || k.active.getLsbD lane then .next s
  else match k.spareFor.find lane with
    | some pos =>
      if k.active.getLsbD pos then
        let m := (k.active &&& ~~~(1#18 <<< pos)) ||| (1#18 <<< lane)
        let s := s.setLink link (k.remap m)
        .next (linkRecord s link k 2 pos (k.epoch + 1) m k.out.nextSeq 0 0 0)
      else .next (spareStands s link lane k k)
    | none =>
      match k.lostPositions with
      | [] => .next s
      | pos :: _ => if k.freeSpares.head? != some lane then .next s else .next (spareStands s link lane k { k with spareFor := k.spareFor.put lane pos })

/-- Whether the receiver of a direction has another epoch than its sender and no MAP flit is on its way to it (R194). -/
def Link.disagrees (k : Link) (d : LinkDir) : Bool :=
  (k.dir d).epoch != k.epoch && !(k.dir d).wire.any (fun f => flitType f.1 == 5)

/-- The healthy data lanes and the spares that stand in data positions (R194). -/
def Link.serving (k : Link) : BitVec 18 := k.healthy &&& (dataLanes ||| k.placed ||| k.active)

/-- FULL_RETRAIN on its trigger: fewer than 4 healthy data lanes after spares, eight NAKs in a row, or epochs that disagree
(R193, R194). -/
def execFullRetrain (link : Nat) (s : State) : Result :=
  let k := s.link link
  if k.carries && ((lanesOf k.serving).length < 4 || 8 ≤ k.out.nakCount || 8 ≤ k.back.nakCount ||
      k.disagrees .out || k.disagrees .back) then
    .next (s.setLink link (k.startFull s.now))
  else .next s

/-- One direction after a retrain: both ends agree on the epoch, and the flits not accepted are replayed from the
NAKed number (R191, R194). -/
def LinkEnd.retrained (e : LinkEnd) (ep : BitVec 4) : LinkEnd :=
  let e := e.acked (e.expect - 1)
  { e with resend := e.replay.map (·.1), epoch := ep, nakCount := 0, nakWait := false }

/-- The flits still on a wire arrive during the outage: their headers count, and their DATA is dropped (R191, R194). -/
def Link.clearWire (k : Link) (d : LinkDir) : Link :=
  let e := k.dir d
  e.wire.foldl (fun k f =>
    let k := if f.2 == 0 && flitEpoch f.1 == e.epoch then k.header d f.1 else k
    if flitType f.1 == 0 then k.freed d else k) (k.setDir d { e with wire := [], aged := 0 })

/-- The positions that the spares of a set take: the lowest that have lost their lane (R194). -/
def placeSpares (healthy m : BitVec 18) : FMap Nat :=
  ([16, 17].filter (fun i => m.getLsbD i)).zip ((List.range 16).filter (fun i => !healthy.getLsbD i))

/-- The spares of a set stand in the positions that have lost their lane. -/
def Link.withSpares (k : Link) (m : BitVec 18) : Link :=
  { k with spareFor := placeSpares k.healthy m, placed := m &&& ~~~dataLanes }

/-- Whether the replay that a retrain begins is counted: not when a NAK that names the same number has begun it. -/
def Link.newReplay (k : Link) : Bool :=
  k.out.replay.any (fun x => !seqBefore x.1 k.out.expect) && !(k.out.nakCount != 0 && k.out.nakSeq == k.out.expect)

/-- The link runs on set `m`, after a retrain or a tune. EPOCH advances after each, on the same ACTIVE too (R194; DESIGN
CHOICE, log 116). -/
def Link.runOn (k : Link) (m : BitVec 18) (now : Nat) : Link :=
  let ep := k.epoch + 1
  let k := (k.clearWire .out).clearWire .back
  let k := { k with active := m, epoch := ep, gated := 0, widening := 0, busy := false, full := false,
                    lost := none, spareAt := k.since, quiet := now,
                    state := if (lanesOf m).length == 16 then 3 else 4, out := k.out.retrained ep,
                    back := k.back.retrained ep, replays := if k.newReplay then satInc k.replays else k.replays }
  (((k.idles .out 0).idles .back 0).pump .out).pump .back

/-- Another link to the module that reaches UP, or may yet (R194, R203). -/
def otherLink (s : State) (link : Nat) (m : BitVec 8) : Bool :=
  (List.range 48).any (fun n => n != link && (s.link n).module == m && (s.link n).state != 0)

/-- RETRAIN_COMPLETE with the lanes that trained: a loss retrain ends on the set its healthy lanes give, and its LOSS
record is written; a full retrain ends on its widest set, or the link is DOWN, and with no other link its module is dead
(R194, R195, R203). -/
def execRetrainComplete (link : Nat) (healthy : BitVec 18) (s : State) : Result :=
  let k := s.link link
  if k.state != 5 then .next s
  else if !k.full then
    let h := { k with healthy := k.healthy &&& healthy &&& ~~~k.dark }
    match lossSet h.healthy with
    | some m => .next (linkRecord (s.setLink link (h.runOn m s.now)) link k 1 (k.lost.getD 0xFF) (k.epoch + 1) m
        k.replayed.1 (min (s.now - k.since) 8100) k.replayed.2 0)
    | none => .next (lossToFull (s.setLink link { h.startFull s.now with lost := none }) link (k.lost.getD 0xFF) k)
  else
    let h := { k with healthy := healthy &&& ~~~k.dark }
    match widestSet h.healthy with
    | some m =>
      let s := s.setLink link ((h.withSpares m).runOn m s.now)
      .next (linkRecord s link k 5 0xFF (k.epoch + 1) m k.replayed.1 (s.now - k.since) k.replayed.2 0)
    | none =>
      let ep := if k.active == 0 then k.epoch else k.epoch + 1
      let h := (h.clearWire .out).clearWire .back
      let s := s.setLink link { h with state := 0, active := 0, epoch := ep, busy := false, full := false, lost := none }
      let s := linkRecord s link k 6 0xFF ep 0 k.replayed.1 (s.now - k.since) 0 0
      .next (if otherLink s link k.module then s else moduleDead s k.module.toNat)

/-! ### Commands (R185 to R187) -/

/-- TUNE (CMD 1): MODULE is written, and a DOWN link starts to tune; ignored while BUSY. -/
def execTune (link : Nat) (module : BitVec 8) (s : State) : Result :=
  let k := s.link link
  if k.busy then .next s
  else if k.state == 0 then
    .next (s.setLink link { k with busy := true, state := 1, target := module, module := module, since := s.now })
  else .next (s.setLink link { k with target := module })

/-- TUNE_COMPLETE with the lanes that trained; a tune that fails on the last link to a module of the route table leaves
that module dead (R187, R203). -/
def execTuneComplete (link : Nat) (healthy : BitVec 18) (s : State) : Result :=
  let k := s.link link
  if k.state != 1 && k.state != 2 then .next s
  else
    let h := { k with healthy := healthy &&& ~~~k.dark }
    match (lossSet h.healthy).bind (fun _ => widestSet h.healthy) with
    | some m => .next (linkRecord (s.setLink link ((h.withSpares m).runOn m s.now))
        link k 8 0xFF (k.epoch + 1) m k.out.nextSeq 0 0 0)
    | none =>
      let s := bootLinkFails (linkRecord (s.setLink link { h with state := 0, active := 0, busy := false }) link k 8 0xFF k.epoch 0
        k.out.nextSeq 0 0 0)
      .next (if routed s k.module.toNat && !otherLink s link k.module then moduleDead s k.module.toNat else s)

/-- The record of a loss whose outage a command ends (R195, log 99). -/
def lossEnds (s : State) (link : Nat) (k : Link) : State :=
  if k.state == 5 && !k.full then lossToFull s link (k.lost.getD 0xFF) k else s

/-- LCTL_RETRAIN (CMD 2): MODULE is written, and a link that carries flits retrains every lane. -/
def execLctlRetrain (link : Nat) (module : BitVec 8) (s : State) : Result :=
  let k := s.link link
  let h := { k with target := module }
  if k.busy then .next s
  else if k.carries || k.state == 5 then
    .next (lossEnds (s.setLink link { h.startFull s.now with busy := true, lost := none }) link k)
  else .next (s.setLink link h)

/-- TAKE_DOWN (CMD 3): MODULE is written, and the link goes DOWN. -/
def execTakeDown (link : Nat) (module : BitVec 8) (s : State) : Result :=
  let k := s.link link
  if k.busy then .next s
  else
    let h := (k.clearWire .out).clearWire .back
    let s := s.setLink link { h with target := module, state := 0, active := 0, epoch := k.epoch + 1, full := false, gated := 0,
                                     widening := 0, spareFor := [], placed := 0, lost := none }
    .next (linkRecord (lossEnds s link k) link k 6 0xFF (k.epoch + 1) 0 k.out.nextSeq 0 0 0)

/-- LTEST_WRITE: ARM = 0 lights the darkened lanes again (R186). -/
def execLtestWrite (link : Nat) (w : Word64) (s : State) : Result :=
  let k := s.link link
  let w := w &&& 0x800000001FFFFFFF#64
  .next (s.setLink link { k with ltest := w, dark := if w.getLsbD 63 then k.dark else 0 })

/-! ### Width by gating (R458) -/

/-- Whether a link's width halves: its send queue has been short for 10 µs; never below 4 lanes (R458). -/
def narrows (s : State) (k : Link) (queue now : Nat) : Bool :=
  s.pwrGate && k.carries && 8 ≤ (lanesOf k.active).length && k.widening == 0 && queue < 64 && k.quiet + 10000 ≤ now

/-- LINK_WIDTH_HALVE: the upper half of the active lanes is gated off. -/
def execLinkWidthHalve (link : Nat) (s : State) : Result :=
  let k := s.link link
  let n := (lanesOf k.active).length
  if !narrows s k (sendQueue s link) s.now then .next s
  else
    let m := lowest (n / 2) k.active
    .next (s.setLink link { k.remap m with quiet := s.now, gated := k.gated ||| (k.active &&& ~~~m) })

/-- LINK_WIDTH_DOUBLE: gated lanes are lit, as many as are active. -/
def execLinkWidthDouble (link : Nat) (s : State) : Result :=
  let k := s.link link
  let n := (lanesOf k.active).length
  if !k.carries || k.widening != 0 || n == 0 || (lanesOf k.gated).length < n || sendQueue s link < 256 then .next s
  else .next (s.setLink link { k with widening := lowest n k.gated, lit := s.now })

/-- WIDENING_LIT: the lit lanes join by a MAP flit. -/
def execWideningLit (link : Nat) (s : State) : Result :=
  let k := s.link link
  if k.widening == 0 || !k.carries then .next s
  else .next (s.setLink link { k.remap (k.active ||| k.widening) with
    gated := k.gated &&& ~~~k.widening, widening := 0, quiet := s.now })

/-! ### The passing of time (R187, R191, R194, R458) -/

/-- Whether a spare is being trained for a lost position of a DEGRADED link. -/
def Link.training (k : Link) : Bool :=
  k.state == 4 && [16, 17].any (fun i => k.healthy.getLsbD i && !k.active.getLsbD i && !k.placed.getLsbD i &&
    (match k.spareFor.find i with
     | some pos => !k.healthy.getLsbD pos
     | none => !k.lostPositions.isEmpty))

/-- Whether the bound of something that runs on a link would be passed at time `t` (log 100). -/
def linkDue (s : State) (n : Nat) (k : Link) (t : Nat) : Bool :=
  let past (from_ len : Nat) : Bool := from_ + len < t
  (k.carries && s.now < t && (k.out.wire.head?.map (·.2)).getD 0 &&& k.active != 0) ||
  (k.carries && [k.out, k.back].any (fun e => e.aged != 0 && past e.agedAt 256)) ||
  (k.state == 5 && past k.since (if k.full then 50000 else 8000)) ||
  ((k.state == 1 || k.state == 2) && past k.since 2000000) ||
  (k.carries && [k.out, k.back].any (fun e => e.nakWait && past e.nakAt 2000)) ||
  (k.training && past k.spareAt 200000) ||
  (k.widening != 0 && past k.lit 2000) ||
  (narrows s k (sendQueue s n) t && past k.quiet 10000)

/-- A sender whose replay buffer has no room for a packet, and that has no flit on the fibre, sends an IDLE (R192). -/
def Link.idleWhenFull (k : Link) (d : LinkDir) : Link :=
  if k.carries && 503 < (k.dir d).replay.length && (k.dir d).wire.isEmpty then k.control d 1 [] else k

/-- The flits on a fibre as time begins to pass, once those noted before have arrived. -/
def LinkEnd.age (e : LinkEnd) (now : Nat) : LinkEnd :=
  if e.aged == 0 then { e with aged := e.wire.length, agedAt := now } else e

/-- A link as time goes on to `t`: a full sender sends IDLE flits, a tune goes over to training its lanes, and a long send
queue ends a quiet time. -/
def linkLater (s : State) (n : Nat) (k : Link) (t : Nat) : Link :=
  let k := (k.idleWhenFull .out).idleWhenFull .back
  let k := { k with out := k.out.age s.now, back := k.back.age s.now }
  let k := if k.state == 1 then { k with state := 2 } else k
  if 64 ≤ sendQueue s n then { k with quiet := t } else k

/-! ### Registers (R185) -/

def Link.lctl (k : Link) : Word64 :=
  BitVec.ofNat 64 ((if k.busy then 2 ^ 63 else 0) + k.target.toNat * 2 ^ 48)
def Link.lstat (k : Link) : Word64 :=
  BitVec.ofNat 64 (k.state * 2 ^ 60 + k.epoch.toNat * 2 ^ 56 + k.active.toNat * 2 ^ 18 + k.healthy.toNat)
def Link.lcnt (k : Link) : Word64 := k.replays ++ k.badcrc

end Sys2Proof.Machine
end

