-- ==== Sys2Proof/Machine/RootPort.lean ====
section
/-! DEFINITION. The configuration space of the root ports (R445): a type 1 header with the MSI, AER and DPC capabilities of
the PCI Express Base Specification. The manual names AER and DPC and places none of their registers: their places are a
DESIGN CHOICE, what they do is PRESUMED (log 115). -/

namespace Sys2Proof.Machine
open Sys2Proof

/-- A 32-bit register of configuration space before any write: MSI at 0x50, AER at 0x100 with its default severities, DPC at
0x150; what identifies the part is open. -/
def cfgReset (d : Nat) : Word32 :=
  match d with
  | 0x14 => 0x00800005
  | 0x40 => 0x15020001
  | 0x43 => 0x00462030
  | 0x54 => 0x0001001D
  | _ => if 0x15 ≤ d && d < 0x18 || 0x40 < d && d < 0x58 || [1, 6, 8, 9, 10, 11, 15].contains d then 0 else Config.rootCfg d

/-- A 32-bit register of a port's configuration space. -/
def cfgWord (s : State) (port d : Nat) : Word32 := s.rootCfg.look (cfgReset d) (port * 1024 + d)
def setCfg (s : State) (port d : Nat) (w : Word32) : State := { s with rootCfg := s.rootCfg.put (port * 1024 + d) w }

/-- Bits that software writes, and bits that writing 1 clears: command, bus numbers, windows, MSI, the masks and severities
of AER, the control of DPC; the status registers. -/
def cfgMasks (d : Nat) : Word32 × Word32 :=
  match d with
  | 1 => (0x0547, 0xF9000000)
  | 6 => (0x00FFFFFF, 0)
  | 8 | 9 => (0xFFF0FFF0, 0)
  | 10 | 11 => (0xFFFFFFFF, 0)
  | 15 => (0x007F00FF, 0)
  | 0x14 => (0x00710000, 0)
  | 0x15 => (0xFFFFFFFC, 0)
  | 0x16 => (0xFFFFFFFF, 0)
  | 0x17 => (0x0000FFFF, 0)
  | 0x41 | 0x44 => (0, 0xFFFFFFFF)
  | 0x42 | 0x43 | 0x45 => (0xFFFFFFFF, 0)
  | 0x46 => (0x00000140, 0)
  | 0x4B => (0x7, 0)
  | 0x4C => (0, 0x7F)
  | 0x55 => (0x00FF0000, 0)
  | 0x56 => (0, 0x9)
  | _ => (0, 0)

/-- A store to configuration space, byte by byte. -/
def cfgStore (s : State) (port reg n : Nat) (w : Word64) : State :=
  (List.range n).foldl (fun s j =>
    let d := (reg + j) / 4
    let at_ := 8 * ((reg + j) % 4)
    let here : Word32 := 0xFF#32 <<< at_
    let v : Word32 := BitVec.ofNat 32 (bits w.toNat (8 * j) 8) <<< at_
    let old := cfgWord s port d
    let rw := (cfgMasks d).1 &&& here
    setCfg s port d ((old &&& ~~~rw ||| v &&& rw) &&& ~~~(v &&& (cfgMasks d).2))) s

/-- A load of `n` bytes of configuration space. -/
def cfgLoad (s : State) (port reg n : Nat) : Word64 :=
  let w := (cfgWord s port (reg / 4 + 1) ++ cfgWord s port (reg / 4)) >>> (8 * (reg % 4))
  BitVec.ofNat 64 (w.toNat % 2 ^ (8 * n))

/-- Whether DPC contains a port: nothing passes until software clears the trigger. -/
def contained (s : State) (port : Nat) : Bool := (cfgWord s port 0x56).getLsbD 0

/-- The uncorrectable errors an error word names; Unsupported Request where it names none. -/
def errorBits (info : Word64) : Word32 :=
  let m : Word32 := info.setWidth 32 &&& 0x07FFF030
  if m = 0 then 0x00100000 else m

/-- An error of a port: AER's status and root status, DPC's trigger where it is enabled for the error's severity, and the
port's MSI where one of the two reports (R445, R446). -/
def portError (s : State) (port : Nat) (info : Word64) : State :=
  let e := errorBits info
  let fatal := (e &&& cfgWord s port 0x43) != 0
  let s := setCfg s port 0x41 (cfgWord s port 0x41 ||| e)
  let s := setCfg s port 0x4C (cfgWord s port 0x4C ||| (if fatal then 0x44 else 0x24))
  let ctl := bits (cfgWord s port 0x55).toNat 16 16
  let s := if ctl % 4 == 2 || (ctl % 4 == 1 && fatal) then
      setCfg s port 0x56 (cfgWord s port 0x56 ||| (if bits ctl 3 1 == 1 then 9 else 1))
    else s
  let report := (cfgWord s port 0x4B).getLsbD (if fatal then 2 else 1) || (bits ctl 3 1 == 1 && contained s port)
  if report && (cfgWord s port 0x14).getLsbD 16 then
    sendMsi s (cfgWord s port 0x16 ++ cfgWord s port 0x15) (cfgWord s port 0x17)
  else s

/-- An error is recorded in AER of its port and in the error ring (R446, R454). -/
def ioError (s : State) (port : Nat) (info : Word64) : State :=
  errorRecord (portError s port info) 5 port (BitVec.ofNat 64 port) info

end Sys2Proof.Machine
end

