-- ==== Sys2Proof/Machine/Host.lean ====
section
/-! DEFINITION. What the control cores, the firmware's register writes and the root ports do to the package: the
interrupt ring (R448, R449), corrected-error counts (R456), the governor (R457), inbound PCI Express requests (R447,
R454), and the device registers (R7, R48). -/

namespace Sys2Proof.Machine
open Sys2Proof

/-- Whether accesses of a team that a message follows are still out (R285). -/
def messageHeld (s : State) (m : IrqMsg) : Bool :=
  let out (core slot : Nat) (t : Team) : Bool :=
    t.unit == m.unit && t.index == m.index && (t.queue.any (fun e => e.seq < m.entries) ||
      s.gangAcc.any (fun e => e.2.core == core && e.2.slot == slot && e.2.seq < m.accesses) ||
      s.pendings.any (fun e => e.2.core == core && e.2.slot == slot && !e.2.discard &&
        (match e.2.store with | some p => p.seq < m.accesses | none => false)))
  s.teams.any (fun e => out (e.1 / 32) (e.1 % 32) e.2) ||
  (match s.unit m.unit with
   | some r => r.savedTeams.any (fun e => out (savedCore m.unit) e.1 e.2)
   | none => false)

/-- IRQ_MESSAGE_MOVE: the oldest message goes into the ring, then its MSI; a disabled ring drops it, and a full one
leaves it, as do accesses that come first (R285, R448, R449). -/
def execIrqMessageMove (s : State) : Result :=
  match s.irqBuf with
  | [] => .next s
  | m :: rest =>
    let r := s.irqRing
    let n := ringSize r.ctl
    if messageHeld s m then .next s
    else if n == 0 then .next { s with irqBuf := rest }
    else if ringFull r.prod r.head n then .next s
    else
      let pa := bits r.base.toNat 12 40 * 4096 + 32 * (r.prod.toNat % n)
      let s := physWriteWords s pa
        [BitVec.ofNat 64 (phaseBit r.prod.toNat n + m.vec), m.payload, m.tid, BitVec.ofNat 64 m.time]
      let s := { s with irqBuf := rest, irqRing := { r with prod := r.prod + 1 } }
      let w := s.irqv.look 0 (2 * m.vec + 1)
      .next (if w.getLsbD 63 then sendMsi s (s.irqv.look 0 (2 * m.vec)) (w.setWidth 32) else s)

/-- CECNT_WRITE: the count is cleared (R456). -/
def execCecntWrite (core : Nat) (s : State) : Result := .next (s.setCore core { s.core core with cecnt := 0 })

/-- The laser power granted keeps the far-end margin of the package's active lanes at least 40 (R457). -/
def Link.grant (k : Link) (n link : Nat) : Link :=
  { k with margins := k.margins.map (fun (e : Nat × Int) =>
      if e.1 < 18 && k.active.getLsbD e.1 && e.2 < 40 then (e.1, 40 + (Config.grantMargin n link e.1 : Int)) else e) }

/-- GOVERNOR_SETTLE, 20 µs after the last (R457, log 32): the lasers get first what keeps the margins, where the cap holds
it, else the cap; the rest of the package draws what the cap leaves at most; then each die has a clock in steps of 25 MHz
within 900 to 1,500. What a die has counted of cycles goes on at the new clock (R2). -/
def execGovernorSettle (s : State) : Result :=
  let n := s.freeCtr
  let cap := s.pwrCap.toNat
  let laser := min cap (Config.laserNeed n)
  let dies : List Nat := [0, 1, 2, 3]
  if s.now < s.settled + 20000 then .next s
  else .next { s with
    settled := s.now, freeCtr := n + 1
    links := if Config.laserNeed n ≤ cap then s.links.map (fun (e : Nat × Link) => (e.1, e.2.grant n e.1)) else s.links
    pwrStat := BitVec.ofNat 32 (laser * 65536 + (laser + Config.watts n % (cap - laser + 1)))
    clkBase := dies.foldl (fun m d => FMap.put m d (s.now, dieMilli s d)) s.clkBase
    pwrClk := dies.foldl (fun m d =>
      FMap.put m d (BitVec.ofNat 11 (900 + 25 * (Config.clockStep n d % 25)))) s.pwrClk }

/-! ### PCI Express (R445 to R447, R454) -/

def pcieAnswer (s : State) (port : Nat) (ok : Bool) (data : List Byte) (poison : Bool) : State :=
  { s with pcieOut := s.pcieOut ++ [⟨port, ok, data, poison⟩] }

/-- Whether a far physical address has a valid extent. -/
def extentValid (s : State) (pa : Nat) : Bool :=
  match extentOf s pa with
  | .routed _ _ _ => true
  | _ => false

/-- PCIE_INBOUND_WRITE: `addr` is the device's address, with the device itself above bit 64 (R447, log 51). A port that DPC
contains lets nothing in (R445). -/
def execPcieInboundWrite (port addr : Nat) (bytes : List Byte) (poison : Bool) (s : State) : Result :=
  if contained s port then .next s
  else match iommuAccess s port addr true with
    | (s, none) => .next (pcieAnswer s port false [] false)
    | (s, some a) =>
      if a < 2 ^ 52 && extentValid s a then .next (physWrite s a bytes poison)
      else if imsicPage (a / 4096) then
        .next (imsicWrite s a (BitVec.ofNat 32 (numOfBytes (bytes.take 4))))
      else .next (pcieAnswer s port false [] false)

/-- PCIE_INBOUND_READ (R447, log 51). -/
def execPcieInboundRead (port addr len : Nat) (s : State) : Result :=
  if contained s port then .next s
  else match iommuAccess s port addr false with
    | (s, none) => .next (pcieAnswer s port false [] false)
    | (s, some a) => match if a < 2 ^ 52 then physRead s a len else none with
      | some (bs, p) => .next (pcieAnswer s port true bs p)
      | none => .next (pcieAnswer s port false [] false)

/-- IOERR: the error is recorded in the port and in the error ring (R446, R454). -/
def execIoerr (port : Nat) (info : Word64) (s : State) : Result := .next (ioError s port info)

/-! ### Device registers (R7, R48) -/

/-- Instance and offset of an address in a block of `n` instances of `size` bytes at `lo`. -/
def inBlock (a lo n size : Nat) : Option (Nat × Nat) :=
  if lo ≤ a && a < lo + n * size then some ((a - lo) / size, (a - lo) % size) else none

/-- A far physical page address, bits [51:12]. -/
def pageField (w : Word64) : Word64 := w &&& 0x000FFFFFFFFFF000#64

/-- A field of the low `n` bits. -/
def lowField (w : Word64) (n : Nat) : Word64 := w &&& BitVec.ofNat 64 (2 ^ n - 1)

/-- A translation block: XINVA, and XINVC without a command (R19, R20). -/
def writeXlate (s : State) (d off : Nat) (w : Word64) : State :=
  let x := s.die d
  match off with
  | 0x0 => s.setDie d { x with xinva := w }
  | 0x8 => if x.inv.isSome || bits w.toNat 0 2 != 0 then s
      else s.setDie d { x with xinvc := w &&& 0x3F0C#64 }
  | _ => s

/-- A link's block: LCTL without a command, and LEVBASE (R184, R185, R195). -/
def writeLink (s : State) (n off : Nat) (w : Word64) : State :=
  let k := s.link n
  match off with
  | 0x00 => if k.busy || (1 ≤ bits w.toNat 0 3 && bits w.toNat 0 3 ≤ 3) then s
      else s.setLink n { k with target := BitVec.ofNat 8 (bits w.toNat 48 8) }
  | 0x20 => s.setLink n { k with levbase := w &&& 0x000FFFFFFFFFFFC0#64 }
  | _ => s

/-- A core's block: PCMD without a command, PSAVE and PDL (R407). -/
def writeCore (s : State) (n off : Nat) (w : Word64) : State :=
  let c := s.core n
  match off with
  | 0x00 => if c.pcmdBusy || bits w.toNat 8 2 != 0 then s else s.setCore n { c with pcmdSlot := w.setWidth 5 }
  | 0x08 => s.setCore n { c with psave := pageField w }
  | 0x18 => s.setCore n { c with pdl := w.setWidth 32 }
  | _ => s

/-- The registers of a job that firmware writes (R15, R403, R437, R452). -/
def writeJob (s : State) (a : Nat) (w : Word64) : State :=
  match inBlock a 0x0010000000210000 64 8, inBlock a 0x0010000000214000 64 8, inBlock a 0x0010000000214400 64 8,
      inBlock a 0x0010000000214600 64 8 with
  | some (j, _), _, _, _ => s.setJob j { s.job j with jctx := w &&& 0x000FFFFFFFFF0001#64 }
  | _, some (j, _), _, _ => s.setJob j { s.job j with jurb := w &&& 0x000FFFFFFFFFF00F#64 }
  | _, _, some (j, _), _ => s.setJob j { s.job j with jrms := w &&& 0x8000000000000FFF#64 }
  | _, _, _, some (j, _) => s.setJob j { s.job j with jscq := w.setWidth 9 }
  | _, _, _, _ => s

/-- A completion queue's block: only CQHEAD from the control cores (R431). CQMSIA keeps bits [1:0] as written (DESIGN
CHOICE, log 114). -/
def writeCq (s : State) (fw : Bool) (c off : Nat) (w : Word64) : State :=
  let q := s.cq c
  let put (q : CompQ) : State := { s with cqs := s.cqs.put c q }
  match off, fw with
  | 0x00, true => put { q with base := pageField w }
  | 0x08, true => put { q with ctl := w &&& 0xFFFFFF0F#64 }
  | 0x10, true => put { q with msia := w }
  | 0x18, true => put { q with msid := w.setWidth 32 }
  | 0x28, _ => put { q with head := w.setWidth 32 }
  | _, _ => s

/-- The registers of the interrupt or error ring: only HEAD from the control cores (R448, R454). ERRMSIA keeps bits [1:0] as
written (DESIGN CHOICE, log 114). -/
def RingRegs.write (r : RingRegs) (fw : Bool) (off : Nat) (w : Word64) : RingRegs :=
  match off, fw with
  | 0x00, true => { r with base := pageField w }
  | 0x08, true => { r with ctl := lowField w 4 }
  | 0x18, _ => { r with head := w.setWidth 32 }
  | 0x20, true => { r with msia := w }
  | 0x28, true => { r with msid := w.setWidth 32 }
  | _, _ => r

/-- A role's block: CIMG, CHOB and CVER (R437). -/
def writeRole (s : State) (r off : Nat) (w : Word64) : State :=
  let x := s.role r
  match off with
  | 0x10 => s.setRole r { x with img := w &&& 0x000FFFFFFFFFFE00#64 }
  | 0x18 => s.setRole r { x with hob := w &&& 0x000FFFFFFFFFFF80#64 }
  | 0x20 => s.setRole r { x with schema := w.setWidth 16 }
  | _ => s

/-- Registers that only the firmware cores write. -/
def writeFirmware (s : State) (a : Nat) (w : Word64) : State :=
  match inBlock a 0x0010000000200000 8192 8, inBlock a 0x0010000000211000 16 8, inBlock a 0x0010000000300000 48 0x100,
      inBlock a 0x0010000000400000 1024 0x40, inBlock a 0x0010000000630000 3 0x40, inBlock a 0x0010000000660000 64 8,
      inBlock a 0x0010000000680000 4096 8 with
  | some (k, _), _, _, _, _, _, _ =>
    { s with extStaged := s.extStaged.put k (if k % 2 == 0 then w &&& 0xFFFFFF01FFFFFFFF#64 else w &&& 0xFF7FFFFFFFFFFFFF#64) }
  | _, some (n, _), _, _, _, _, _ => { s with mrtStaged := s.mrtStaged.put n (w &&& 0xFFFFFFFFFFFFFF01#64) }
  | _, _, some (n, off), _, _, _, _ => writeLink s n off w
  | _, _, _, some (n, off), _, _, _ => writeCore s n off w
  | _, _, _, _, some (r, off), _, _ => writeRole s r off w
  | _, _, _, _, _, some (k, _), _ =>
    { s with kickPend := s.kickPend.filter (fun q => !(q / 64 == k && w.getLsbD (q % 64))) }
  | _, _, _, _, _, _, some (v, _) =>
    { s with irqv := s.irqv.put v (if v % 2 == 0 then w else w &&& 0x80000000FFFFFFFF#64) }
  | _, _, _, _, _, _, _ =>
    if a == 0x00100000006A0008 then { s with ceLimit := w.setWidth 32 }
    else if a == 0x00100000006B0000 then { s with pwrCap := w.setWidth 16 }
    else if a == 0x00100000006B0010 then { s with pwrGate := w.getLsbD 0 }
    else writeJob s a w

/-- The event ring's control block and the registers of capture, which no table marks as firmware's (R434, R441). -/
def writeOpen (s : State) (a : Nat) (w : Word64) : Option State :=
  if a == 0x0010000000610000 then some { s with event := { s.event with base := w &&& 0x000FFFFFFFFFF00F#64 } }
  else if a == 0x0010000000610008 then some { s with event := { s.event with head := (w >>> 32).setWidth 32 } }
  else if a == 0x0010000000640008 then some { s with cap := { s.cap with base := pageField w } }
  else if a == 0x0010000000640010 then some { s with cap := { s.cap with size := w } }
  else none

/-- Registers that the control cores write too. -/
def writeShared (s : State) (fw : Bool) (a : Nat) (w : Word64) : Option State :=
  match inBlock a 0x0010000000100000 4 0x10000, inBlock a 0x0010000000620000 256 0x40,
      inBlock a 0x0010000000670000 1 0x20, inBlock a 0x0010000000690000 1 0x30, inBlock a 0x00100000006D0000 2 0x1000,
      inBlock a 0x0010000001000000 4096 0x80 with
  | some (d, off), _, _, _, _, _ => some (writeXlate s d off w)
  | _, some (c, off), _, _, _, _ => some (writeCq s fw c off w)
  | _, _, some (_, off), _, _, _ => some { s with irqRing := s.irqRing.write fw off w }
  | _, _, _, some (_, off), _, _ => some { s with errRing := s.errRing.write fw off w }
  | _, _, _, _, some (p, off), _ => some (writeIommu s p off w)
  | _, _, _, _, _, some (c, 0x40) =>
    some { s with calls := s.calls.put c { s.calls.look Call.free c with result := w } }
  | _, _, _, _, _, _ => writeOpen s a w

/-- REGISTER_WRITE of 8 bytes from a firmware core or a control core: the field the map gives the register; read-only
and reserved bits stay (R7). A control core's write of a firmware-only or reserved address is an access fault there and
has no effect here (R48). -/
def execRegisterWrite (fw : Bool) (addr : Nat) (w : Word64) (s : State) : Result :=
  if addr % 8 != 0 then .next s
  else match writeShared s fw addr w with
    | some t => .next t
    | none =>
      if imsicPage (addr / 4096) then .next (imsicWrite s addr (w.setWidth 32))
      else if fw then .next (writeFirmware s addr w)
      else .next s

end Sys2Proof.Machine
end

