-- ==== Sys2Proof/Machine/LaneConv.lean ====
section
/-! DEFINITION. Conversions, microscaling and random numbers (R308 to R312, R321). -/

namespace Sys2Proof.Machine
open Sys2Proof

/-- CVT: Lane format conversion with packing and options (R308) -/
def execCvt (w : LaneWord) (s : State) : Result := lanewise 0x40 w s
/-- CVTSR: Lane stochastic-rounding conversion (R309) -/
def execCvtsr (w : LaneWord) (s : State) : Result := lanewise 0x41 w s
/-- MXSCL: Lane choice of a warp block's MX scale (R310) -/
def execMxscl (w : LaneWord) (s : State) : Result := lanewise 0x42 w s
/-- MXQ: Lane quantisation of f32 by an MX scale (R311) -/
def execMxq (w : LaneWord) (s : State) : Result := lanewise 0x43 w s
/-- MXDQ: Lane dequantisation of an MX element to f32 (R312) -/
def execMxdq (w : LaneWord) (s : State) : Result := lanewise 0x44 w s
/-- RNG: Lane Philox4x32-10 random words (R321) -/
def execRng (w : LaneWord) (s : State) : Result := lanewise 0x70 w s

end Sys2Proof.Machine
end

