-- ==== Sys2Proof/Machine/LaneCross.lean ====
section
/-! DEFINITION. Cross-lane instructions (R315 to R320). -/

namespace Sys2Proof.Machine
open Sys2Proof

/-- SHFL: Lane shuffle within a warp (R315) -/
def execShfl (w : LaneWord) (s : State) : Result := lanewise 0x60 w s
/-- VOTE: Team vote ANY, ALL or COUNT (R316) -/
def execVote (w : LaneWord) (s : State) : Result := lanewise 0x61 w s
/-- REDW: Warp reduction (R317) -/
def execRedw (w : LaneWord) (s : State) : Result := lanewise 0x62 w s
/-- REDT: Team reduction (R317) -/
def execRedt (w : LaneWord) (s : State) : Result := lanewise 0x63 w s
/-- SCANW: Warp scan, inclusive or exclusive (R318) -/
def execScanw (w : LaneWord) (s : State) : Result := lanewise 0x64 w s
/-- SCANT: Team scan, inclusive or exclusive (R318) -/
def execScant (w : LaneWord) (s : State) : Result := lanewise 0x65 w s

/-- Bits of the active lanes in a mask, from A (R320). -/
def ksetMask (m : BitVec 1024) (rows : List Row) : BitVec 1024 :=
  rows.foldl (fun m r =>
    let one : BitVec 1024 := (1#1024) <<< r.1
    if r.2.headD 0 != 0 then m ||| one else m &&& ~~~one) m

/-- KSET: Lane write of a predicate bit into a mask (R320); a port element writes its bit when it arrives (R236). -/
def execKset (w : LaneWord) (s : State) : Result :=
  withHead 0x66 w s (fun x =>
    .next (match x.portSrc with
      | some p => passPop s x p x.t (fun _ => true) (fun _ => none)
      | none =>
        let m := w.sub.toNat % 8
        finishPass s x (x.t.setMask m (ksetMask (x.t.mask m) x.rows)) 0))

/-- KGET: Lane read of its bit in a mask (R320). -/
def execKget (w : LaneWord) (s : State) : Result :=
  withHead 0x67 w s (fun x =>
    let bit (l : Nat) : Word32 := if (x.t.mask (w.sub.toNat % 8)).getLsbD l then 1 else 0
    let outs : List (Nat × LaneOut) := x.activeLanes.map (fun l => (l, ⟨[bit l], 0, 0⟩))
    let s := match x.portDst with
      | some p => pushPort s x p outs
      | none => s
    .next (finishPass s x (x.t.deliver 0x67 w (outs.map fullCells) []) 0))

end Sys2Proof.Machine
end

