-- ==== Sys2Proof/Machine/LaneFloat.lean ====
section
/-! DEFINITION. Float, rational and special-function lane instructions (R298 to R307, R313). -/

namespace Sys2Proof.Machine
open Sys2Proof

/-- FADD: Lane floating or q32 addition (R298) -/
def execFadd (w : LaneWord) (s : State) : Result := lanewise 0x20 w s
/-- FSUB: Lane floating or q32 subtraction (R298) -/
def execFsub (w : LaneWord) (s : State) : Result := lanewise 0x21 w s
/-- FMUL: Lane floating or q32 multiplication (R298) -/
def execFmul (w : LaneWord) (s : State) : Result := lanewise 0x22 w s
/-- FFMA: Lane fused multiply-add rounded once (R298) -/
def execFfma (w : LaneWord) (s : State) : Result := lanewise 0x23 w s
/-- FMIN: Lane floating minimum (R299) -/
def execFmin (w : LaneWord) (s : State) : Result := lanewise 0x24 w s
/-- FMAX: Lane floating maximum (R299) -/
def execFmax (w : LaneWord) (s : State) : Result := lanewise 0x25 w s
/-- FABS: Lane sign-bit clear (R301) -/
def execFabs (w : LaneWord) (s : State) : Result := lanewise 0x26 w s
/-- FNEG: Lane sign-bit flip (R301) -/
def execFneg (w : LaneWord) (s : State) : Result := lanewise 0x27 w s
/-- FCMP: Lane floating or q32 compare into condition codes (R301) -/
def execFcmp (w : LaneWord) (s : State) : Result := lanewise 0x28 w s
/-- FDIV: Lane long-class correctly rounded division (R298) -/
def execFdiv (w : LaneWord) (s : State) : Result := lanewise 0x29 w s
/-- FDOT2: Lane two-element 16-bit dot product into f32 (R300) -/
def execFdot2 (w : LaneWord) (s : State) : Result := lanewise 0x2A w s
/-- FDOT4: Lane four-element narrow dot product into f32 (R300) -/
def execFdot4 (w : LaneWord) (s : State) : Result := lanewise 0x2B w s
/-- FRND: Lane round to integral value (R301) -/
def execFrnd (w : LaneWord) (s : State) : Result := lanewise 0x2C w s
/-- FSGN: Lane copy of B's sign onto A (R301) -/
def execFsgn (w : LaneWord) (s : State) : Result := lanewise 0x2D w s
/-- FSAT: Lane clamp to +0 through 1.0 (R301) -/
def execFsat (w : LaneWord) (s : State) : Result := lanewise 0x2E w s
/-- FCLASS: Lane f32 classification bits (R301) -/
def execFclass (w : LaneWord) (s : State) : Result := lanewise 0x2F w s
/-- QNUM: Lane numerator of a q32 value (R304) -/
def execQnum (w : LaneWord) (s : State) : Result := lanewise 0x30 w s
/-- QDEN: Lane denominator of a q32 value (R304) -/
def execQden (w : LaneWord) (s : State) : Result := lanewise 0x31 w s
/-- QMAKE: Lane q32 fraction A over B (R305) -/
def execQmake (w : LaneWord) (s : State) : Result := lanewise 0x32 w s
/-- QLIM: Lane rounding of a q32 value to a denominator limit (R306) -/
def execQlim (w : LaneWord) (s : State) : Result := lanewise 0x33 w s
/-- QMED: Lane mediant of two q32 values (R307) -/
def execQmed (w : LaneWord) (s : State) : Result := lanewise 0x34 w s
/-- EXP2: Lane base-2 exponential (R313) -/
def execExp2 (w : LaneWord) (s : State) : Result := lanewise 0x50 w s
/-- LOG2: Lane base-2 logarithm (R313) -/
def execLog2 (w : LaneWord) (s : State) : Result := lanewise 0x51 w s
/-- RCP: Lane reciprocal (R313) -/
def execRcp (w : LaneWord) (s : State) : Result := lanewise 0x52 w s
/-- RSQ: Lane reciprocal square root (R313) -/
def execRsq (w : LaneWord) (s : State) : Result := lanewise 0x53 w s
/-- SQRT: Lane square root (R313) -/
def execSqrt (w : LaneWord) (s : State) : Result := lanewise 0x54 w s
/-- SINPI: Lane sine of pi times A (R313) -/
def execSinpi (w : LaneWord) (s : State) : Result := lanewise 0x55 w s
/-- COSPI: Lane cosine of pi times A (R313) -/
def execCospi (w : LaneWord) (s : State) : Result := lanewise 0x56 w s
/-- TANH: Lane hyperbolic tangent (R313) -/
def execTanh (w : LaneWord) (s : State) : Result := lanewise 0x57 w s

end Sys2Proof.Machine
end

