-- ==== Sys2Proof/Machine/LaneInt.lean ====
section
/-! DEFINITION. Integer lane instructions (R296, R297); what each computes stands in LaneFns. -/

namespace Sys2Proof.Machine
open Sys2Proof

/-- MOV: Lane move of the 32 bits of A (R296) -/
def execMov (w : LaneWord) (s : State) : Result := lanewise 0x00 w s
/-- IADD: Lane integer add, wrapping or saturating (R296) -/
def execIadd (w : LaneWord) (s : State) : Result := lanewise 0x01 w s
/-- ISUB: Lane integer subtract, wrapping or saturating (R296) -/
def execIsub (w : LaneWord) (s : State) : Result := lanewise 0x02 w s
/-- IADC: Lane add with carry from a condition register (R296) -/
def execIadc (w : LaneWord) (s : State) : Result := lanewise 0x03 w s
/-- ISBB: Lane subtract with borrow from a condition register (R296) -/
def execIsbb (w : LaneWord) (s : State) : Result := lanewise 0x04 w s
/-- IMUL: Lane low-half integer multiply (R296) -/
def execImul (w : LaneWord) (s : State) : Result := lanewise 0x05 w s
/-- IMULH: Lane high 32 bits of the product (R296) -/
def execImulh (w : LaneWord) (s : State) : Result := lanewise 0x06 w s
/-- IMAD: Lane low 32 bits of A times B plus C (R296) -/
def execImad (w : LaneWord) (s : State) : Result := lanewise 0x07 w s
/-- IMIN: Lane integer minimum (R296) -/
def execImin (w : LaneWord) (s : State) : Result := lanewise 0x08 w s
/-- IMAX: Lane integer maximum (R296) -/
def execImax (w : LaneWord) (s : State) : Result := lanewise 0x09 w s
/-- IABS: Lane integer absolute value (R296) -/
def execIabs (w : LaneWord) (s : State) : Result := lanewise 0x0A w s
/-- INEG: Lane integer negation (R296) -/
def execIneg (w : LaneWord) (s : State) : Result := lanewise 0x0B w s
/-- AND_LANE: Lane bitwise AND (R296) -/
def execAndLane (w : LaneWord) (s : State) : Result := lanewise 0x0C w s
/-- OR_LANE: Lane bitwise OR (R296) -/
def execOrLane (w : LaneWord) (s : State) : Result := lanewise 0x0D w s
/-- XOR_LANE: Lane bitwise XOR (R296) -/
def execXorLane (w : LaneWord) (s : State) : Result := lanewise 0x0E w s
/-- ANDN_LANE: Lane A AND NOT B (R296) -/
def execAndnLane (w : LaneWord) (s : State) : Result := lanewise 0x0F w s
/-- NOT: Lane bitwise NOT (R296) -/
def execNot (w : LaneWord) (s : State) : Result := lanewise 0x10 w s
/-- SHL: Lane left shift (R296) -/
def execShl (w : LaneWord) (s : State) : Result := lanewise 0x11 w s
/-- SHR: Lane logical right shift (R296) -/
def execShr (w : LaneWord) (s : State) : Result := lanewise 0x12 w s
/-- SAR: Lane arithmetic right shift (R296) -/
def execSar (w : LaneWord) (s : State) : Result := lanewise 0x13 w s
/-- ROTL: Lane rotate left (R296) -/
def execRotl (w : LaneWord) (s : State) : Result := lanewise 0x14 w s
/-- CLZ_LANE: Lane count of leading zeros (R296) -/
def execClzLane (w : LaneWord) (s : State) : Result := lanewise 0x15 w s
/-- POPC_LANE: Lane count of one bits (R296) -/
def execPopcLane (w : LaneWord) (s : State) : Result := lanewise 0x16 w s
/-- BREV: Lane bit reversal (R296) -/
def execBrev (w : LaneWord) (s : State) : Result := lanewise 0x17 w s
/-- BFX: Lane bit-field extract (R296) -/
def execBfx (w : LaneWord) (s : State) : Result := lanewise 0x18 w s
/-- BFI: Lane bit-field insert (R296) -/
def execBfi (w : LaneWord) (s : State) : Result := lanewise 0x19 w s
/-- PERM: Lane byte permute of B:A (R296) -/
def execPerm (w : LaneWord) (s : State) : Result := lanewise 0x1A w s
/-- ICMP: Lane integer compare writing condition codes (R293) -/
def execIcmp (w : LaneWord) (s : State) : Result := lanewise 0x1B w s
/-- SEL: Lane select of A or B on a condition (R296) -/
def execSel (w : LaneWord) (s : State) : Result := lanewise 0x1C w s
/-- IDOT4: Lane four-element 8-bit dot product plus C (R296) -/
def execIdot4 (w : LaneWord) (s : State) : Result := lanewise 0x1D w s
/-- IDIV: Lane long-class integer division (R297) -/
def execIdiv (w : LaneWord) (s : State) : Result := lanewise 0x1E w s
/-- IREM: Lane long-class integer remainder (R297) -/
def execIrem (w : LaneWord) (s : State) : Result := lanewise 0x1F w s

end Sys2Proof.Machine
end

