-- ==== Sys2Proof/Machine/Dispatch.lean ====
section
/-! DEFINITION. Which meaning each instruction calls: one arm per constructor of Instr. -/

namespace Sys2Proof.Machine
open Sys2Proof

def exec (i : Instr) (s : State) : Host.Outcome State Fault Refusal :=
  match i with
  | .add d a b => Sys2Proof.Machine.execAdd d a b s
  | .sub d a b => Sys2Proof.Machine.execSub d a b s
  | .and d a b => Sys2Proof.Machine.execAnd d a b s
  | .or d a b => Sys2Proof.Machine.execOr d a b s
  | .xor d a b => Sys2Proof.Machine.execXor d a b s
  | .andn d a b => Sys2Proof.Machine.execAndn d a b s
  | .sll d a b => Sys2Proof.Machine.execSll d a b s
  | .srl d a b => Sys2Proof.Machine.execSrl d a b s
  | .sra d a b => Sys2Proof.Machine.execSra d a b s
  | .mul d a b => Sys2Proof.Machine.execMul d a b s
  | .mulhs d a b => Sys2Proof.Machine.execMulhs d a b s
  | .mulhn d a b => Sys2Proof.Machine.execMulhn d a b s
  | .div d a b => Sys2Proof.Machine.execDiv d a b s
  | .divn d a b => Sys2Proof.Machine.execDivn d a b s
  | .rem d a b => Sys2Proof.Machine.execRem d a b s
  | .remn d a b => Sys2Proof.Machine.execRemn d a b s
  | .min d a b => Sys2Proof.Machine.execMin d a b s
  | .max d a b => Sys2Proof.Machine.execMax d a b s
  | .minn d a b => Sys2Proof.Machine.execMinn d a b s
  | .maxn d a b => Sys2Proof.Machine.execMaxn d a b s
  | .slt d a b => Sys2Proof.Machine.execSlt d a b s
  | .sltn d a b => Sys2Proof.Machine.execSltn d a b s
  | .clz d a => Sys2Proof.Machine.execClz d a s
  | .ctz d a => Sys2Proof.Machine.execCtz d a s
  | .popc d a => Sys2Proof.Machine.execPopc d a s
  | .seq d a b => Sys2Proof.Machine.execSeq d a b s
  | .addi d a im => Sys2Proof.Machine.execAddi d a im s
  | .andi d a im => Sys2Proof.Machine.execAndi d a im s
  | .ori d a im => Sys2Proof.Machine.execOri d a im s
  | .xori d a im => Sys2Proof.Machine.execXori d a im s
  | .slli d a n => Sys2Proof.Machine.execSlli d a n s
  | .srli d a n => Sys2Proof.Machine.execSrli d a n s
  | .srai d a n => Sys2Proof.Machine.execSrai d a n s
  | .ghi d im => Sys2Proof.Machine.execGhi d im s
  | .gsh d a im => Sys2Proof.Machine.execGsh d a im s
  | .slti d a im => Sys2Proof.Machine.execSlti d a im s
  | .sltin d a im => Sys2Proof.Machine.execSltin d a im s
  | .beq a b o => Sys2Proof.Machine.execBeq a b o s
  | .bne a b o => Sys2Proof.Machine.execBne a b o s
  | .blt a b o => Sys2Proof.Machine.execBlt a b o s
  | .bge a b o => Sys2Proof.Machine.execBge a b o s
  | .bltn a b o => Sys2Proof.Machine.execBltn a b o s
  | .bgen a b o => Sys2Proof.Machine.execBgen a b o s
  | .jal o => Sys2Proof.Machine.execJal o s
  | .jalr a im => Sys2Proof.Machine.execJalr a im s
  | .bkAny k o => Sys2Proof.Machine.execBkAny k o s
  | .bkNone k o => Sys2Proof.Machine.execBkNone k o s
  | .bkAll k o => Sys2Proof.Machine.execBkAll k o s
  | .vrun n => Sys2Proof.Machine.execVrun n s
  | .vjmp a im => Sys2Proof.Machine.execVjmp a im s
  | .vsync => Sys2Proof.Machine.execVsync s
  | .kand d a b => Sys2Proof.Machine.execKand d a b s
  | .kor d a b => Sys2Proof.Machine.execKor d a b s
  | .kxor d a b => Sys2Proof.Machine.execKxor d a b s
  | .kandn d a b => Sys2Proof.Machine.execKandn d a b s
  | .knot d a => Sys2Proof.Machine.execKnot d a s
  | .kmov d a => Sys2Proof.Machine.execKmov d a s
  | .kall d => Sys2Proof.Machine.execKall d s
  | .kclr d => Sys2Proof.Machine.execKclr d s
  | .kcnt d k => Sys2Proof.Machine.execKcnt d k s
  | .kfst d k => Sys2Proof.Machine.execKfst d k s
  | .krdw d a k => Sys2Proof.Machine.execKrdw d a k s
  | .kwrw a b k => Sys2Proof.Machine.execKwrw a b k s
  | .gld d a x im => Sys2Proof.Machine.execGld d a x im s
  | .gst d a x im => Sys2Proof.Machine.execGst d a x im s
  | .gatm d a b c r o => Sys2Proof.Machine.execGatm d a b c r o s
  | .fpost d a b x q => Sys2Proof.Machine.execFpost d a b x q s
  | .wpost a b x l => Sys2Proof.Machine.execWpost a b x l s
  | .cpy a b c x l q => Sys2Proof.Machine.execCpy a b c x l q s
  | .ratm d a b c l z o => Sys2Proof.Machine.execRatm d a b c l z o s
  | .csrRd d n => Sys2Proof.Machine.execCsrRd d n s
  | .csrWr d a n => Sys2Proof.Machine.execCsrWr d a n s
  | .csrSet d a n => Sys2Proof.Machine.execCsrSet d a n s
  | .csrClr d a n => Sys2Proof.Machine.execCsrClr d a n s
  | .sfqRead d => Sys2Proof.Machine.execSfqRead d s
  | .trapResume => Sys2Proof.Machine.execTrapResume s
  | .sysc im => Sys2Proof.Machine.execSysc im s
  | .yield l w => Sys2Proof.Machine.execYield l w s
  | .exit x => Sys2Proof.Machine.execExit x s
  | .trap im => Sys2Proof.Machine.execTrap im s
  | .irq a v => Sys2Proof.Machine.execIrq a v s
  | .lvlRd d l => Sys2Proof.Machine.execLvlRd d l s
  | .lvlCancel d l => Sys2Proof.Machine.execLvlCancel d l s
  | .fence k x => Sys2Proof.Machine.execFence k x s
  | .drain => Sys2Proof.Machine.execDrain s
  | .time d => Sys2Proof.Machine.execTime d s
  | .barArrive a => Sys2Proof.Machine.execBarArrive a s
  | .barWait a => Sys2Proof.Machine.execBarWait a s
  | .barArrwait a => Sys2Proof.Machine.execBarArrwait a s
  | .barInit a b => Sys2Proof.Machine.execBarInit a b s
  | .barQuery d a => Sys2Proof.Machine.execBarQuery d a s
  | .tagWall a => Sys2Proof.Machine.execTagWall a s
  | .tagWany d a => Sys2Proof.Machine.execTagWany d a s
  | .tagFfr d a => Sys2Proof.Machine.execTagFfr d a s
  | .tagClr a => Sys2Proof.Machine.execTagClr a s
  | .tagRead d a => Sys2Proof.Machine.execTagRead d a s
  | .winCfg a b => Sys2Proof.Machine.execWinCfg a b s
  | .winRel a b => Sys2Proof.Machine.execWinRel a b s
  | .winQry d a => Sys2Proof.Machine.execWinQry d a s
  | .winWaita a => Sys2Proof.Machine.execWinWaita a s
  | .tidBinds a b => Sys2Proof.Machine.execTidBinds a b s
  | .tidBindf a b => Sys2Proof.Machine.execTidBindf a b s
  | .tidInv a => Sys2Proof.Machine.execTidInv a s
  | .tidQry d a => Sys2Proof.Machine.execTidQry d a s
  | .mxMul a b c => Sys2Proof.Machine.execMxMul a b c s
  | .mxZero a => Sys2Proof.Machine.execMxZero a s
  | .mxDrain a => Sys2Proof.Machine.execMxDrain a s
  | .mxStore a b c => Sys2Proof.Machine.execMxStore a b c s
  | .mxAlloc d => Sys2Proof.Machine.execMxAlloc d s
  | .mxFree a => Sys2Proof.Machine.execMxFree a s
  | .mxWait a => Sys2Proof.Machine.execMxWait a s
  | .mxCfg a => Sys2Proof.Machine.execMxCfg a s
  | .mred a => Sys2Proof.Machine.execMred a s
  | .mfill a => Sys2Proof.Machine.execMfill a s
  | .mov w => Sys2Proof.Machine.execMov w s
  | .iadd w => Sys2Proof.Machine.execIadd w s
  | .isub w => Sys2Proof.Machine.execIsub w s
  | .iadc w => Sys2Proof.Machine.execIadc w s
  | .isbb w => Sys2Proof.Machine.execIsbb w s
  | .imul w => Sys2Proof.Machine.execImul w s
  | .imulh w => Sys2Proof.Machine.execImulh w s
  | .imad w => Sys2Proof.Machine.execImad w s
  | .imin w => Sys2Proof.Machine.execImin w s
  | .imax w => Sys2Proof.Machine.execImax w s
  | .iabs w => Sys2Proof.Machine.execIabs w s
  | .ineg w => Sys2Proof.Machine.execIneg w s
  | .andLane w => Sys2Proof.Machine.execAndLane w s
  | .orLane w => Sys2Proof.Machine.execOrLane w s
  | .xorLane w => Sys2Proof.Machine.execXorLane w s
  | .andnLane w => Sys2Proof.Machine.execAndnLane w s
  | .not w => Sys2Proof.Machine.execNot w s
  | .shl w => Sys2Proof.Machine.execShl w s
  | .shr w => Sys2Proof.Machine.execShr w s
  | .sar w => Sys2Proof.Machine.execSar w s
  | .rotl w => Sys2Proof.Machine.execRotl w s
  | .clzLane w => Sys2Proof.Machine.execClzLane w s
  | .popcLane w => Sys2Proof.Machine.execPopcLane w s
  | .brev w => Sys2Proof.Machine.execBrev w s
  | .bfx w => Sys2Proof.Machine.execBfx w s
  | .bfi w => Sys2Proof.Machine.execBfi w s
  | .perm w => Sys2Proof.Machine.execPerm w s
  | .icmp w => Sys2Proof.Machine.execIcmp w s
  | .sel w => Sys2Proof.Machine.execSel w s
  | .idot4 w => Sys2Proof.Machine.execIdot4 w s
  | .idiv w => Sys2Proof.Machine.execIdiv w s
  | .irem w => Sys2Proof.Machine.execIrem w s
  | .fadd w => Sys2Proof.Machine.execFadd w s
  | .fsub w => Sys2Proof.Machine.execFsub w s
  | .fmul w => Sys2Proof.Machine.execFmul w s
  | .ffma w => Sys2Proof.Machine.execFfma w s
  | .fmin w => Sys2Proof.Machine.execFmin w s
  | .fmax w => Sys2Proof.Machine.execFmax w s
  | .fabs w => Sys2Proof.Machine.execFabs w s
  | .fneg w => Sys2Proof.Machine.execFneg w s
  | .fcmp w => Sys2Proof.Machine.execFcmp w s
  | .fdiv w => Sys2Proof.Machine.execFdiv w s
  | .fdot2 w => Sys2Proof.Machine.execFdot2 w s
  | .fdot4 w => Sys2Proof.Machine.execFdot4 w s
  | .frnd w => Sys2Proof.Machine.execFrnd w s
  | .fsgn w => Sys2Proof.Machine.execFsgn w s
  | .fsat w => Sys2Proof.Machine.execFsat w s
  | .fclass w => Sys2Proof.Machine.execFclass w s
  | .qnum w => Sys2Proof.Machine.execQnum w s
  | .qden w => Sys2Proof.Machine.execQden w s
  | .qmake w => Sys2Proof.Machine.execQmake w s
  | .qlim w => Sys2Proof.Machine.execQlim w s
  | .qmed w => Sys2Proof.Machine.execQmed w s
  | .cvt w => Sys2Proof.Machine.execCvt w s
  | .cvtsr w => Sys2Proof.Machine.execCvtsr w s
  | .mxscl w => Sys2Proof.Machine.execMxscl w s
  | .mxq w => Sys2Proof.Machine.execMxq w s
  | .mxdq w => Sys2Proof.Machine.execMxdq w s
  | .exp2 w => Sys2Proof.Machine.execExp2 w s
  | .log2 w => Sys2Proof.Machine.execLog2 w s
  | .rcp w => Sys2Proof.Machine.execRcp w s
  | .rsq w => Sys2Proof.Machine.execRsq w s
  | .sqrt w => Sys2Proof.Machine.execSqrt w s
  | .sinpi w => Sys2Proof.Machine.execSinpi w s
  | .cospi w => Sys2Proof.Machine.execCospi w s
  | .tanh w => Sys2Proof.Machine.execTanh w s
  | .shfl w => Sys2Proof.Machine.execShfl w s
  | .vote w => Sys2Proof.Machine.execVote w s
  | .redw w => Sys2Proof.Machine.execRedw w s
  | .redt w => Sys2Proof.Machine.execRedt w s
  | .scanw w => Sys2Proof.Machine.execScanw w s
  | .scant w => Sys2Proof.Machine.execScant w s
  | .kset w => Sys2Proof.Machine.execKset w s
  | .kget w => Sys2Proof.Machine.execKget w s
  | .rng w => Sys2Proof.Machine.execRng w s
  | .lds w => Sys2Proof.Machine.execLds w s
  | .sts w => Sys2Proof.Machine.execSts w s
  | .atoms w => Sys2Proof.Machine.execAtoms w s
  | .ldg w => Sys2Proof.Machine.execLdg w s
  | .stg w => Sys2Proof.Machine.execStg w s
  | .atomg w => Sys2Proof.Machine.execAtomg w s
  | .rfetch d x => Sys2Proof.Machine.execRfetch d x s
  | .fwBfx d x t => Sys2Proof.Machine.execFwBfx d x t s
  | .swait d x t => Sys2Proof.Machine.execSwait d x t s
  | .disp x t => Sys2Proof.Machine.execDisp x t s
  | .qmap x t => Sys2Proof.Machine.execQmap x t s
  | .qunmap d x => Sys2Proof.Machine.execQunmap d x s
  | .longResultArrival core slot id => Sys2Proof.Machine.execLongResultArrival core slot id s
  | .gangAccessAtTarget id => Sys2Proof.Machine.execGangAccessAtTarget id s
  | .gangBarrierArrival id => Sys2Proof.Machine.execGangBarrierArrival id s
  | .trapEntry a => Sys2Proof.Machine.execTrapEntry a s
  | .timer a => Sys2Proof.Machine.execTimer a s
  | .ageingCapDemote core slot => Sys2Proof.Machine.execAgeingCapDemote core slot s
  | .codeCacheFill id => Sys2Proof.Machine.execCodeCacheFill id s
  | .pageTableWalk id => Sys2Proof.Machine.execPageTableWalk id s
  | .requestTranslate id => Sys2Proof.Machine.execRequestTranslate id s
  | .invalidateJob die job size => Sys2Proof.Machine.execInvalidateJob die job size s
  | .invalidateAddress die job size => Sys2Proof.Machine.execInvalidateAddress die job size s
  | .invalidateAll die job size => Sys2Proof.Machine.execInvalidateAll die job size s
  | .invalidationDone die => Sys2Proof.Machine.execInvalidationDone die s
  | .replay die job => Sys2Proof.Machine.execReplay die job s
  | .faultBufferConsume die w => Sys2Proof.Machine.execFaultBufferConsume die w s
  | .extcommit => Sys2Proof.Machine.execExtcommit s
  | .extcommitDone => Sys2Proof.Machine.execExtcommitDone s
  | .codeInvalidate => Sys2Proof.Machine.execCodeInvalidate s
  | .landing id => Sys2Proof.Machine.execLanding id s
  | .fpostArm core slot => Sys2Proof.Machine.execFpostArm core slot s
  | .writeAckReceive id => Sys2Proof.Machine.execWriteAckReceive id s
  | .readRequest id => Sys2Proof.Machine.execReadRequest id s
  | .writePacket id => Sys2Proof.Machine.execWritePacket id s
  | .atomicRequest id => Sys2Proof.Machine.execAtomicRequest id s
  | .chainHop id => Sys2Proof.Machine.execChainHop id s
  | .chainCompletion id => Sys2Proof.Machine.execChainCompletion id s
  | .moduleRevoke module mext => Sys2Proof.Machine.execModuleRevoke module mext s
  | .moduleFatalError module => Sys2Proof.Machine.execModuleFatalError module s
  | .copyCommandIssue id => Sys2Proof.Machine.execCopyCommandIssue id s
  | .packetSend link dir id => Sys2Proof.Machine.execPacketSend link dir id s
  | .dataFlitReceive link dir noise => Sys2Proof.Machine.execDataFlitReceive link dir noise s
  | .idleFlitReceive link dir noise => Sys2Proof.Machine.execIdleFlitReceive link dir noise s
  | .nakReceive link dir noise => Sys2Proof.Machine.execNakReceive link dir noise s
  | .nakTimeout link dir => Sys2Proof.Machine.execNakTimeout link dir s
  | .telemetrySend link dir readings => Sys2Proof.Machine.execTelemetrySend link dir readings s
  | .telemetryReceive link dir noise => Sys2Proof.Machine.execTelemetryReceive link dir noise s
  | .auditSend link dir => Sys2Proof.Machine.execAuditSend link dir s
  | .auditReceive link dir noise => Sys2Proof.Machine.execAuditReceive link dir noise s
  | .mapFlitReceive link dir noise => Sys2Proof.Machine.execMapFlitReceive link dir noise s
  | .wavelengthLoss link lane => Sys2Proof.Machine.execWavelengthLoss link lane s
  | .inactiveLaneLoss link lane => Sys2Proof.Machine.execInactiveLaneLoss link lane s
  | .spareIn link lane => Sys2Proof.Machine.execSpareIn link lane s
  | .fullRetrain link => Sys2Proof.Machine.execFullRetrain link s
  | .retrainComplete link healthy => Sys2Proof.Machine.execRetrainComplete link healthy s
  | .tune link module => Sys2Proof.Machine.execTune link module s
  | .tuneComplete link healthy => Sys2Proof.Machine.execTuneComplete link healthy s
  | .lctlRetrain link module => Sys2Proof.Machine.execLctlRetrain link module s
  | .takeDown link module => Sys2Proof.Machine.execTakeDown link module s
  | .ltestWrite link w => Sys2Proof.Machine.execLtestWrite link w s
  | .linkWidthHalve link => Sys2Proof.Machine.execLinkWidthHalve link s
  | .linkWidthDouble link => Sys2Proof.Machine.execLinkWidthDouble link s
  | .wideningLit link => Sys2Proof.Machine.execWideningLit link s
  | .zeroFillDone unit => Sys2Proof.Machine.execZeroFillDone unit s
  | .bankZeroed cluster bank => Sys2Proof.Machine.execBankZeroed cluster bank s
  | .mxMulLine cluster => Sys2Proof.Machine.execMxMulLine cluster s
  | .mxMulRetire cluster => Sys2Proof.Machine.execMxMulRetire cluster s
  | .mxZeroExecute cluster => Sys2Proof.Machine.execMxZeroExecute cluster s
  | .mxDrainPush cluster n => Sys2Proof.Machine.execMxDrainPush cluster n s
  | .mxStoreExecute cluster => Sys2Proof.Machine.execMxStoreExecute cluster s
  | .matrixProgramResident id => Sys2Proof.Machine.execMatrixProgramResident id s
  | .bundleTake slot => Sys2Proof.Machine.execBundleTake slot s
  | .slotTick skews => Sys2Proof.Machine.execSlotTick skews s
  | .bundleComplete launch => Sys2Proof.Machine.execBundleComplete launch s
  | .unitDispatch die => Sys2Proof.Machine.execUnitDispatch die s
  | .gangPlace die => Sys2Proof.Machine.execGangPlace die s
  | .unitResident core => Sys2Proof.Machine.execUnitResident core s
  | .steal core => Sys2Proof.Machine.execSteal core s
  | .stealReply core => Sys2Proof.Machine.execStealReply core s
  | .stealRetry core => Sys2Proof.Machine.execStealRetry core s
  | .pcmdRequest core slot => Sys2Proof.Machine.execPcmdRequest core slot s
  | .pcmdForce core slot => Sys2Proof.Machine.execPcmdForce core slot s
  | .pcmdResume core slot => Sys2Proof.Machine.execPcmdResume core slot s
  | .preemptDeadline unit => Sys2Proof.Machine.execPreemptDeadline unit s
  | .darningCopyDone die entry => Sys2Proof.Machine.execDarningCopyDone die entry s
  | .resumeLoadDone die entry => Sys2Proof.Machine.execResumeLoadDone die entry s
  | .qkickWrite q w => Sys2Proof.Machine.execQkickWrite q w s
  | .signalUpdate sig op value => Sys2Proof.Machine.execSignalUpdate sig op value s
  | .cpriAgeing slot => Sys2Proof.Machine.execCpriAgeing slot s
  | .cqCoalesceTimeout cq => Sys2Proof.Machine.execCqCoalesceTimeout cq s
  | .castlingStart role => Sys2Proof.Machine.execCastlingStart role s
  | .handOverWritten role => Sys2Proof.Machine.execHandOverWritten role s
  | .castlingVerifyDone role => Sys2Proof.Machine.execCastlingVerifyDone role s
  | .hbeat role => Sys2Proof.Machine.execHbeat role s
  | .probationTimeout role => Sys2Proof.Machine.execProbationTimeout role s
  | .probationEnd role => Sys2Proof.Machine.execProbationEnd role s
  | .captureOff => Sys2Proof.Machine.execCaptureOff s
  | .capture => Sys2Proof.Machine.execCapture s
  | .replayMode => Sys2Proof.Machine.execReplayMode s
  | .irqMessageMove => Sys2Proof.Machine.execIrqMessageMove s
  | .answer ctag w => Sys2Proof.Machine.execAnswer ctag w s
  | .cecntWrite core => Sys2Proof.Machine.execCecntWrite core s
  | .governorSettle => Sys2Proof.Machine.execGovernorSettle s
  | .pcieInboundWrite port addr bytes poison => Sys2Proof.Machine.execPcieInboundWrite port addr bytes poison s
  | .pcieInboundRead port addr len => Sys2Proof.Machine.execPcieInboundRead port addr len s
  | .packageReset => Sys2Proof.Machine.execPackageReset s
  | .registerWrite fw addr w => Sys2Proof.Machine.execRegisterWrite fw addr w s
  | .readResponse id => Sys2Proof.Machine.execReadResponse id s
  | .ioerr port info => Sys2Proof.Machine.execIoerr port info s

end Sys2Proof.Machine
end

