-- ==== Sys2Proof/Machine/Riscv.lean ====
section
/-! DEFINITION. The base instructions of the firmware harts, RV64IMAC in machine mode (R1, R262): the manual names that
architecture and describes none of it, so all of this file is PRESUMED from the RISC-V specifications (log 101). -/

namespace Sys2Proof.Machine
open Sys2Proof

/-! ### Fields -/

/-- The immediates of the I, S, B, U and J forms. -/
def immI (w : Nat) : Word64 := (BitVec.ofNat 12 (bits w 20 12)).signExtend 64
def immS (w : Nat) : Word64 := (BitVec.ofNat 12 (bits w 25 7 * 32 + bits w 7 5)).signExtend 64
def immB (w : Nat) : Word64 :=
  (BitVec.ofNat 13 (bits w 31 1 * 4096 + bits w 7 1 * 2048 + bits w 25 6 * 32 + bits w 8 4 * 2)).signExtend 64
def immU (w : Nat) : Word64 := (BitVec.ofNat 32 (bits w 12 20 * 4096)).signExtend 64
def immJ (w : Nat) : Word64 :=
  (BitVec.ofNat 21 (bits w 31 1 * 2 ^ 20 + bits w 12 8 * 4096 + bits w 20 1 * 2048 + bits w 21 10 * 2)).signExtend 64

/-- The low 32 bits of a word, sign-extended. -/
def sext32 (v : Word64) : Word64 := (v.setWidth 32 : BitVec 32).signExtend 64

/-! ### Arithmetic -/

/-- OP and OP-IMM: funct3, whether bit 30 selects SUB or SRA, and the operands. -/
def rvAlu (f : Nat) (alt : Bool) (a b : Word64) : Word64 :=
  match f with
  | 0 => if alt then a - b else a + b
  | 1 => a <<< (b.toNat % 64)
  | 2 => if a.slt b then 1 else 0
  | 3 => if a.ult b then 1 else 0
  | 4 => a ^^^ b
  | 5 => if alt then a.sshiftRight (b.toNat % 64) else a >>> (b.toNat % 64)
  | 6 => a ||| b
  | _ => a &&& b

/-- OP-32 and OP-IMM-32; none for the funct3 codes they do not have. -/
def rvAlu32 (f : Nat) (alt : Bool) (a b : Word64) : Option Word64 :=
  let x : BitVec 32 := a.setWidth 32
  let n := b.toNat % 32
  match f with
  | 0 => some (sext32 (if alt then a - b else a + b))
  | 1 => some ((x <<< n).signExtend 64)
  | 5 => some ((if alt then x.sshiftRight n else x >>> n).signExtend 64)
  | _ => none

/-- Signed division rounds toward zero; by zero it gives all ones, and the remainder is the dividend. -/
def rvDiv (n : Nat) (a b : BitVec n) : BitVec n := if b = 0 then BitVec.allOnes n else a.sdiv b
def rvRem (n : Nat) (a b : BitVec n) : BitVec n := if b = 0 then a else a.srem b
def rvDivu (n : Nat) (a b : BitVec n) : BitVec n := if b = 0 then BitVec.allOnes n else a / b
def rvRemu (n : Nat) (a b : BitVec n) : BitVec n := if b = 0 then a else a % b

/-- The M extension. -/
def rvMul (f : Nat) (a b : Word64) : Word64 :=
  match f with
  | 0 => a * b
  | 1 => BitVec.ofInt 64 (a.toInt * b.toInt / 2 ^ 64)
  | 2 => BitVec.ofInt 64 (a.toInt * (b.toNat : Int) / 2 ^ 64)
  | 3 => BitVec.ofNat 64 (a.toNat * b.toNat / 2 ^ 64)
  | 4 => rvDiv 64 a b
  | 5 => rvDivu 64 a b
  | 6 => rvRem 64 a b
  | _ => rvRemu 64 a b

/-- The W forms of the M extension. -/
def rvMul32 (f : Nat) (a b : Word64) : Option Word64 :=
  let x : BitVec 32 := a.setWidth 32
  let y : BitVec 32 := b.setWidth 32
  match f with
  | 0 => some ((x * y).signExtend 64)
  | 4 => some ((rvDiv 32 x y).signExtend 64)
  | 5 => some ((rvDivu 32 x y).signExtend 64)
  | 6 => some ((rvRem 32 x y).signExtend 64)
  | 7 => some ((rvRemu 32 x y).signExtend 64)
  | _ => none

/-- Whether a branch is taken. -/
def rvBranch (f : Nat) (a b : Word64) : Option Bool :=
  match f with
  | 0 => some (a == b)
  | 1 => some (a != b)
  | 4 => some (a.slt b)
  | 5 => some (!a.slt b)
  | 6 => some (a.ult b)
  | 7 => some (!a.ult b)
  | _ => none

/-- The new value of an AMO on `n` bytes. -/
def amoValue (op : AmoOp) (n : Nat) (old v : Nat) : Nat :=
  let x : BitVec (8 * n) := BitVec.ofNat _ old
  let y : BitVec (8 * n) := BitVec.ofNat _ v
  (match op with
   | .swap => y
   | .add => x + y
   | .xor => x ^^^ y
   | .and => x &&& y
   | .or => x ||| y
   | .min => if x.slt y then x else y
   | .max => if x.slt y then y else x
   | .minu => if x.ult y then x else y
   | .maxu => if x.ult y then y else x).toNat

def amoOf (funct5 : Nat) : Option AmoOp :=
  match funct5 with
  | 1 => some .swap
  | 0 => some .add
  | 4 => some .xor
  | 12 => some .and
  | 8 => some .or
  | 16 => some .min
  | 20 => some .max
  | 24 => some .minu
  | 28 => some .maxu
  | _ => none

/-! ### Control and status registers -/

/-- The firmware external interrupt that waits reads as mip.MEIP. -/
def mipOf (s : State) (h : Nat) : Word64 := if s.fwIrq.look 0 h == 0 then 0 else 0x800

/-- A CSR as a hart reads it; none for one it does not have. Counters of cycles and instructions are free values. -/
def csrRead (s : State) (h : Nat) (x : Hart) (n : Nat) : Option (Word64 × State) :=
  match n with
  | 0x300 => some (x.mstatus ||| 0x1800, s)
  | 0x301 => some (0x8000000000001105, s)
  | 0x304 => some (x.mie, s)
  | 0x305 => some (x.mtvec, s)
  | 0x340 => some (x.mscratch, s)
  | 0x341 => some (x.mepc, s)
  | 0x342 => some (x.mcause, s)
  | 0x343 => some (x.mtval, s)
  | 0x344 => some (mipOf s h, s)
  | 0xF11 | 0xF12 | 0xF13 | 0xF15 => some (0, s)
  | 0xF14 => some (BitVec.ofNat 64 h, s)
  | 0xC01 => some (BitVec.ofNat 64 s.now, s)
  | 0xB00 | 0xB02 | 0xC00 | 0xC02 => some (freeValue s)
  | _ => none

/-- A write of a CSR; none for one that is read-only or absent. -/
def csrWrite (x : Hart) (n : Nat) (v : Word64) : Option Hart :=
  match n with
  | 0x300 => some { x with mstatus := v &&& 0x88#64 }
  | 0x301 | 0x344 | 0xB00 | 0xB02 => some x
  | 0x304 => some { x with mie := v &&& 0x888#64 }
  | 0x305 => some { x with mtvec := v &&& ~~~2#64 }
  | 0x340 => some { x with mscratch := v }
  | 0x341 => some { x with mepc := v &&& ~~~1#64 }
  | 0x342 => some { x with mcause := v }
  | 0x343 => some { x with mtval := v }
  | _ => none

/-! ### What an instruction does -/

/-- What a base instruction asks for: the hart after it, a memory access, or an exception. -/
inductive RvAct where
  | done (x : Hart) (s : State)
  | load (rd : BitVec 5) (a : Word64) (n : Nat) (signed : Bool)
  | store (a : Word64) (n : Nat) (v : Word64)
  | amo (op : AmoOp) (rd : BitVec 5) (a : Word64) (n : Nat) (v : Word64)
  | lr (rd : BitVec 5) (a : Word64) (n : Nat)
  | sc (rd : BitVec 5) (a : Word64) (n : Nat) (v : Word64)
  | trap (cause : Nat) (tval : Word64)
  | illegal

/-- A CSR instruction: `f` its funct3, `r` the register or immediate field. -/
def rvCsr (s : State) (h : Nat) (x : Hart) (f n : Nat) (d r : BitVec 5) (next : Word64) : RvAct :=
  let v : Word64 := if 4 ≤ f then r.setWidth 64 else x.rd r
  let writes := f % 4 == 1 || r != 0
  match csrRead s h x n with
  | none => .illegal
  | some (old, s1) =>
    let new := if f % 4 == 1 then v else if f % 4 == 2 then old ||| v else old &&& ~~~v
    let on (y : Hart) : RvAct := .done { y.wr d old with pc := next } s1
    if !writes then on x
    else if 0xC00 ≤ n then .illegal
    else match csrWrite x n new with
      | some y => on y
      | none => .illegal

/-- MRET: back to mepc with MIE from MPIE. -/
def Hart.mret (x : Hart) : Hart :=
  { x with pc := x.mepc, mstatus := ((x.mstatus >>> 4) &&& 8#64) ||| 0x80#64 }

/-- A SYSTEM word of a machine-mode hart. -/
def rvSystem (s : State) (h : Nat) (x : Hart) (w : Nat) (next : Word64) : RvAct :=
  let f := bits w 12 3
  if f == 0 then
    match w with
    | 0x00000073 => .trap 11 0
    | 0x00100073 => .trap 3 x.pc
    | 0x30200073 => .done x.mret s
    | 0x10500073 => .done { x with pc := next } s
    | _ => .illegal
  else if f == 4 then .illegal
  else rvCsr s h x f (bits w 20 12) (BitVec.ofNat 5 (bits w 7 5)) (BitVec.ofNat 5 (bits w 15 5)) next

/-- A word of RV64IMA; `len` is its length in bytes, 2 for one that was compressed; `sys` is what it asks for as a SYSTEM
word. -/
def rvExec (s : State) (x : Hart) (w len : Nat) (sys : RvAct) : RvAct :=
  let d : BitVec 5 := BitVec.ofNat 5 (bits w 7 5)
  let r1 : BitVec 5 := BitVec.ofNat 5 (bits w 15 5)
  let r2 : BitVec 5 := BitVec.ofNat 5 (bits w 20 5)
  let f := bits w 12 3
  let f7 := bits w 25 7
  let next := x.pc + BitVec.ofNat 64 len
  let put (v : Word64) : RvAct := .done { x.wr d v with pc := next } s
  let put? (v : Option Word64) : RvAct := match v with | some v => put v | none => .illegal
  match bits w 0 7 with
  | 0x37 => put (immU w)
  | 0x17 => put (x.pc + immU w)
  | 0x6F => .done { x.wr d next with pc := x.pc + immJ w } s
  | 0x67 => if f != 0 then .illegal else .done { x.wr d next with pc := (x.rd r1 + immI w) &&& ~~~1#64 } s
  | 0x63 => (match rvBranch f (x.rd r1) (x.rd r2) with
    | some t => .done { x with pc := if t then x.pc + immB w else next } s
    | none => .illegal)
  | 0x03 => if f == 7 then .illegal else .load d (x.rd r1 + immI w) (2 ^ (f % 4)) (f < 4)
  | 0x23 => if 4 ≤ f then .illegal else .store (x.rd r1 + immS w) (2 ^ f) (x.rd r2)
  | 0x13 =>
    if f == 1 && bits w 26 6 != 0 then .illegal
    else if f == 5 && bits w 26 6 != 0 && bits w 26 6 != 0x10 then .illegal
    else put (rvAlu f (f == 5 && bits w 30 1 == 1) (x.rd r1)
      (if f == 1 || f == 5 then BitVec.ofNat 64 (bits w 20 6) else immI w))
  | 0x1B =>
    if f == 1 && f7 != 0 then .illegal
    else if f == 5 && f7 != 0 && f7 != 0x20 then .illegal
    else put? (rvAlu32 f (f == 5 && f7 == 0x20) (x.rd r1)
      (if f == 1 || f == 5 then BitVec.ofNat 64 (bits w 20 5) else immI w))
  | 0x33 =>
    if f7 == 1 then put (rvMul f (x.rd r1) (x.rd r2))
    else if f7 == 0 || (f7 == 0x20 && (f == 0 || f == 5)) then put (rvAlu f (f7 == 0x20) (x.rd r1) (x.rd r2))
    else .illegal
  | 0x3B =>
    if f7 == 1 then put? (rvMul32 f (x.rd r1) (x.rd r2))
    else if f7 == 0 || (f7 == 0x20 && (f == 0 || f == 5)) then put? (rvAlu32 f (f7 == 0x20) (x.rd r1) (x.rd r2))
    else .illegal
  | 0x0F => if f < 2 then .done { x with pc := next } s else .illegal
  | 0x2F =>
    let n := 2 ^ f
    if f != 2 && f != 3 then .illegal
    else match bits w 27 5 with
      | 2 => if r2 = 0 then .lr d (x.rd r1) n else .illegal
      | 3 => .sc d (x.rd r1) n (x.rd r2)
      | k => (match amoOf k with
        | some op => .amo op d (x.rd r1) n (x.rd r2)
        | none => .illegal)
  | 0x73 => sys
  | _ => .illegal

/-! ### Compressed words -/

/-- Words of the I, S, R, B and J forms. -/
def wordI (op f d r imm : Nat) : Nat := imm % 4096 * 2 ^ 20 + r * 2 ^ 15 + f * 2 ^ 12 + d * 2 ^ 7 + op
def wordS (f r1 r2 imm : Nat) : Nat :=
  imm / 32 % 128 * 2 ^ 25 + r2 * 2 ^ 20 + r1 * 2 ^ 15 + f * 2 ^ 12 + imm % 32 * 2 ^ 7 + 0x23
def wordR (op f7 f d r1 r2 : Nat) : Nat := f7 * 2 ^ 25 + r2 * 2 ^ 20 + r1 * 2 ^ 15 + f * 2 ^ 12 + d * 2 ^ 7 + op
def wordB (f r imm : Nat) : Nat :=
  bits imm 12 1 * 2 ^ 31 + bits imm 5 6 * 2 ^ 25 + r * 2 ^ 15 + f * 2 ^ 12 + bits imm 1 4 * 2 ^ 8 + bits imm 11 1 * 2 ^ 7 + 0x63
def wordJ (d imm : Nat) : Nat :=
  bits imm 20 1 * 2 ^ 31 + bits imm 1 10 * 2 ^ 21 + bits imm 11 1 * 2 ^ 20 + bits imm 12 8 * 2 ^ 12 + d * 2 ^ 7 + 0x6F

/-- A number of `n` bits sign-extended to `m` bits. -/
def sextNat (n m v : Nat) : Nat := if bits v (n - 1) 1 == 1 then v % 2 ^ n + 2 ^ m - 2 ^ n else v % 2 ^ n

/-- The 6-bit immediate of a compressed word. -/
def immC (w : Nat) : Nat := sextNat 6 12 (bits w 12 1 * 32 + bits w 2 5)

/-- The word that a 16-bit word of RV64C stands for; none where it is illegal or reserved. -/
def rvExpand (w : Nat) : Option Nat :=
  let d := bits w 7 5
  let r := bits w 2 5
  let d' := 8 + bits w 2 3
  let r' := 8 + bits w 7 3
  let ud := bits w 10 3 * 8 + bits w 5 2 * 64
  let uw := bits w 10 3 * 8 + bits w 6 1 * 4 + bits w 5 1 * 64
  let sh := bits w 12 1 * 32 + bits w 2 5
  match bits w 0 2, bits w 13 3 with
  | 0, 0 =>
    let u := bits w 7 4 * 64 + bits w 11 2 * 16 + bits w 5 1 * 8 + bits w 6 1 * 4
    if u == 0 then none else some (wordI 0x13 0 d' 2 u)
  | 0, 2 => some (wordI 0x03 2 d' r' uw)
  | 0, 3 => some (wordI 0x03 3 d' r' ud)
  | 0, 6 => some (wordS 2 r' d' uw)
  | 0, 7 => some (wordS 3 r' d' ud)
  | 1, 0 => some (wordI 0x13 0 d d (immC w))
  | 1, 1 => if d == 0 then none else some (wordI 0x1B 0 d d (immC w))
  | 1, 2 => some (wordI 0x13 0 d 0 (immC w))
  | 1, 3 =>
    if d == 2 then
      let u := bits w 12 1 * 512 + bits w 3 2 * 128 + bits w 5 1 * 64 + bits w 2 1 * 32 + bits w 6 1 * 16
      if u == 0 then none else some (wordI 0x13 0 2 2 (sextNat 10 12 u))
    else if sh == 0 then none
    else some (sextNat 6 20 sh * 4096 + d * 2 ^ 7 + 0x37)
  | 1, 4 =>
    (match bits w 10 2 with
     | 0 => some (wordI 0x13 5 r' r' sh)
     | 1 => some (wordI 0x13 5 r' r' (0x400 + sh))
     | 2 => some (wordI 0x13 7 r' r' (immC w))
     | _ =>
       match bits w 12 1, bits w 5 2 with
       | 0, 0 => some (wordR 0x33 0x20 0 r' r' d')
       | 0, 1 => some (wordR 0x33 0 4 r' r' d')
       | 0, 2 => some (wordR 0x33 0 6 r' r' d')
       | 0, _ => some (wordR 0x33 0 7 r' r' d')
       | _, 0 => some (wordR 0x3B 0x20 0 r' r' d')
       | _, 1 => some (wordR 0x3B 0 0 r' r' d')
       | _, _ => none)
  | 1, 5 =>
    let u := bits w 12 1 * 2048 + bits w 8 1 * 1024 + bits w 9 2 * 256 + bits w 6 1 * 128 + bits w 7 1 * 64 +
      bits w 2 1 * 32 + bits w 11 1 * 16 + bits w 3 3 * 2
    some (wordJ 0 (sextNat 12 21 u))
  | 1, 6 | 1, 7 =>
    let u := bits w 12 1 * 256 + bits w 5 2 * 64 + bits w 2 1 * 32 + bits w 10 2 * 8 + bits w 3 2 * 2
    some (wordB (bits w 13 1) r' (sextNat 9 13 u))
  | 2, 0 => some (wordI 0x13 1 d d sh)
  | 2, 2 => if d == 0 then none else some (wordI 0x03 2 d 2 (bits w 12 1 * 32 + bits w 4 3 * 4 + bits w 2 2 * 64))
  | 2, 3 => if d == 0 then none else some (wordI 0x03 3 d 2 (bits w 12 1 * 32 + bits w 5 2 * 8 + bits w 2 3 * 64))
  | 2, 4 =>
    if bits w 12 1 == 0 then
      if r == 0 then (if d == 0 then none else some (wordI 0x67 0 0 d 0)) else some (wordR 0x33 0 0 d 0 r)
    else if r == 0 then some (if d == 0 then 0x00100073 else wordI 0x67 0 1 d 0)
    else some (wordR 0x33 0 0 d d r)
  | 2, 6 => some (wordS 2 2 r (bits w 9 4 * 4 + bits w 7 2 * 64))
  | 2, 7 => some (wordS 3 2 r (bits w 10 3 * 8 + bits w 7 3 * 64))
  | _, _ => none

end Sys2Proof.Machine
end

