-- ==== Sys2Proof/Machine/Bus.lean ====
section
/-! DEFINITION. The physical map of the control cores and the firmware cores (R48 to R50, R446): loads, stores and AMOs;
what the device registers read as (R7) and the row of the opcode table that a register write is. The control cores'
caches are coherent with the device (R50), so far memory is one store for all. -/

namespace Sys2Proof.Machine
open Sys2Proof

/-! ### The register map (R48) -/

/-- A block of registers: base, instances, their distance, bytes used of each, and whether only firmware has access. -/
structure RegBlock where
  lo : Nat
  n : Nat
  stride : Nat
  used : Nat
  fw : Bool
  deriving DecidableEq, Repr

/-- Whether an offset in the device registers lies in a block. -/
def RegBlock.holds (b : RegBlock) (off : Nat) : Bool :=
  b.lo ≤ off && off < b.lo + b.n * b.stride && (off - b.lo) % b.stride < b.used

/-- The blocks of chapters 1, 6 and 18: translation, tables, jobs, links, cores, darning entries (R19, R35, R47, R184,
R403, R407, R414). -/
def deviceBlocks : List RegBlock :=
  [⟨0x100000, 4, 0x10000, 0x10, false⟩, ⟨0x100010, 4, 0x10000, 0x18, true⟩, ⟨0x108000, 4, 0x10000, 0x8000, true⟩,
   ⟨0x200000, 1, 0x10000, 0x10000, true⟩, ⟨0x210000, 64, 8, 8, false⟩, ⟨0x211000, 16, 8, 8, true⟩,
   ⟨0x212000, 1, 8, 8, true⟩, ⟨0x213000, 1, 8, 8, false⟩, ⟨0x214000, 1, 0x800, 0x800, false⟩,
   ⟨0x300008, 48, 0x100, 0x10, false⟩, ⟨0x300000, 48, 0x100, 8, true⟩, ⟨0x300018, 48, 0x100, 0x18, true⟩,
   ⟨0x400000, 1024, 0x40, 0x20, true⟩, ⟨0x500000, 4, 0x10000, 0x800, true⟩]

/-- The blocks of chapters 21 and 22: queues, rings, roles, capture, interrupts, errors, power, boot, IOMMUs, interrupt
files, system calls. -/
def packageBlocks : List RegBlock :=
  [⟨0x600000, 4096, 8, 8, false⟩, ⟨0x610000, 1, 0x10, 0x10, false⟩, ⟨0x620000, 256, 0x40, 0x30, false⟩,
   ⟨0x630000, 3, 0x40, 0x30, true⟩, ⟨0x640000, 1, 0x28, 0x28, false⟩, ⟨0x650000, 32, 8, 8, true⟩,
   ⟨0x660000, 64, 8, 8, true⟩, ⟨0x670000, 1, 0x20, 0x20, false⟩, ⟨0x680000, 4096, 8, 8, false⟩,
   ⟨0x690000, 1, 0x30, 0x30, false⟩, ⟨0x6A0000, 1, 0x10, 0x10, false⟩, ⟨0x6A0080, 16, 8, 8, false⟩,
   ⟨0x6A1000, 1024, 8, 8, false⟩, ⟨0x6B0000, 1, 0x18, 0x18, false⟩, ⟨0x6B0020, 4, 8, 8, false⟩,
   ⟨0x6C0000, 1, 0x10, 0x10, false⟩, ⟨0x6C1000, 1, 0x4000, 0x4000, false⟩, ⟨0x6D0000, 2, 0x1000, 0x1000, false⟩,
   ⟨0x800000, 128, 0x1000, 8, false⟩, ⟨0x900000, 16, 0x1000, 8, false⟩, ⟨0x1000000, 4096, 0x80, 0x50, false⟩]

/-- Whether a core may access a register: not a reserved address, and not a firmware-only one from a control core
(R48). -/
def regAccess (fw : Bool) (off : Nat) : Bool := (deviceBlocks ++ packageBlocks).any (fun b => b.holds off && (fw || !b.fw))

/-! ### What the registers read as (R7: reserved bits and commands read as 0) -/

/-- The words of a darning entry (R414). -/
def Darning.words (e : Darning) : List Word64 :=
  [BitVec.ofNat 64 (e.state * 2 ^ 61 + e.core * 2 ^ 51 + e.base4k * 2 ^ 42 + e.size4k * 2 ^ 32 + e.job * 2 ^ 26),
   BitVec.ofNat 64 e.save &&& 0x000FFFFFFFFFF000#64,
   BitVec.ofNat 64 (e.ncore * 2 ^ 54 + e.nbase4k * 2 ^ 45),
   BitVec.ofNat 64 (e.pend * 2 ^ 32 + e.out)]

/-- The words of a system-call entry (R451). -/
def Call.words (x : Call) : List Word64 :=
  [x.tid, BitVec.ofNat 64 (x.state * 2 ^ 62 + x.gen.toNat * 2 ^ 32 + x.svc.toNat)] ++
    (List.range 6).map (fun i => x.args.getD i 0) ++ [x.result]

/-- The registers of a translation block (R19, R20, R25, R26). -/
def readXlate (d : Die) (off : Nat) : Word64 :=
  if 0x8000 ≤ off then ((d.xfb.look [] ((off - 0x8000) / 32)).getD ((off - 0x8000) / 8 % 4) 0)
  else match off with
    | 0x00 => d.xinva
    | 0x08 => d.xinvc
    | 0x10 => d.xfbp.setWidth 64
    | 0x18 => d.xfbc.setWidth 64
    | _ => 0

/-- The registers of a job (R403, R437, R452), from 0x214000 on. -/
def readJob (s : State) (off : Nat) : Word64 :=
  let j := s.job (off / 8 % 64)
  match off / 0x200 with
  | 0 => j.jurb
  | 1 => j.jurp.setWidth 64
  | 2 => j.jrms
  | _ => j.jscq.setWidth 64

/-- The registers of a link (R184, R185). -/
def readLink (k : Link) (off : Nat) : Word64 :=
  match off with
  | 0x00 => k.lctl
  | 0x08 => k.lstat
  | 0x10 => k.lcnt
  | 0x18 => k.ltest
  | 0x20 => k.levbase
  | 0x28 => k.levp.setWidth 64
  | _ => 0

/-- The registers of a core (R407). -/
def readCore (c : Core) (off : Nat) : Word64 :=
  match off with
  | 0x00 => BitVec.ofNat 64 ((if c.pcmdBusy then 2 ^ 63 else 0) + c.pcmdSlot.toNat)
  | 0x08 => c.psave
  | 0x10 => c.pstat
  | 0x18 => c.pdl.setWidth 64
  | _ => 0

/-- The registers of a completion queue (R431). -/
def readCq (q : CompQ) (off : Nat) : Word64 :=
  match off with
  | 0x00 => q.base
  | 0x08 => q.ctl
  | 0x10 => q.msia
  | 0x18 => q.msid.setWidth 64
  | 0x20 => q.prod.setWidth 64
  | 0x28 => q.head.setWidth 64
  | _ => 0

/-- The registers of a role (R437). -/
def readRole (midx : Nat) (x : Role) (off : Nat) : Word64 :=
  match off with
  | 0x08 => BitVec.ofNat 64 (x.state * 2 ^ 60 + x.why * 2 ^ 56 + midx)
  | 0x10 => x.img
  | 0x18 => x.hob
  | 0x20 => x.schema.setWidth 64
  | _ => 0

/-- The registers of capture (R441, log 41). -/
def readCapture (c : Capture) (off : Nat) : Word64 :=
  match off with
  | 0x00 => BitVec.ofNat 64 c.mode
  | 0x08 => c.base
  | 0x10 => c.size
  | 0x18 => BitVec.ofNat 64 c.ptr
  | 0x20 => BitVec.ofNat 64 ((if c.diff then 2 ^ 63 else 0) + c.diffAt)
  | _ => 0

/-- The registers of the interrupt or error ring (R448, R454). -/
def RingRegs.read (r : RingRegs) (off : Nat) : Word64 :=
  match off with
  | 0x00 => r.base
  | 0x08 => r.ctl
  | 0x10 => r.prod.setWidth 64
  | 0x18 => r.head.setWidth 64
  | 0x20 => r.msia
  | 0x28 => r.msid.setWidth 64
  | _ => 0

/-- The core map, power and boot registers (R456, R457, R459, R460), from 0x6A0000 on. -/
def readPower (s : State) (off : Nat) : Word64 :=
  if off < 0x80 then (if off == 0 then s.cmGen.setWidth 64 else s.ceLimit.setWidth 64)
  else if off < 0x1000 then
    BitVec.ofNat 64 (((List.range 64).map (fun i => if s.cmFence.contains (64 * ((off - 0x80) / 8) + i) then 2 ^ i else 0)).sum)
  else if off < 0x10000 then (s.core ((off - 0x1000) / 8)).cecnt.setWidth 64
  else if off < 0x20000 then match off - 0x10000 with
    | 0x00 => s.pwrCap.setWidth 64
    | 0x08 => s.pwrStat.setWidth 64
    | 0x10 => if s.pwrGate then 1 else 0
    | o => (s.pwrClk.look 1200 ((o - 0x20) / 8)).setWidth 64
  else if off < 0x21000 then
    (if off == 0x20000 then s.boot
     else BitVec.ofNat 64 ((if s.mlogOvf then 2 ^ 63 else 0) + min s.mlogCnt 256))
  else bytesWord (((s.mlog.look (List.replicate 64 0) ((off - 0x21000) / 64)).drop ((off - 0x21000) % 64)).take 8)

/-- The register at an offset of the device registers. -/
def regRead (s : State) (off : Nat) : Word64 :=
  if off < 0x200000 then readXlate (s.die ((off - 0x100000) / 0x10000)) (off % 0x10000)
  else if off < 0x210000 then s.extStaged.look 0 ((off - 0x200000) / 8)
  else if off < 0x211000 then (s.job ((off - 0x210000) / 8)).jctx
  else if off < 0x212000 then s.mrtStaged.look 0 ((off - 0x211000) / 8)
  else if off < 0x213000 then (if s.extBusy then 0x8000000000000000 else 0)
  else if off < 0x214000 then (if s.cinv then 1 else 0)
  else if off < 0x300000 then readJob s (off - 0x214000)
  else if off < 0x400000 then readLink (s.link ((off - 0x300000) / 0x100)) (off % 0x100)
  else if off < 0x500000 then readCore (s.core ((off - 0x400000) / 0x40)) (off % 0x40)
  else if off < 0x600000 then
    (((s.die ((off - 0x500000) / 0x10000)).darning.look Darning.free (off % 0x10000 / 0x20)).words.getD (off % 0x20 / 8) 0)
  else if off < 0x610000 then (s.qkick.look 0 ((off - 0x600000) / 8)).setWidth 64
  else if off < 0x620000 then (if off % 0x10 == 0 then s.event.base else s.event.head ++ s.event.prod)
  else if off < 0x630000 then readCq (s.cq ((off - 0x620000) / 0x40)) (off % 0x40)
  else if off < 0x640000 then readRole (lastMidx s) (s.role ((off - 0x630000) / 0x40)) (off % 0x40)
  else if off < 0x650000 then readCapture s.cap (off - 0x640000)
  else if off < 0x660000 then
    (let k := s.slot ((off - 0x650000) / 8)
     if k.valid then BitVec.ofNat 64 (2 ^ 63 + k.qcb / 128 * 128) else 0)
  else if off < 0x670000 then
    BitVec.ofNat 64 (((List.range 64).map (fun i => if s.kickPend.contains (64 * ((off - 0x660000) / 8) + i) then 2 ^ i else 0)).sum)
  else if off < 0x680000 then s.irqRing.read (off - 0x670000)
  else if off < 0x690000 then s.irqv.look 0 ((off - 0x680000) / 8)
  else if off < 0x6A0000 then s.errRing.read (off - 0x690000)
  else if off < 0x6D0000 then readPower s (off - 0x6A0000)
  else if off < 0x800000 then iommuReg s ((off - 0x6D0000) / 0x1000) (off % 0x1000)
  else if off < 0x1000000 then 0
  else ((s.calls.look Call.free ((off - 0x1000000) / 0x80)).words.getD (off % 0x80 / 8) 0)

/-! ### Register writes as rows of the opcode table -/

/-- The row that a write of 8 bytes at an offset is: a register of the chapters 1, 6 and 18 that starts something. -/
def deviceRow (off : Nat) (w : Word64) : Option Instr :=
  let n := w.toNat
  let d := (off - 0x100000) / 0x10000
  let job : BitVec 6 := BitVec.ofNat 6 (bits n 8 6)
  let size : BitVec 2 := BitVec.ofNat 2 (bits n 2 2)
  if off < 0x200000 then match off % 0x10000 with
    | 0x08 => (match bits n 0 2 with
      | 1 => some (.invalidateJob d job size)
      | 2 => some (.invalidateAddress d job size)
      | 3 => some (.invalidateAll d job size)
      | _ => none)
    | 0x18 => some (.faultBufferConsume d (w.setWidth 11))
    | 0x20 => if bits n 0 1 == 1 then some (.replay d job) else none
    | _ => none
  else if off == 0x212000 then (if bits n 0 1 == 1 then some .extcommit else none)
  else if off == 0x213000 then (if bits n 0 1 == 1 then some .codeInvalidate else none)
  else if 0x300000 ≤ off && off < 0x400000 then
    let l := (off - 0x300000) / 0x100
    match off % 0x100, bits n 0 3 with
    | 0x00, 1 => some (.tune l (BitVec.ofNat 8 (bits n 48 8)))
    | 0x00, 2 => some (.lctlRetrain l (BitVec.ofNat 8 (bits n 48 8)))
    | 0x00, 3 => some (.takeDown l (BitVec.ofNat 8 (bits n 48 8)))
    | 0x18, _ => some (.ltestWrite l w)
    | _, _ => none
  else if 0x400000 ≤ off && off < 0x500000 && off % 0x40 == 0 then
    let c := (off - 0x400000) / 0x40
    match bits n 8 2 with
    | 1 => some (.pcmdRequest c (w.setWidth 5))
    | 2 => some (.pcmdForce c (w.setWidth 5))
    | 3 => some (.pcmdResume c (w.setWidth 5))
    | _ => none
  else none

/-- The same for the chapters 21 and 22. -/
def packageRow (off : Nat) (w : Word64) : Option Instr :=
  let n := w.toNat
  if 0x600000 ≤ off && off < 0x608000 then some (.qkickWrite ((off - 0x600000) / 8) (w.setWidth 32))
  else if 0x630000 ≤ off && off < 0x640000 then
    let r := (off - 0x630000) / 0x40
    match off % 0x40, bits n 0 2 with
    | 0x00, 1 => some (.castlingStart r)
    | 0x00, 2 => some (.handOverWritten r)
    | 0x28, _ => some (.hbeat r)
    | _, _ => none
  else if off == 0x640000 then match bits n 0 2 with
    | 0 => some .captureOff
    | 1 => some .capture
    | 2 => some .replayMode
    | _ => none
  else if 0x6A1000 ≤ off && off < 0x6A3000 then some (.cecntWrite ((off - 0x6A1000) / 8))
  else if 0x1000000 ≤ off && off % 0x80 == 0x48 then some (.answer ((off - 0x1000000) / 0x80) w)
  else none

/-- The row that a write of 8 bytes at an offset is (R7). -/
def regRow (fw : Bool) (off : Nat) (w : Word64) : Instr :=
  match deviceRow off w, packageRow off w with
  | some i, _ => i
  | _, some i => i
  | none, none => .registerWrite fw (0x0010000000000000 + off) w

/-! ### Loads and stores -/

/-- What a store leads to. -/
inductive StoreAct where
  | fault                      -- an access fault (R48, R49)
  | done (s : State)
  | row (i : Instr)            -- a row of the opcode table

/-- The signal whose word holds an address, in the first 32 KiB of the signal area (R48). -/
def signalOf (a : Nat) : Option Nat :=
  if 0x0010000100000000 ≤ a && a < 0x0010000100008000 then some ((a - 0x0010000100000000) / 8) else none

/-- The root port and the place in its window of an address (R48). -/
def pcieWindow (a : Nat) : Option (Nat × Nat) :=
  if a / 2 ^ 49 == 0x10 then some (bits a 48 1, a % 2 ^ 48) else none

/-- A request to an endpoint or to configuration space: the first 256 MiB of the window are ECAM space, the rest goes to the
bus addresses of the same number (R446). -/
def pcieRequest (s : State) (port off : Nat) (write : Bool) (data : List Byte) (n : Nat) : State :=
  { s with pcieReqs := s.pcieReqs ++ [⟨port, off < 0x10000000, write, off, data, n⟩] }

/-- The error of an access that an endpoint refuses, in AER and the error ring; its word is open (R446, R454). -/
def pcieError (s : State) (port : Nat) : State :=
  let (v, s) := freeValue s
  ioError s port v

/-- Whether a place in a port's window is configuration space of the root port itself, function 0 of bus 0, and whether it is
of a function of bus 0 that does not exist (R445, R446). -/
def ownCfg (off : Nat) : Bool := off < 0x1000
def noFunction (off : Nat) : Bool := 0x1000 ≤ off && off < 0x100000

/-- Whether an endpoint answers the next request with an error, and else with which bytes: the endpoints' choice. -/
def pcieReply (s : State) (n : Nat) : Option Word64 × State :=
  (Config.pcieReply s.freeCtr n, { s with freeCtr := s.freeCtr + 1 })

/-- The low `n` bytes of a word. -/
def lowBytes (v : Word64) (n : Nat) : Word64 := BitVec.ofNat 64 (v.toNat % 2 ^ (8 * n))

/-- A loaded value of `n` bytes, extended to 64 bits. -/
def extendLoad (v : Word64) (n : Nat) (signed : Bool) : Word64 :=
  if signed then ((v.setWidth (8 * n) : BitVec (8 * n))).signExtend 64 else lowBytes v n

/-- A load of `n` bytes, in devices not across 8: the value, or an access fault. Poison reads as a free value (log 102). -/
def busLoad (s : State) (fw : Bool) (a n : Nat) : Option (Word64 × State) :=
  if a < 2 ^ 52 then
    match physRead s a n with
    | some (bs, false) => some (bytesWord bs, s)
    | some (_, true) => some (lowBytes (freeValue s).1 n, (freeValue s).2)
    | none => none
  else if 0x0010000000000000 ≤ a && a < 0x0010000100000000 then
    let off := a - 0x0010000000000000
    if regAccess fw (off / 8 * 8) then some (lowBytes (regRead s (off / 8 * 8) >>> (8 * (off % 8))) n, s) else none
  else match signalOf a, pcieWindow a with
    | some g, _ => some (lowBytes (s.signal g >>> (8 * (a % 8))) n, s)
    | none, some (p, off) =>
      if ownCfg off then some (cfgLoad s p off n, s)
      else if noFunction off || contained s p then some (lowBytes (BitVec.allOnes 64) n, pcieError s p)
      else
        let (v, s) := pcieReply (pcieRequest s p off false [] n) n
        (match v with
         | some v => some (lowBytes v n, s)
         | none => some (lowBytes (BitVec.allOnes 64) n, pcieError s p))
    | none, none => none

/-- A word of a register with `n` bytes of it replaced (log 102). -/
def mergeBytes (old w : Word64) (at_ n : Nat) : Word64 :=
  let m : Word64 := BitVec.ofNat 64 (2 ^ (8 * n) - 1) <<< (8 * at_)
  (old &&& ~~~m) ||| ((w <<< (8 * at_)) &&& m)

/-- A store of `n` bytes, in devices not across 8 (R48, R49, R427, R430, R446). -/
def busStore (s : State) (fw : Bool) (a n : Nat) (w : Word64) : StoreAct :=
  if a < 2 ^ 52 then
    if (physRead s a n).isSome then .done (physWrite s a (wordBytes n w) false) else .fault
  else if 0x0010000000000000 ≤ a && a < 0x0010000100000000 then
    let off := a - 0x0010000000000000
    if regAccess fw (off / 8 * 8) then
      .row (regRow fw (off / 8 * 8) (if n == 8 then w else mergeBytes (regRead s (off / 8 * 8)) w (off % 8) n))
    else .fault
  else match signalOf a, pcieWindow a with
    | some g, _ => if n != 8 || (g == 4095 && !fw) then .fault else .row (.signalUpdate g .set w)
    | none, some (p, off) =>
      if ownCfg off then .done (cfgStore s p off n w)
      else if noFunction off || contained s p then .done (pcieError s p)
      else
        let (v, s) := pcieReply (pcieRequest s p off true (wordBytes n w) n) n
        .done (if v.isSome then s else pcieError s p)
    | none, none => .fault

/-- An AMO: a load and a store of what it computes, in one step (R155, R430). -/
def busAmo (s : State) (fw : Bool) (op : AmoOp) (a n : Nat) (w : Word64) : Option (Word64 × State × StoreAct) :=
  match busLoad s fw a n with
  | none => none
  | some (v, s) => match busStore s fw a n (BitVec.ofNat 64 (amoValue op n v.toNat w.toNat)) with
    | .fault => none
    | k => some (v, s, k)

/-! ### Control-core harts (R443, R444) -/

def State.control (s : State) (h : Nat) : Control := s.controls.look Control.held h
def State.setControl (s : State) (h : Nat) (x : Control) : State := { s with controls := s.controls.put h x }

/-- stimecmp and vstimecmp compare against the time base (R444). -/
def Control.timerDue (x : Control) (guest : Bool) (now : Nat) : Bool :=
  (if guest then x.vstimecmp else x.stimecmp).toNat ≤ now

/-- A load access fault, cause 5, or a store or AMO one, cause 7 (R48). -/
def controlFault (s : State) (h cause a : Nat) : State :=
  s.setControl h { s.control h with cause, tval := BitVec.ofNat 64 a }

/-- An access that no core makes in one piece: in the devices one that is not aligned to its size, of 1, 2, 4 or 8
bytes; in far memory only an AMO (log 101). -/
def unaligned (atomic : Bool) (a n : Nat) : Bool := a % n != 0 && (atomic || 2 ^ 52 ≤ a)

/-- What an access of a control-core hart leads to: the machine after it, and the row that it writes to. -/
def controlAccess (s : State) (h : Nat) (op : BusOp) : State × Option Instr :=
  let x := s.control h
  let size (n : Nat) : Bool := [1, 2, 4, 8].contains n
  if !x.on || 16 ≤ h then (s, none)
  else match op with
    | .load a n =>
      if !size n then (s, none)
      else if unaligned false a n then (controlFault s h 4 a, none)
      else (match busLoad s false a n with
        | some (v, s) => (s.setControl h { s.control h with loaded := v }, none)
        | none => (controlFault s h 5 a, none))
    | .store a n w =>
      if !size n then (s, none)
      else if unaligned false a n then (controlFault s h 6 a, none)
      else (match busStore s false a n w with
        | .fault => (controlFault s h 7 a, none)
        | .done s => (s, none)
        | .row i => (s, some i))
    | .amo o a n w =>
      if n != 4 && n != 8 then (s, none)
      else if unaligned true a n then (controlFault s h 6 a, none)
      else (match busAmo s false o a n w with
        | some (v, _, .done t) => (t.setControl h { t.control h with loaded := v }, none)
        | some (v, s, .row i) => (s.setControl h { s.control h with loaded := v }, some i)
        | _ => (controlFault s h 7 a, none))
    | .timer guest w =>
      (s.setControl h (if guest then { x with vstimecmp := w } else { x with stimecmp := w }), none)
    | .time => (s.setControl h { x with loaded := BitVec.ofNat 64 s.now }, none)

end Sys2Proof.Machine
end

