-- ==== Sys2Proof/Machine/Control.lean ====
section
/-! DEFINITION. The privileged state of a control-core hart (R443, R444): its interrupt files, interrupts and exceptions, and
its CSRs. The manual names the RVA23 profile, the hypervisor extension, Sstc and the AIA and describes none of them: all of
this is PRESUMED from the RISC-V specifications (log 101). -/

namespace Sys2Proof.Machine
open Sys2Proof

def bitIf (b : Bool) (i : Nat) : Word64 := if b then 1#64 <<< i else 0

/-- A CSR as it is held. -/
def Control.csrAt (x : Control) (n : Nat) : Word64 := x.csr.look 0 n
def Control.setCsr (x : Control) (n : Nat) (w : Word64) : Control := { x with csr := x.csr.put n w }
/-- mstatus with its fields that never change: 64-bit S and U. -/
def Control.status (x : Control) : Word64 := x.hart.mstatus
def Control.setStatus (x : Control) (w : Word64) : Control := { x with hart := { x.hart with mstatus := w } }

/-! ### Interrupt files (R443) -/

/-- Pages of the machine-level file of a hart, and of its supervisor file, `g` 0, or guest file `g`. -/
def machineFile (h : Nat) : Nat := 0x10000000900 + h
def hartFile (h g : Nat) : Nat := 0x10000000800 + 8 * h + g

/-- The lowest identity pending and enabled in a file, below its threshold; 0 for none. -/
def topIdentity (s : State) (page : Nat) : Nat :=
  let v := s.imsic.look 0 page &&& s.imsicEie.look 0 page
  let thr := (s.imsicThr.look 0 page).toNat
  match (List.range 2048).find? (fun i => v.getLsbD i) with
  | some i => if thr != 0 && thr ≤ i then 0 else i
  | none => 0

/-- Whether a file signals its hart: its delivery is on. -/
def fileSignals (s : State) (page : Nat) : Bool := s.imsicDel.look 0 page == 1 && topIdentity s page != 0

/-- A claim: the top identity is no longer pending. -/
def claimTop (s : State) (page : Nat) : State :=
  match topIdentity s page with
  | 0 => s
  | i => { s with imsic := s.imsic.put page (s.imsic.look 0 page &&& ~~~(1#2048 <<< i)) }

/-- A register of a file by its select value: eidelivery, eithreshold, and the arrays of pending and enabled identities. -/
def fileRead (s : State) (page sel : Nat) : Option Word64 :=
  let word (v : BitVec 2048) (k : Nat) : Word64 := v.extractLsb' (32 * k) 64
  if sel == 0x70 then some (s.imsicDel.look 0 page)
  else if sel == 0x72 then some (s.imsicThr.look 0 page)
  else if 0x80 ≤ sel && sel < 0x100 && sel % 2 == 0 then
    some (word (if sel < 0xC0 then s.imsic.look 0 page else s.imsicEie.look 0 page) (sel % 64))
  else none

def fileWrite (s : State) (page sel : Nat) (w : Word64) : Option State :=
  let set (v : BitVec 2048) (k : Nat) : BitVec 2048 :=
    (v &&& ~~~((BitVec.allOnes 64).setWidth 2048 <<< (32 * k))) ||| ((w.setWidth 2048 <<< (32 * k)) &&& ~~~1#2048)
  if sel == 0x70 then some { s with imsicDel := s.imsicDel.put page (w &&& 1) }
  else if sel == 0x72 then some { s with imsicThr := s.imsicThr.put page (w &&& 0x7FF) }
  else if 0x80 ≤ sel && sel < 0xC0 && sel % 2 == 0 then
    some { s with imsic := s.imsic.put page (set (s.imsic.look 0 page) (sel % 64)) }
  else if 0xC0 ≤ sel && sel < 0x100 && sel % 2 == 0 then
    some { s with imsicEie := s.imsicEie.put page (set (s.imsicEie.look 0 page) (sel % 64)) }
  else none

/-! ### Interrupts -/

/-- The guest file that a guest's external interrupts come from, hstatus.VGEIN. -/
def Control.guestFile (h : Nat) (x : Control) : Option Nat :=
  let g := bits (x.csrAt 0x600).toNat 12 6
  if 1 ≤ g && g ≤ 7 then some (hartFile h g) else none

/-- hgeip: the guest files that signal. -/
def guestPending (s : State) (h : Nat) : Word64 :=
  (List.range' 1 7).foldl (fun (m : Word64) g => m ||| bitIf (fileSignals s (hartFile h g)) g) 0

/-- Whether the supervisor's timer, and the guest's, compares from its own register (Sstc). -/
def Control.sstc (x : Control) : Bool := (x.csrAt 0x30A).getLsbD 63
def Control.guestSstc (x : Control) : Bool := x.sstc && (x.csrAt 0x60A).getLsbD 63

/-- mip: what is pending. The timers compare against the time base, the guest's with its offset (R444); external interrupts
come from the interrupt files (R443). -/
def controlMip (s : State) (h : Nat) (x : Control) : Word64 :=
  let soft := x.csrAt 0x344
  let hvip := x.csrAt 0x645
  let guest := match x.guestFile h with
    | some f => fileSignals s f
    | none => false
  (soft &&& 0x202) ||| (hvip &&& 0x444) |||
    (if x.sstc then bitIf (x.timerDue false s.now) 5 else soft &&& 0x20) |||
    bitIf (x.guestSstc && x.timerDue true (s.now + (x.csrAt 0x605).toNat) ) 6 |||
    bitIf (fileSignals s (hartFile h 0)) 9 ||| bitIf guest 10 ||| bitIf (fileSignals s (machineFile h)) 11 |||
    bitIf ((guestPending s h &&& x.csrAt 0x607) != 0) 12

/-- The interrupt of the highest priority in a set. -/
def firstInterrupt (m : Word64) : Option Nat := [11, 3, 7, 9, 1, 5, 12, 10, 2, 6, 13].find? (fun i => m.getLsbD i)

/-- mideleg: the guest's interrupts are always delegated. -/
def Control.mideleg (x : Control) : Word64 := x.csrAt 0x303 ||| 0x1444

/-- Which level takes a trap. -/
inductive TrapLevel where
  | machine
  | supervisor
  | guest
  deriving DecidableEq, Repr

/-- The interrupt a hart takes before its next instruction, and where. -/
def pendingInterrupt (s : State) (h : Nat) (x : Control) : Option (TrapLevel × Nat) :=
  let p := controlMip s h x &&& x.hart.mie
  let hd := x.csrAt 0x603
  let pick (on : Bool) (m : Word64) (l : TrapLevel) : Option (TrapLevel × Nat) :=
    if on then (firstInterrupt m).map (fun i => (l, i)) else none
  match pick (x.priv < 3 || x.status.getLsbD 3) (p &&& ~~~x.mideleg) .machine with
  | some r => some r
  | none => match pick (x.priv < 3 && (x.virt || x.priv == 0 || x.status.getLsbD 1)) (p &&& x.mideleg &&& ~~~hd) .supervisor with
    | some r => some r
    | none => pick (x.virt && (x.priv == 0 || (x.csrAt 0x200).getLsbD 1)) (p &&& x.mideleg &&& hd) .guest

/-! ### Traps -/

/-- Where a trap goes: the base, or for an interrupt under a vectored base four bytes for each cause. -/
def vectorOf (tvec : Word64) (int : Bool) (cause : Nat) : Word64 :=
  (tvec &&& ~~~3#64) + (if int && tvec.getLsbD 0 then BitVec.ofNat 64 (4 * cause) else 0)

/-- A trap: what the hart saves at the level that takes it. `gpa` is the guest physical address of a guest-page fault, `gva`
says that tval is a guest's address. -/
def Control.enter (x : Control) (l : TrapLevel) (int : Bool) (cause : Nat) (tval gpa : Word64) (gva : Bool) : Control :=
  let pc := x.hart.pc
  let code (c : Nat) : Word64 := BitVec.ofNat 64 ((if int then 2 ^ 63 else 0) + c)
  let st := x.status
  match l with
  | .machine =>
    let new := (st &&& ~~~0xC000001888#64) ||| ((st >>> 3 &&& 1) <<< 7) ||| BitVec.ofNat 64 (x.priv * 2048) |||
      bitIf gva 38 ||| bitIf x.virt 39
    { (x.setCsr 0x34B (gpa >>> 2)).setCsr 0x34A 0 with
      priv := 3, virt := false
      hart := { x.hart with mepc := pc, mcause := code cause, mtval := tval, mstatus := new,
                            pc := vectorOf x.hart.mtvec int cause } }
  | .supervisor =>
    let new := (st &&& ~~~0x122#64) ||| ((st >>> 1 &&& 1) <<< 5) ||| bitIf (x.priv == 1) 8
    let hs := x.csrAt 0x600
    let hs := (hs &&& ~~~0xC0#64) ||| bitIf gva 6 ||| bitIf x.virt 7
    let hs := if x.virt then (hs &&& ~~~0x100#64) ||| bitIf (x.priv == 1) 8 else hs
    let y := [(0x141, pc), (0x142, code cause), (0x143, tval), (0x600, hs), (0x643, gpa >>> 2), (0x64A, 0)].foldl
      (fun (y : Control) p => y.setCsr p.1 p.2) x
    { y with priv := 1, virt := false
             hart := { x.hart with mstatus := new, pc := vectorOf (x.csrAt 0x105) int cause } }
  | .guest =>
    let vs := x.csrAt 0x200
    let vs := (vs &&& ~~~0x122#64) ||| ((vs >>> 1 &&& 1) <<< 5) ||| bitIf (x.priv == 1) 8
    let c := if int then cause - 1 else cause
    let y := [(0x241, pc), (0x242, code c), (0x243, tval), (0x200, vs)].foldl (fun (y : Control) p => y.setCsr p.1 p.2) x
    { y with priv := 1, hart := { x.hart with pc := vectorOf (x.csrAt 0x205) int c } }

/-- The level that takes an exception. -/
def Control.levelOf (x : Control) (cause : Nat) : TrapLevel :=
  if x.priv == 3 || !(x.csrAt 0x302).getLsbD cause then .machine
  else if x.virt && (x.csrAt 0x602).getLsbD cause then .guest
  else .supervisor

/-- An exception. -/
def Control.except (x : Control) (cause : Nat) (tval : Word64) (gpa : Word64 := 0) (gva : Bool := false) : Control :=
  x.enter (x.levelOf cause) false cause tval gpa gva

/-- MRET: back to the mode in MPP and MPV. -/
def Control.mret (x : Control) : Control :=
  let st := x.status
  let p := bits st.toNat 11 2
  let new := (st &&& ~~~0x8000001888#64) ||| ((st >>> 7 &&& 1) <<< 3) ||| 0x80
  let new := if p == 3 then new else new &&& ~~~0x20000#64
  { x with priv := p, virt := p != 3 && st.getLsbD 39, hart := { x.hart with mstatus := new, pc := x.hart.mepc } }

/-- SRET: from a guest's supervisor by its own status, else by hstatus.SPV too. -/
def Control.sret (x : Control) : Control :=
  let back (st : Word64) : Word64 := (st &&& ~~~0x122#64) ||| ((st >>> 5 &&& 1) <<< 1) ||| 0x20
  if x.virt then
    let vs := x.csrAt 0x200
    { x.setCsr 0x200 (back vs) with priv := if vs.getLsbD 8 then 1 else 0
                                    hart := { x.hart with pc := x.csrAt 0x241 } }
  else
    let st := x.status
    let hs := x.csrAt 0x600
    { x.setCsr 0x600 (hs &&& ~~~0x80#64) with
      priv := if st.getLsbD 8 then 1 else 0, virt := hs.getLsbD 7
      hart := { x.hart with mstatus := back st &&& ~~~0x20000#64, pc := x.csrAt 0x141 } }

/-! ### CSRs -/

/-- Bits of mstatus and of sstatus that software writes. -/
def mstatusMask : Word64 := 0xC0007E7FAA
def sstatusMask : Word64 := 0xC6722

/-- SD: floating-point or vector state is dirty. -/
def dirty (w : Word64) : Word64 := bitIf (bits w.toNat 13 2 == 3 || bits w.toNat 9 2 == 3) 63

/-- Bits that software writes of the CSRs that only hold what was written; none for a CSR that is not one of them. -/
def plainCsr (n : Nat) : Option Word64 :=
  match n with
  | 0x105 | 0x205 => some (~~~2)
  | 0x141 | 0x241 => some (~~~1)
  | 0x106 | 0x306 | 0x606 => some 0xFFFFFFFF
  | 0x10A | 0x30A | 0x60A => some 0xE0000003000000F1
  | 0x140 | 0x240 | 0x142 | 0x242 | 0x143 | 0x243 | 0x605 | 0x643 | 0x64A | 0x34A | 0x34B => some (BitVec.allOnes 64)
  | 0x180 | 0x280 => some (BitVec.allOnes 64)
  | 0x680 => some 0xFFFFFFFFFFFFFFFC
  | 0x302 => some 0xF0B7FF
  | 0x602 => some 0xB1FF
  | 0x303 => some 0x2222
  | 0x603 => some 0x444
  | 0x607 => some 0xFE
  | 0x645 => some 0x444
  | 0x150 | 0x250 | 0x350 => some 0xFFF
  | 0x200 => some sstatusMask
  | 0x600 => some 0x300703F3C0
  | 0x008 => some 0x7F
  | _ =>
    if (0x10C ≤ n && n < 0x110) || (0x30C ≤ n && n < 0x310) || (0x60C ≤ n && n < 0x610) then some (BitVec.allOnes 64)
    else if (0x3A0 ≤ n && n < 0x3F0) || (0xB03 ≤ n && n < 0xB20) || (0x323 ≤ n && n < 0x340) || n == 0x320 then some 0
    else none

/-- The CSR that a guest's supervisor reaches under a supervisor's number. -/
def guestCsr (virt : Bool) (n : Nat) : Nat :=
  if virt && [0x100, 0x104, 0x105, 0x140, 0x141, 0x142, 0x143, 0x144, 0x14D, 0x150, 0x151, 0x15C, 0x180, 0xDB0].contains n then n + 0x100
  else n

/-- The interrupt file behind an indirect or a claim register, by its number's level. -/
def fileOf (h : Nat) (x : Control) (n : Nat) : Option Nat :=
  match bits n 8 2 with
  | 3 => some (machineFile h)
  | 2 => x.guestFile h
  | _ => some (hartFile h 0)

/-- The top interrupt of a set, as mtopi gives it. -/
def topWord (m : Word64) : Word64 :=
  match firstInterrupt m with
  | some i => BitVec.ofNat 64 (i * 65536 + 1)
  | none => 0

/-- A CSR as a hart reads it; none for one it does not have. Counts of cycles, instructions and events are free values. -/
def controlCsrRead (s : State) (h : Nat) (x : Control) (n : Nat) : Option (Word64 × State) :=
  let st := x.status
  let mip := controlMip s h x
  let vs := x.csrAt 0x200
  let hs := x.csrAt 0x603 &&& 0x444
  let fcsr := x.csrAt 0x003
  let time : Word64 := BitVec.ofNat 64 s.now + (if x.virt then x.csrAt 0x605 else 0)
  let top (f : Option Nat) : Word64 := match f with
    | some f => BitVec.ofNat 64 (topIdentity s f * 65537)
    | none => 0
  match n with
  | 0x001 => some (fcsr &&& 0x1F, s)
  | 0x002 => some (fcsr >>> 5 &&& 7, s)
  | 0x003 => some (fcsr &&& 0xFF, s)
  | 0x009 => some (x.csrAt 0x00F &&& 1, s)
  | 0x00A => some (x.csrAt 0x00F >>> 1 &&& 3, s)
  | 0x00F => some (x.csrAt 0x00F &&& 7, s)
  | 0xC20 | 0xC21 => some (x.csrAt n, s)
  | 0xC22 => some (16, s)
  | 0x100 => some ((st &&& sstatusMask) ||| 0x200000000 ||| dirty st, s)
  | 0x200 => some (vs ||| 0x200000000 ||| dirty vs, s)
  | 0x300 => some (st ||| 0xA00000000 ||| dirty st, s)
  | 0x301 => some (0x80000000003411AF, s)
  | 0x104 => some (x.hart.mie &&& x.mideleg &&& 0x2222, s)
  | 0x144 => some (mip &&& x.mideleg &&& 0x2222, s)
  | 0x204 => some ((x.hart.mie &&& hs) >>> 1, s)
  | 0x244 => some ((mip &&& hs) >>> 1, s)
  | 0x604 => some (x.hart.mie &&& 0x1444, s)
  | 0x644 => some (mip &&& 0x1444, s)
  | 0x304 => some (x.hart.mie, s)
  | 0x344 => some (mip, s)
  | 0x303 => some (x.mideleg, s)
  | 0x305 => some (x.hart.mtvec, s)
  | 0x340 => some (x.hart.mscratch, s)
  | 0x341 => some (x.hart.mepc, s)
  | 0x342 => some (x.hart.mcause, s)
  | 0x343 => some (x.hart.mtval, s)
  | 0x14D => some (x.stimecmp, s)
  | 0x24D => some (x.vstimecmp, s)
  | 0x15C => some (top (some (hartFile h 0)), s)
  | 0x25C => some (top (x.guestFile h), s)
  | 0x35C => some (top (some (machineFile h)), s)
  | 0x151 | 0x251 | 0x351 =>
    (match fileOf h x n with
     | some f => (fileRead s f (x.csrAt (n - 1)).toNat).map (fun w => (w, s))
     | none => none)
  | 0xDB0 => some (topWord (mip &&& x.hart.mie &&& x.mideleg &&& ~~~hs), s)
  | 0xEB0 => some (topWord ((mip &&& x.hart.mie &&& hs) >>> 1), s)
  | 0xFB0 => some (topWord (mip &&& x.hart.mie &&& ~~~x.mideleg), s)
  | 0xE12 => some (guestPending s h, s)
  | 0xF11 | 0xF12 | 0xF13 | 0xF15 => some (0, s)
  | 0xF14 => some (BitVec.ofNat 64 h, s)
  | 0xC01 => some (time, s)
  | _ =>
    if n == 0xB00 || n == 0xB02 || (0xC00 ≤ n && n < 0xC20) then some (freeValue s)
    else (plainCsr n).map (fun _ => (x.csrAt n, s))

/-- Replace the bits `m` of a word. -/
def blend (old m v : Word64) : Word64 := (old &&& ~~~m) ||| (v &&& m)

/-- Floating-point or vector state has been written: FS or VS is Dirty, in a guest's status too. -/
def Control.touch (x : Control) (m : Word64) : Control :=
  let y := x.setStatus (x.status ||| m)
  if x.virt then y.setCsr 0x200 (y.csrAt 0x200 ||| m) else y

/-- A write of a CSR; none for one that is absent. -/
def controlCsrWrite (s : State) (h : Nat) (x : Control) (n : Nat) (w : Word64) : Option (Control × State) :=
  let only (x : Control) : Option (Control × State) := some (x, s)
  let mie (m : Word64) (v : Word64) : Option (Control × State) :=
    only { x with hart := { x.hart with mie := blend x.hart.mie m v } }
  let hart (f : Hart → Hart) : Option (Control × State) := only { x with hart := f x.hart }
  let claim (f : Option Nat) : Option (Control × State) := some (x, match f with
    | some f => claimTop s f
    | none => s)
  let hs := x.csrAt 0x603 &&& 0x444
  match n with
  | 0x001 => only ((x.touch 0x6000).setCsr 0x003 (blend (x.csrAt 0x003) 0x1F w))
  | 0x002 => only ((x.touch 0x6000).setCsr 0x003 (blend (x.csrAt 0x003) 0xE0 (w <<< 5)))
  | 0x003 => only ((x.touch 0x6000).setCsr 0x003 (w &&& 0xFF))
  | 0x009 => only ((x.touch 0x600).setCsr 0x00F (blend (x.csrAt 0x00F) 1 w))
  | 0x00A => only ((x.touch 0x600).setCsr 0x00F (blend (x.csrAt 0x00F) 6 (w <<< 1)))
  | 0x00F => only ((x.touch 0x600).setCsr 0x00F (w &&& 7))
  | 0x100 => only (x.setStatus (blend x.status sstatusMask w))
  | 0x300 =>
    let m := if bits w.toNat 11 2 == 2 then mstatusMask &&& ~~~0x1800#64 else mstatusMask
    only (x.setStatus (blend x.status m w))
  | 0x301 => only x
  | 0x104 => mie (x.mideleg &&& 0x2222) w
  | 0x204 => mie hs (w <<< 1)
  | 0x604 => mie 0x1444 w
  | 0x304 => mie 0x3EEE w
  | 0x144 => only (x.setCsr 0x344 (blend (x.csrAt 0x344) (x.mideleg &&& 2) w))
  | 0x244 => only (x.setCsr 0x645 (blend (x.csrAt 0x645) (hs &&& 4) (w <<< 1)))
  | 0x644 => only (x.setCsr 0x645 (blend (x.csrAt 0x645) 4 w))
  | 0x344 => only ((x.setCsr 0x344 (blend (x.csrAt 0x344) 0x222 w)).setCsr 0x645 (blend (x.csrAt 0x645) 4 w))
  | 0x305 => hart (fun y => { y with mtvec := w &&& ~~~2#64 })
  | 0x340 => hart (fun y => { y with mscratch := w })
  | 0x341 => hart (fun y => { y with mepc := w &&& ~~~1#64 })
  | 0x342 => hart (fun y => { y with mcause := w })
  | 0x343 => hart (fun y => { y with mtval := w })
  | 0x14D => only { x with stimecmp := w }
  | 0x24D => only { x with vstimecmp := w }
  | 0x15C => claim (some (hartFile h 0))
  | 0x25C => claim (x.guestFile h)
  | 0x35C => claim (some (machineFile h))
  | 0x151 | 0x251 | 0x351 =>
    (match fileOf h x n with
     | some f => (fileWrite s f (x.csrAt (n - 1)).toNat w).map (fun s => (x, s))
     | none => none)
  | 0xB00 | 0xB02 => only x
  | 0x180 | 0x280 | 0x680 =>
    if bits w.toNat 60 4 == 0 || (pageLevels (bits w.toNat 60 4)).isSome then only (x.setCsr n w) else only x
  | _ => (plainCsr n).map (fun m => (x.setCsr n (blend (x.csrAt n) m w), s))

/-- Whether a hart may access a CSR: none where it may, else whether a guest's attempt is a virtual-instruction
exception. -/
def csrBarred (x : Control) (n : Nat) (writes : Bool) : Option Bool :=
  let lvl := bits n 8 2
  let st := x.status
  let counter := 0xC00 ≤ n && n < 0xC20
  let on (c : Nat) : Bool := (x.csrAt c).getLsbD (n % 32)
  if writes && bits n 10 2 == 3 then some false
  else if n < 0x004 && n != 0 && (bits st.toNat 13 2 == 0 || (x.virt && bits (x.csrAt 0x200).toNat 13 2 == 0)) then some false
  else if ([0x008, 0x009, 0x00A, 0x00F, 0xC20, 0xC21, 0xC22].contains n) &&
      (bits st.toNat 9 2 == 0 || (x.virt && bits (x.csrAt 0x200).toNat 9 2 == 0)) then some false
  else if x.virt then
    if lvl == 3 then some false
    else if lvl == 2 || (lvl == 1 && x.priv == 0) then some true
    else if n == 0x180 && (x.csrAt 0x600).getLsbD 20 then some true
    else if n == 0x14D && !x.sstc then some false
    else if n == 0x14D && !x.guestSstc then some true
    else if counter && !on 0x306 then some false
    else if counter && (!on 0x606 || (x.priv == 0 && !on 0x106)) then some true
    else none
  else if (lvl == 3 && x.priv != 3) || ((lvl == 1 || lvl == 2) && x.priv == 0) then some false
  else if (n == 0x180 || n == 0x680) && x.priv == 1 && st.getLsbD 20 then some false
  else if (n == 0x14D || n == 0x24D) && x.priv != 3 && !x.sstc then some false
  else if counter && ((x.priv < 3 && !on 0x306) || (x.priv == 0 && !on 0x106)) then some false
  else none

end Sys2Proof.Machine
end

