-- ==== Sys2Proof/Machine/RvExtra.lean ====
section
/-! DEFINITION. What RVA23 adds to RV64IMAC for the integer registers, in compressed words, and the shapes of the
floating-point and vector words (R1, R443): PRESUMED from the RISC-V specifications, of which the manual describes nothing
(log 101). The values that floating-point and vector arithmetic computes are free values. -/

namespace Sys2Proof.Machine
open Sys2Proof

/-! ### Bit manipulation: Zba, Zbb, Zbs and Zicond -/

/-- Leading and trailing zeros, and set bits, of the low `n` bits of a word. -/
def clzOf (n : Nat) (a : Word64) : Nat := ((List.range n).find? (fun i => a.getLsbD (n - 1 - i))).getD n
def ctzOf (n : Nat) (a : Word64) : Nat := ((List.range n).find? (fun i => a.getLsbD i)).getD n
def cpopOf (n : Nat) (a : Word64) : Nat := ((List.range n).map (fun i => if a.getLsbD i then 1 else 0)).sum

/-- A 32-bit rotation to the right, sign-extended. -/
def rorw (a : Word64) (n : Nat) : Word64 := ((a.setWidth 32 : BitVec 32).rotateRight (n % 32)).signExtend 64

/-- The bytes of a word through a function of the list of them. -/
def onBytes (f : List Byte → List Byte) (a : Word64) : Word64 := bytesWord (f (wordBytes 8 a))

/-- ORC.B: each byte that is not zero becomes all ones. -/
def orcb : Word64 → Word64 := onBytes (fun bs => bs.map (fun b => if b = 0 then 0 else 0xFF))

/-- A set, cleared, inverted or extracted bit: the funct6 of the Zbs forms. -/
def oneBit (f6 : Nat) (a : Word64) (i : Nat) : Word64 :=
  let m : Word64 := 1#64 <<< (i % 64)
  match f6 with
  | 0x0A => a ||| m
  | 0x12 => a &&& ~~~m
  | _ => a ^^^ m

/-- The register forms of OP. -/
def bitOp (f7 f : Nat) (a b : Word64) : Option Word64 :=
  match f7, f with
  | 0x10, 2 => some ((a <<< 1) + b)
  | 0x10, 4 => some ((a <<< 2) + b)
  | 0x10, 6 => some ((a <<< 3) + b)
  | 0x20, 7 => some (a &&& ~~~b)
  | 0x20, 6 => some (a ||| ~~~b)
  | 0x20, 4 => some (a ^^^ ~~~b)
  | 0x05, 4 => some (if a.slt b then a else b)
  | 0x05, 5 => some (if a.ult b then a else b)
  | 0x05, 6 => some (if a.slt b then b else a)
  | 0x05, 7 => some (if a.ult b then b else a)
  | 0x30, 1 => some (a.rotateLeft (b.toNat % 64))
  | 0x30, 5 => some (a.rotateRight (b.toNat % 64))
  | 0x14, 1 => some (oneBit 0x0A a b.toNat)
  | 0x24, 1 => some (oneBit 0x12 a b.toNat)
  | 0x34, 1 => some (oneBit 0x1A a b.toNat)
  | 0x24, 5 => some (if a.getLsbD (b.toNat % 64) then 1 else 0)
  | 0x07, 5 => some (if b = 0 then 0 else a)
  | 0x07, 7 => some (if b = 0 then a else 0)
  | _, _ => none

/-- The register forms of OP-32; `r2` is the second register's number. -/
def bitOp32 (f7 f r2 : Nat) (a b : Word64) : Option Word64 :=
  let u : Word64 := a &&& 0xFFFFFFFF
  match f7, f with
  | 0x04, 0 => some (u + b)
  | 0x04, 4 => if r2 == 0 then some (a &&& 0xFFFF) else none
  | 0x10, 2 => some ((u <<< 1) + b)
  | 0x10, 4 => some ((u <<< 2) + b)
  | 0x10, 6 => some ((u <<< 3) + b)
  | 0x30, 1 => some (rorw a (32 - b.toNat % 32))
  | 0x30, 5 => some (rorw a (b.toNat % 32))
  | _, _ => none

/-- The immediate forms of OP-IMM with funct3 1 and 5, by the 12-bit immediate. -/
def bitImm (f imm : Nat) (a : Word64) : Option Word64 :=
  let n (k : Nat) : Option Word64 := some (BitVec.ofNat 64 k)
  match f, imm with
  | 1, 0x600 => n (clzOf 64 a)
  | 1, 0x601 => n (ctzOf 64 a)
  | 1, 0x602 => n (cpopOf 64 a)
  | 1, 0x604 => some ((a.setWidth 8 : BitVec 8).signExtend 64)
  | 1, 0x605 => some ((a.setWidth 16 : BitVec 16).signExtend 64)
  | 5, 0x287 => some (orcb a)
  | 5, 0x6B8 => some (onBytes List.reverse a)
  | _, _ => match f, imm / 64 with
    | 1, 0x0A | 1, 0x12 | 1, 0x1A => some (oneBit (imm / 64) a (imm % 64))
    | 5, 0x18 => some (a.rotateRight (imm % 64))
    | 5, 0x12 => some (if a.getLsbD (imm % 64) then 1 else 0)
    | _, _ => none

/-- The same of OP-IMM-32. -/
def bitImm32 (f imm : Nat) (a : Word64) : Option Word64 :=
  let n (k : Nat) : Option Word64 := some (BitVec.ofNat 64 k)
  match f, imm with
  | 1, 0x600 => n (clzOf 32 a)
  | 1, 0x601 => n (ctzOf 32 a)
  | 1, 0x602 => n (cpopOf 32 a)
  | _, _ =>
    if f == 1 && imm / 64 == 2 then some ((a &&& 0xFFFFFFFF) <<< (imm % 64))
    else if f == 5 && imm / 32 == 0x30 then some (rorw a (imm % 32))
    else none

/-- A bit-manipulation word of a hart. -/
def bitWord (x : Hart) (w : Nat) : Option Word64 :=
  let a := x.rd (BitVec.ofNat 5 (bits w 15 5))
  let b := x.rd (BitVec.ofNat 5 (bits w 20 5))
  match bits w 0 7 with
  | 0x33 => bitOp (bits w 25 7) (bits w 12 3) a b
  | 0x3B => bitOp32 (bits w 25 7) (bits w 12 3) (bits w 20 5) a b
  | 0x13 => bitImm (bits w 12 3) (bits w 20 12) a
  | 0x1B => bitImm32 (bits w 12 3) (bits w 20 12) a
  | _ => none

/-! ### Compressed words: Zcb, Zcmop and the double-precision loads and stores -/

/-- Words of a floating-point load and store. -/
def wordFl (d r imm : Nat) : Nat := wordI 0x07 3 d r imm
def wordFs (r1 r2 imm : Nat) : Nat := wordS 3 r1 r2 imm + 4

/-- The word that a 16-bit word stands for beside those of RV64C. -/
def expandMore (w : Nat) : Option Nat :=
  let d' := 8 + bits w 2 3
  let r' := 8 + bits w 7 3
  let ud := bits w 10 3 * 8 + bits w 5 2 * 64
  let ub := bits w 6 1 + bits w 5 1 * 2
  let uh := bits w 5 1 * 2
  match bits w 0 2, bits w 13 3 with
  | 0, 1 => some (wordFl d' r' ud)
  | 0, 5 => some (wordFs r' d' ud)
  | 2, 1 => some (wordFl (bits w 7 5) 2 (bits w 12 1 * 32 + bits w 5 2 * 8 + bits w 2 3 * 64))
  | 2, 5 => some (wordFs 2 (bits w 2 5) (bits w 10 3 * 8 + bits w 7 3 * 64))
  | 0, 4 => (match bits w 10 3, bits w 6 1 with
    | 0, _ => some (wordI 0x03 4 d' r' ub)
    | 1, 0 => some (wordI 0x03 5 d' r' uh)
    | 1, _ => some (wordI 0x03 1 d' r' uh)
    | 2, _ => some (wordS 0 r' d' ub)
    | 3, 0 => some (wordS 1 r' d' uh)
    | _, _ => none)
  | 1, 4 =>
    if bits w 10 3 != 7 then none
    else (match bits w 5 2, bits w 2 3 with
      | 2, _ => some (wordR 0x33 1 0 r' r' d')
      | 3, 0 => some (wordI 0x13 7 r' r' 0xFF)
      | 3, 1 => some (wordI 0x13 1 r' r' 0x604)
      | 3, 2 => some (wordR 0x3B 4 4 r' r' 0)
      | 3, 3 => some (wordI 0x13 1 r' r' 0x605)
      | 3, 4 => some (wordR 0x3B 4 0 r' r' 0)
      | 3, 5 => some (wordI 0x13 4 r' r' 0xFFF)
      | _, _ => none)
  | 1, 3 => if bits w 2 5 == 0 && bits w 12 1 == 0 && bits w 7 1 == 1 && bits w 11 1 == 0 then some (wordI 0x13 0 0 0 0) else none
  | _, _ => none

/-! ### Floating point -/

/-- What a floating-point computation writes. -/
inductive FpDest where
  | float                      -- an f register
  | int                        -- an x register
  deriving DecidableEq, Repr

/-- Whether a rounding mode is a legal one. -/
def roundOk (rm frm : Nat) : Bool := rm ≤ 4 || (rm == 7 && frm ≤ 4)

/-- Where an OP-FP word or a fused multiply-add writes, with the mode `rm` that it rounds by, if it does; none for a
reserved word. Half precision has only its moves and conversions (Zfhmin). -/
def fpShape (w : Nat) : Option (FpDest × Bool) :=
  let fmt := bits w 25 2
  let f := bits w 12 3
  let r2 := bits w 20 5
  let full := fmt < 2
  if bits w 0 7 != 0x53 then (if full then some (.float, true) else none)
  else match bits w 27 5 with
    | 0 | 1 | 2 | 3 => if full then some (.float, true) else none
    | 11 => if full && r2 == 0 then some (.float, true) else none
    | 4 => if full && f < 3 then some (.float, false) else none
    | 5 => if full && f < 4 then some (.float, false) else none
    | 8 =>
      if r2 < 3 && r2 != fmt && fmt < 3 then some (.float, true)
      else if full && (r2 == 4 || r2 == 5) then some (.float, true)
      else none
    | 20 => if full && (f < 3 || f == 4 || f == 5) then some (.int, false) else none
    | 24 => if full && (r2 < 4 || (r2 == 8 && fmt == 1 && f == 1)) then some (.int, true) else none
    | 26 => if full && r2 < 4 then some (.float, true) else none
    | 28 => if r2 == 0 && ((f == 0 && fmt < 3) || (f == 1 && full)) then some (.int, false) else none
    | 30 => if f == 0 && ((r2 == 0 && fmt < 3) || (r2 == 1 && full)) then some (.float, false) else none
    | _ => none

/-- A value of `2 ^ k` bytes in an f register: the bits above are ones. -/
def boxed (k : Nat) (v : Word64) : Word64 :=
  let n := 8 * 2 ^ k
  if 64 ≤ n then v else v ||| (BitVec.allOnes 64 <<< n)

/-- The value in an f register of a format, the default NaN where it is not boxed. -/
def unboxed (fmt : Nat) (v : Word64) : Word64 :=
  if fmt == 0 then (if bits v.toNat 32 32 == 0xFFFFFFFF then v &&& 0xFFFFFFFF else 0x7FC00000) else v

/-- The words whose value is a matter of bits: sign injection and the moves between the register files. -/
def fpBits (x : Control) (w : Nat) : Option Word64 :=
  let fmt := bits w 25 2
  let k := if fmt == 0 then 2 else if fmt == 1 then 3 else 1
  let a := x.f.look 0 (bits w 15 5)
  if bits w 0 7 != 0x53 then none
  else match bits w 27 5 with
    | 4 =>
      let s := 8 * 2 ^ k - 1
      let u := unboxed fmt a
      let v := unboxed fmt (x.f.look 0 (bits w 20 5))
      let sign := match bits w 12 3 with
        | 0 => v.getLsbD s
        | 1 => !v.getLsbD s
        | _ => u.getLsbD s ^^ v.getLsbD s
      some (boxed k ((u &&& ~~~bitIf true s) ||| bitIf sign s))
    | 28 =>
      if bits w 12 3 == 1 then none
      else some (match fmt with
        | 0 => sext32 a
        | 1 => a
        | _ => (a.setWidth 16 : BitVec 16).signExtend 64)
    | 30 => if bits w 20 5 == 1 then none else some (boxed k (x.hart.rd (BitVec.ofNat 5 (bits w 15 5)) &&&
        (if k == 3 then BitVec.allOnes 64 else BitVec.ofNat 64 (2 ^ (8 * 2 ^ k) - 1))))
    | _ => none

/-! ### Vectors: registers of 128 bits -/

/-- The fields of a vtype: log2 of SEW in bytes, and LMUL in eighths; none where vill is set or the setting is not
supported. -/
def vtypeOf (vt : Word64) : Option (Nat × Nat) :=
  let sew := bits vt.toNat 3 3
  let l := bits vt.toNat 0 3
  let m8 := if l < 4 then 8 * 2 ^ l else 2 ^ (l - 5)
  if bits vt.toNat 8 56 != 0 || l == 4 || 3 < sew || m8 < 2 ^ sew then none else some (sew, m8)

/-- VLMAX. -/
def vlmax (sew m8 : Nat) : Nat := 2 * m8 / 2 ^ sew

/-- The vset forms: the new vl and vtype; `none` for the AVL keeps vl. -/
def vsetTo (x : Control) (vt : Word64) (avl : Option Nat) : Word64 × Word64 :=
  match vtypeOf vt with
  | none => (0, bitIf true 63)
  | some (sew, m8) => (BitVec.ofNat 64 (min (avl.getD (x.csrAt 0xC20).toNat) (vlmax sew m8)), vt)

/-- Registers of a group of an element size, with LMUL in eighths scaled to it. -/
def groupRegs (m8 : Nat) : Nat := max 1 (m8 / 8)

/-- The bytes of a register group from a byte on. -/
def vecByte (x : Control) (r i : Nat) : Byte := (x.v.look 0 ((r + i / 16) % 32)).extractLsb' (8 * (i % 16)) 8
def setVecByte (x : Control) (r i : Nat) (b : Byte) : Control :=
  let k := (r + i / 16) % 32
  let m : BitVec 128 := (0xFF#128) <<< (8 * (i % 16))
  { x with v := x.v.put k ((x.v.look 0 k &&& ~~~m) ||| ((b.setWidth 128) <<< (8 * (i % 16)))) }

/-- Element `e` of `n` bytes of the group at a register. -/
def vecElem (x : Control) (r e n : Nat) : Word64 := bytesWord ((List.range n).map (fun i => vecByte x r (e * n + i)))
def setVecElem (x : Control) (r e n : Nat) (w : Word64) : Control :=
  (wordBytes n w).zipIdx.foldl (fun x p => setVecByte x r (e * n + p.2) p.1) x

/-- Whether the mask in v0 enables an element, bit 25 of the word asking for no mask. -/
def vecOn (x : Control) (w e : Nat) : Bool := bits w 25 1 == 1 || (x.v.look 0 0).getLsbD e

/-- The registers that vector arithmetic writes from `vd` on, for a word with the settings `m8`: one for a mask, a
reduction or a scalar move, twice the group for a widening form. -/
def vecSpan (w m8 : Nat) : Nat :=
  let f := bits w 12 3
  let f6 := bits w 26 6
  let g := groupRegs m8
  let wide := groupRegs (2 * m8)
  let compare := 0x18 ≤ f6 && f6 < 0x20
  match f with
  | 0 | 3 | 4 =>
    if f == 3 && f6 == 0x27 then bits w 15 3 + 1
    else if compare || f6 == 0x11 || f6 == 0x13 || (f == 0 && (f6 == 0x30 || f6 == 0x31)) then 1
    else if f6 == 0x35 then wide else g
  | 2 | 6 =>
    if compare || (f == 2 && f6 < 8) || (f6 == 0x14 && bits w 15 5 < 16) || (f == 6 && f6 == 0x10) then 1
    else if 0x30 ≤ f6 then wide else g
  | _ =>
    if compare || (f == 1 && f6 < 8 && f6 % 2 == 1) || (f == 1 && (f6 == 0x31 || f6 == 0x33)) || (f == 5 && f6 == 0x10) then 1
    else if 0x30 ≤ f6 || (f == 1 && f6 == 0x12 && 8 ≤ bits w 15 5 && bits w 15 5 < 16) then wide else g

/-- Where a vector word that writes no vector register writes. -/
def vecScalar (w : Nat) : Option FpDest :=
  if bits w 26 6 != 0x10 then none
  else match bits w 12 3, bits w 15 5 with
    | 2, 0 | 2, 16 | 2, 17 => some .int
    | 1, 0 => some .float
    | _, _ => none

end Sys2Proof.Machine
end

