-- ==== Sys2Proof/Machine/ControlExec.lean ====
section
/-! DEFINITION. The instructions of a control-core hart (R1, R443): their fetch, their accesses through Sv57 and the guest
stage, and what each does. PRESUMED from the RISC-V specifications (log 101). -/

namespace Sys2Proof.Machine
open Sys2Proof

/-! ### Accesses -/

/-- The exception an instruction ends in. -/
structure ExecTrap where
  cause : Nat
  tval : Word64
  gpa : Nat := 0
  gva : Bool := false
  deriving DecidableEq, Repr

/-- The mode that an access is made in. -/
structure MemMode where
  priv : Nat
  virt : Bool
  deriving DecidableEq, Repr

/-- That of a fetch, and of a load or store, which MPRV changes to the mode in MPP. -/
def Control.mode (x : Control) : MemMode := ⟨x.priv, x.virt⟩
def Control.dataMode (x : Control) : MemMode :=
  let p := bits x.status.toNat 11 2
  if x.priv == 3 && x.status.getLsbD 17 then ⟨p, x.status.getLsbD 39 && p != 3⟩ else x.mode

/-- That of the loads and stores of a hypervisor into its guest. -/
def Control.guestMode (x : Control) : MemMode := ⟨if (x.csrAt 0x600).getLsbD 8 then 1 else 0, true⟩

/-- A fault of a walk at a virtual address. -/
def walkTrap (u : MemUse) (m : MemMode) (va : Nat) (e : WalkFault) : ExecTrap :=
  let cause := match u, e with
    | .fetch, .page => 12
    | .fetch, .access => 1
    | .fetch, .guest _ => 20
    | .load, .page => 13
    | .load, .access => 5
    | .load, .guest _ => 21
    | .store, .page => 15
    | .store, .access => 7
    | .store, .guest _ => 23
  ⟨cause, BitVec.ofNat 64 va, match e with
    | .guest g => g
    | _ => 0, m.virt⟩

/-- Whether a page of users, or of the supervisor, is open to a mode: under SUM to the supervisor's data accesses. -/
def userGrants (priv : Nat) (sum : Bool) (u : MemUse) (pte : Nat) : Bool :=
  if bits pte 4 1 == 1 then priv == 0 || (sum && u != .fetch) else priv != 0

/-- The physical address of an access; `exec` for one that needs the right to fetch (HLVX). -/
def controlPlace (s : State) (x : Control) (m : MemMode) (exec : Bool) (u : MemUse) (va : Nat) : Except ExecTrap Nat :=
  if m.priv == 3 then .ok va
  else
    let need : MemUse := if exec then .fetch else u
    let mxr := x.status.getLsbD 19
    let sum := if m.virt then (x.csrAt 0x200).getLsbD 18 else x.status.getLsbD 18
    let below (u : MemUse) (a : Nat) : Except WalkFault Nat :=
      if m.virt then guestStage s (x.csrAt 0x680) mxr u a else .ok a
    let grants (pte : Nat) : Bool :=
      userGrants m.priv sum u pte && leafGrants (mxr || (m.virt && (x.csrAt 0x200).getLsbD 19)) need pte
    match firstStage s (x.csrAt (if m.virt then 0x280 else 0x180)) below grants va with
    | .error e => .error (walkTrap u m va e)
    | .ok a => match below need a with
      | .error e => .error (walkTrap u m va e)
      | .ok pa => .ok pa

/-- The address of a load or store with the bits that pointer masking ignores replaced. -/
def maskPointer (x : Control) (m : MemMode) (a : Nat) : Nat :=
  let env := if m.priv == 0 then x.csrAt 0x10A else if m.virt then x.csrAt 0x60A else x.csrAt 0x30A
  let n := match bits env.toNat 32 2 with
    | 2 => 57
    | 3 => 48
    | _ => 64
  if m.priv == 3 || n == 64 || x.status.getLsbD 19 then a % 2 ^ 64
  else if bits (x.csrAt (if m.virt then 0x280 else 0x180)).toNat 60 4 == 0 then a % 2 ^ n
  else sextNat n 64 a

/-- The parts of an access on each page. -/
def pageParts (a n : Nat) : List (Nat × Nat) :=
  let k := 4096 - a % 4096
  if n ≤ k then [(a, n)] else [(a, k), ((a + k) % 2 ^ 64, n - k)]

/-- The physical parts of a data access: outside far memory one that is aligned, else the misaligned cause `mis`. -/
def dataParts (s : State) (x : Control) (m : MemMode) (exec : Bool) (u : MemUse) (mis a n : Nat) :
    Except ExecTrap (List (Nat × Nat)) :=
  (pageParts a n).foldr (fun p r =>
    match controlPlace s x m exec u p.1, r with
    | .error e, _ => .error e
    | _, .error e => .error e
    | .ok pa, .ok ps =>
      if 2 ^ 52 ≤ pa && (a % n != 0 || p.2 != n) then .error ⟨mis, BitVec.ofNat 64 a, 0, m.virt⟩ else .ok ((pa, p.2) :: ps)) (.ok [])

/-- A load of `n` bytes. -/
def controlLoad (s : State) (x : Control) (m : MemMode) (exec : Bool) (va n : Nat) : Except ExecTrap (Word64 × State) :=
  let a := maskPointer x m va
  match dataParts s x m exec .load 4 a n with
  | .error e => .error e
  | .ok ps =>
    match ps.foldl (fun r p => match r with
      | none => none
      | some (bs, s) => match busLoad s false p.1 p.2 with
        | some (v, s) => some (bs ++ wordBytes p.2 v, s)
        | none => none) (some (([] : List Byte), s)) with
    | some (bs, s) => .ok (bytesWord bs, s)
    | none => .error ⟨5, BitVec.ofNat 64 a, 0, m.virt⟩

/-- A store of `n` bytes: the machine after it, or the row that it writes to. -/
def controlStore (s : State) (x : Control) (m : MemMode) (va n : Nat) (w : Word64) : Except ExecTrap (State × Option Instr) :=
  let a := maskPointer x m va
  let bad : Except ExecTrap (State × Option Instr) := .error ⟨7, BitVec.ofNat 64 a, 0, m.virt⟩
  match dataParts s x m false .store 6 a n with
  | .error e => .error e
  | .ok [p] => (match busStore s false p.1 n w with
    | .fault => bad
    | .done s => .ok (s, none)
    | .row i => .ok (s, some i))
  | .ok ps =>
    if ps.any (fun p => (physRead s p.1 p.2).isNone) then bad
    else .ok (ps.foldl (fun (r : State × List Byte) p => (physWrite r.1 p.1 (r.2.take p.2) false, r.2.drop p.2)) (s, wordBytes n w) |>.1, none)

/-- The physical place of an AMO, LR or SC, which is aligned. -/
def atomicPlace (s : State) (x : Control) (u : MemUse) (va n : Nat) : Except ExecTrap Nat :=
  let m := x.dataMode
  let a := maskPointer x m va
  if a % n != 0 then .error ⟨if u = .load then 4 else 6, BitVec.ofNat 64 a, 0, m.virt⟩ else controlPlace s x m false u a

/-! ### An instruction's end -/

def Control.rd (x : Control) (r : Nat) : Word64 := x.hart.rd (BitVec.ofNat 5 r)
def Control.wr (x : Control) (r : Nat) (v : Word64) : Control := { x with hart := x.hart.wr (BitVec.ofNat 5 r) v }
def Control.at_ (x : Control) (pc : Word64) : Control := { x with hart := { x.hart with pc } }

/-- What an instruction works on: the hart's number, the hart, the word as it stands in memory, the word it stands for, and
the address of the next. -/
structure Exec where
  h : Nat
  x : Control
  raw : Nat
  w : Nat
  next : Word64
  deriving DecidableEq, Repr

/-- The hart goes on to the next instruction, or takes an exception. -/
def Exec.go (c : Exec) (s : State) (y : Control) (row : Option Instr := none) : State × Option Instr :=
  (s.setControl c.h (y.at_ c.next), row)
def Exec.stop (c : Exec) (s : State) (t : ExecTrap) : State × Option Instr :=
  (s.setControl c.h (c.x.except t.cause t.tval (BitVec.ofNat 64 t.gpa) t.gva), none)
/-- An illegal instruction, or a guest's virtual instruction. -/
def Exec.illegal (c : Exec) (s : State) (guest : Bool := false) : State × Option Instr :=
  c.stop s ⟨if guest then 22 else 2, BitVec.ofNat 64 c.raw, 0, false⟩

def Exec.d (c : Exec) : Nat := bits c.w 7 5
def Exec.f (c : Exec) : Nat := bits c.w 12 3
def Exec.r1 (c : Exec) : Nat := bits c.w 15 5
def Exec.r2 (c : Exec) : Nat := bits c.w 20 5

/-! ### The base instructions -/

/-- What a base instruction asks for (log 101). -/
def Exec.act (c : Exec) (s : State) : RvAct → State × Option Instr
  | .done y s => (s.setControl c.h { c.x with hart := y }, none)
  | .illegal => c.illegal s
  | .trap k v => c.stop s ⟨k, v, 0, false⟩
  | .load d a n signed => match controlLoad s c.x c.x.dataMode false a.toNat n with
    | .error t => c.stop s t
    | .ok (v, s) => c.go s (c.x.wr d.toNat (extendLoad v n signed))
  | .store a n v => match controlStore s c.x c.x.dataMode a.toNat n v with
    | .error t => c.stop s t
    | .ok (s, row) => c.go s c.x row
  | .amo op d a n v => match atomicPlace s c.x .store a.toNat n with
    | .error t => c.stop s t
    | .ok pa => match busAmo s false op pa n v with
      | some (o, _, .done s) => c.go s (c.x.wr d.toNat (extendLoad o n true))
      | some (o, s, .row i) => c.go s (c.x.wr d.toNat (extendLoad o n true)) (some i)
      | _ => c.stop s ⟨7, a, 0, c.x.dataMode.virt⟩
  | .lr d a n => match atomicPlace s c.x .load a.toNat n with
    | .error t => c.stop s t
    | .ok pa => match busLoad s false pa n with
      | some (v, s) =>
        let y := c.x.wr d.toNat (extendLoad v n true)
        c.go s { y with hart := { y.hart with resv := some (pa, n, v.toNat) } }
      | none => c.stop s ⟨5, a, 0, c.x.dataMode.virt⟩
  | .sc d a n v => match atomicPlace s c.x .store a.toNat n with
    | .error t => c.stop s t
    | .ok pa =>
      let holds := match c.x.hart.resv, busLoad s false pa n with
        | some r, some (o, _) => r == (pa, n, o.toNat)
        | _, _ => false
      let ends (k : Word64) : Control :=
        let y := c.x.wr d.toNat k
        { y with hart := { y.hart with resv := none } }
      if !holds then c.go s (ends 1)
      else match busStore s false pa n v with
        | .fault => c.stop s ⟨7, a, 0, c.x.dataMode.virt⟩
        | .done s => c.go s (ends 0)
        | .row i => c.go s (ends 0) (some i)

/-! ### SYSTEM -/

/-- A CSR instruction. -/
def Exec.csr (c : Exec) (s : State) : State × Option Instr :=
  let f := c.f
  let named := bits c.w 20 12
  let n := guestCsr c.x.virt named
  let v : Word64 := if 4 ≤ f then BitVec.ofNat 64 c.r1 else c.x.rd c.r1
  let writes := f % 4 == 1 || c.r1 != 0
  match csrBarred c.x named writes with
  | some guest => c.illegal s guest
  | none => match controlCsrRead s c.h c.x n with
    | none => c.illegal s
    | some (old, s1) =>
      let base := if n == 0x344 then (c.x.csrAt 0x344) ||| (c.x.csrAt 0x645 &&& 4) else old
      let new := if f % 4 == 1 then v else if f % 4 == 2 then base ||| v else base &&& ~~~v
      if !writes then c.go s1 (c.x.wr c.d old)
      else match controlCsrWrite s1 c.h c.x n new with
        | some (y, s2) => c.go s2 (y.wr c.d old)
        | none => c.illegal s

/-- A load or store of a hypervisor into its guest; `k` is its funct7. -/
def Exec.guestAccess (c : Exec) (s : State) (k : Nat) : State × Option Instr :=
  let n := 2 ^ ((k - 0x30) / 2)
  let m := c.x.guestMode
  let a := (c.x.rd c.r1).toNat
  if c.x.virt then c.illegal s true
  else if c.x.priv == 0 && !(c.x.csrAt 0x600).getLsbD 9 then c.illegal s
  else if k % 2 == 1 then
    if c.d != 0 then c.illegal s
    else match controlStore s c.x m a n (c.x.rd c.r2) with
      | .error t => c.stop s t
      | .ok (s, row) => c.go s c.x row
  else if !(c.r2 == 0 || (c.r2 == 1 && n != 8) || (c.r2 == 3 && (n == 2 || n == 4))) then c.illegal s
  else match controlLoad s c.x m (c.r2 == 3) a n with
    | .error t => c.stop s t
    | .ok (v, s) => c.go s (c.x.wr c.d (extendLoad v n (c.r2 == 0)))

/-- A fence of address translation, by its funct7: no translation is kept, so it only advances the pc. -/
def Exec.fence (c : Exec) (s : State) (k : Nat) : State × Option Instr :=
  let x := c.x
  let tvm := if x.virt then (x.csrAt 0x600).getLsbD 20 else x.status.getLsbD 20
  let guests := k == 0x11 || k == 0x13 || k == 0x31 || k == 0x33
  if guests && x.virt then c.illegal s true
  else if x.priv == 0 then c.illegal s x.virt
  else if x.priv == 1 && k != 0x18 && k != 0x11 && k != 0x13 && tvm then c.illegal s x.virt
  else c.go s x

/-- A SYSTEM word: calls, returns, waits, which end at once, fences, accesses to a guest, and the CSRs. -/
def Exec.system (c : Exec) (s : State) : State × Option Instr :=
  let x := c.x
  let k := bits c.w 25 7
  let jump (y : Control) : State × Option Instr := (s.setControl c.h y, none)
  match c.f with
  | 0 =>
    (match c.w with
     | 0x00000073 => c.stop s ⟨if x.priv == 3 then 11 else if x.priv == 0 then 8 else if x.virt then 10 else 9, 0, 0, false⟩
     | 0x00100073 => c.stop s ⟨3, x.hart.pc, 0, x.virt⟩
     | 0x30200073 => if x.priv == 3 then jump x.mret else c.illegal s
     | 0x10200073 =>
       if x.priv == 0 then c.illegal s x.virt
       else if x.priv == 1 && x.virt && (x.csrAt 0x600).getLsbD 22 then c.illegal s true
       else if x.priv == 1 && !x.virt && x.status.getLsbD 22 then c.illegal s
       else jump x.sret
     | 0x10500073 | 0x00D00073 | 0x01D00073 => c.go s x
     | _ =>
       if c.d == 0 && ([0x09, 0x0B, 0x11, 0x13, 0x31, 0x33].contains k || (k == 0x18 && c.r1 == 0 && c.r2 < 2)) then c.fence s k
       else c.illegal s)
  | 4 =>
    if 0x30 ≤ k && k < 0x38 then c.guestAccess s k
    else if bits c.w 31 1 == 1 && bits c.w 28 2 == 0 && (bits c.w 25 1 == 1 || bits c.w 22 6 % 16 == 7) then c.go s (x.wr c.d 0)
    else c.illegal s
  | _ => c.csr s

/-! ### Cache blocks -/

/-- Whether a cache-block instruction of kind `k` is enabled: none, or whether a guest's is its hypervisor's to trap. -/
def blockBarred (x : Control) (k : Nat) : Option Bool :=
  let on (env : Word64) : Bool := match k with
    | 0 => bits env.toNat 4 2 != 0
    | 4 => env.getLsbD 7
    | _ => env.getLsbD 6
  if x.priv == 3 then none
  else if !on (x.csrAt 0x30A) then some false
  else if x.virt && !on (x.csrAt 0x60A) then some true
  else if x.priv == 0 && !on (x.csrAt 0x10A) then some x.virt
  else none

/-- CBO: the zeros of CBO.ZERO, 64 bytes; the others only advance the pc, since all caches are coherent (R50). -/
def Exec.block (c : Exec) (s : State) : State × Option Instr :=
  let k := bits c.w 20 12
  let m := c.x.dataMode
  let a := maskPointer c.x m (c.x.rd c.r1).toNat
  if c.d != 0 || !([0, 1, 2, 4] : List Nat).contains k then c.illegal s
  else match blockBarred c.x k with
    | some guest => c.illegal s guest
    | none => match controlPlace s c.x m false .load a, controlPlace s c.x m false .store a with
      | .ok pa, .error t => if k == 4 then c.stop s t else if pa < 2 ^ 52 then c.go s c.x else c.stop s ⟨7, BitVec.ofNat 64 a, 0, m.virt⟩
      | .error _, .error t => c.stop s t
      | _, .ok pa =>
        if 2 ^ 52 ≤ pa || (physRead s pa 1).isNone then c.stop s ⟨7, BitVec.ofNat 64 a, 0, m.virt⟩
        else if k == 4 then c.go (physWrite s (pa / 64 * 64) (List.replicate 64 0) false) c.x
        else c.go s c.x

/-! ### Floating point -/

/-- Whether a unit is on by its field of the status, bit `i` (13 floating point, 9 vectors), in a guest's too. -/
def Control.unitOn (x : Control) (i : Nat) : Bool :=
  bits x.status.toNat i 2 != 0 && (!x.virt || bits (x.csrAt 0x200).toNat i 2 != 0)

/-- The accrued exceptions that floating-point arithmetic raises: free values. -/
def raiseFree (s : State) (x : Control) : State × Control :=
  let (v, s) := freeValue s
  (s, (x.touch 0x6000).setCsr 0x003 (x.csrAt 0x003 ||| (v &&& 0x1F)))

/-- A floating-point computation. -/
def Exec.float (c : Exec) (s : State) : State × Option Instr :=
  match fpShape c.w with
  | none => c.illegal s
  | some (dest, rounds) =>
    if !c.x.unitOn 13 || (rounds && !roundOk c.f (bits (c.x.csrAt 0x003).toNat 5 3)) then c.illegal s
    else
      let put (x : Control) (v : Word64) : Control := match dest with
        | .int => x.wr c.d v
        | .float => { x.touch 0x6000 with f := x.f.put c.d v }
      match fpBits c.x c.w with
      | some v => c.go s (put c.x v)
      | none =>
        let (v, s) := freeValue s
        let (s, x) := raiseFree s c.x
        let k := match bits c.w 25 2 with
          | 0 => 2
          | 1 => 3
          | _ => 1
        c.go s (put x (if dest = .float then boxed k v else v))

/-- A floating-point load or store of 2, 4 or 8 bytes. -/
def Exec.floatMem (c : Exec) (s : State) (load : Bool) : State × Option Instr :=
  if !c.x.unitOn 13 then c.illegal s
  else if load then match controlLoad s c.x c.x.dataMode false (c.x.rd c.r1 + immI c.w).toNat (2 ^ c.f) with
    | .error t => c.stop s t
    | .ok (v, s) => c.go s { c.x.touch 0x6000 with f := c.x.f.put c.d (boxed c.f v) }
  else match controlStore s c.x c.x.dataMode (c.x.rd c.r1 + immS c.w).toNat (2 ^ c.f) (c.x.f.look 0 c.r2) with
    | .error t => c.stop s t
    | .ok (s, row) => c.go s c.x row

/-! ### Vectors -/

/-- The next instruction after a vector one: vstart is 0. -/
def Control.vecDone (x : Control) : Control := (x.touch 0x600).setCsr 0x008 0

/-- The vset instructions. -/
def Exec.vset (c : Exec) (s : State) : State × Option Instr :=
  let x := c.x
  let imm (n : Nat) : Word64 := BitVec.ofNat 64 (bits c.w 20 n)
  let avl : Option Nat := if c.r1 != 0 then some (x.rd c.r1).toNat else if c.d != 0 then some (2 ^ 64) else none
  let set (vt : Word64) (avl : Option Nat) : State × Option Instr :=
    let (vl, vt) := vsetTo x vt avl
    c.go s (((x.vecDone.setCsr 0xC20 vl).setCsr 0xC21 vt).wr c.d vl)
  if bits c.w 31 1 == 0 then set (imm 11) avl
  else if bits c.w 30 1 == 1 then set (imm 10) (some c.r1)
  else if bits c.w 25 7 == 0x40 then set (x.rd c.r2) avl
  else c.illegal s

/-- Free values in `n` registers from `r` on. -/
def freeVector : Nat → Nat → State → Control → State × Control
  | 0, _, s, x => (s, x)
  | n + 1, r, s, x =>
    let (a, s) := freeValue s
    let (b, s) := freeValue s
    freeVector n (r + 1) s { x with v := x.v.put (r % 32) (a ++ b) }

/-- Vector arithmetic: the values, the flags and the saturation bit are free values; a move of whole registers is exact. -/
def Exec.vector (c : Exec) (s : State) : State × Option Instr :=
  let x := c.x
  let f := c.f
  let d := c.d
  let float := f == 1 || f == 5
  let whole := f == 3 && bits c.w 26 6 == 0x27
  if !x.unitOn 9 || (float && !x.unitOn 13) then c.illegal s
  else if f == 7 then c.vset s
  else if whole then
    let n := bits c.w 15 5 + 1
    if !([1, 2, 4, 8] : List Nat).contains n || d % n != 0 || c.r2 % n != 0 then c.illegal s
    else c.go s ({ x with v := (List.range n).foldl (fun v i => v.put (d + i) (x.v.look 0 (c.r2 + i))) x.v }).vecDone
  else match vtypeOf (x.csrAt 0xC21), vecScalar c.w with
    | none, _ => c.illegal s
    | _, some dest =>
      let (v, s) := freeValue s
      c.go s (match dest with
        | .int => x.vecDone.wr d v
        | .float => { x.vecDone.touch 0x6000 with f := x.f.put d v })
    | some (_, m8), none =>
      let n := vecSpan c.w m8
      if 8 < n || d % n != 0 then c.illegal s
      else if (x.csrAt 0xC20).toNat ≤ (x.csrAt 0x008).toNat then c.go s x.vecDone
      else
        let (s, x) := freeVector n d s x
        let (v, s) := freeValue s
        let (s, x) := if float then raiseFree s x else (s, x.setCsr 0x00F (x.csrAt 0x00F ||| (v &&& 1)))
        c.go s x.vecDone

/-- What a vector load or store moves: elements of `2 ^ size` bytes, how many, the fields of each, the registers of a
field, and whether only a fault of the first element is taken. -/
structure VecPlan where
  size : Nat
  count : Nat
  fields : Nat
  regs : Nat
  first : Bool                 -- a load that faults only on the first element
  deriving DecidableEq, Repr

/-- The plan of a word; none where it is reserved. -/
def vecPlan (x : Control) (w : Nat) (load : Bool) : Option VecPlan :=
  let width := match bits w 12 3 with
    | 0 => 0
    | k => k - 4
  let nf := bits w 29 3 + 1
  let vl := (x.csrAt 0xC20).toNat
  let low := bits w 20 5
  let whole := bits w 26 2 == 0 && low == 8
  let mask := bits w 26 2 == 0 && low == 11
  if bits w 28 1 == 1 then none
  else if whole then
    if bits w 25 1 == 0 || !([1, 2, 4, 8] : List Nat).contains nf || (!load && width != 0) then none
    else some ⟨width, nf * 16 / 2 ^ width, 1, nf, false⟩
  else match vtypeOf (x.csrAt 0xC21) with
    | none => none
    | some (sew, m8) =>
      if mask then (if bits w 25 1 == 0 || width != 0 || nf != 1 then none else some ⟨0, (vl + 7) / 8, 1, 1, false⟩)
      else
        let other := m8 * 2 ^ width
        let fits := 2 ^ sew ≤ other && other ≤ 64 * 2 ^ sew
        if !fits then none
        else match bits w 26 2 with
          | 0 =>
            if low == 0 || (low == 16 && load) then some ⟨width, vl, nf, groupRegs (other / 2 ^ sew), low == 16⟩ else none
          | 2 => some ⟨width, vl, nf, groupRegs (other / 2 ^ sew), false⟩
          | _ => some ⟨sew, vl, nf, groupRegs m8, false⟩

/-- The address of field `k` of element `e`. -/
def vecAddress (x : Control) (w : Nat) (p : VecPlan) (e k : Nat) : Word64 :=
  let base := x.rd (bits w 15 5)
  let n := 2 ^ p.size
  let r2 := bits w 20 5
  let step : Word64 := match bits w 26 2 with
    | 0 => BitVec.ofNat 64 (e * p.fields * n)
    | 2 => BitVec.ofNat 64 e * x.rd r2
    | _ => vecElem x r2 e (match bits w 12 3 with
      | 0 => 1
      | j => 2 ^ (j - 4))
  base + step + BitVec.ofNat 64 (k * n)

/-- One field of one element: loaded into its place, or stored. A device register is no place for one. -/
def vecMove (s : State) (x : Control) (w : Nat) (p : VecPlan) (load : Bool) (a : Word64) (e k : Nat) :
    Except ExecTrap (State × Control) :=
  let n := 2 ^ p.size
  let r := bits w 7 5 + k * p.regs
  let m := x.dataMode
  if load then match controlLoad s x m false a.toNat n with
    | .error t => .error t
    | .ok (v, s) => .ok (s, setVecElem x r e n v)
  else match controlStore s x m a.toNat n (vecElem x r e n) with
    | .error t => .error t
    | .ok (s, none) => .ok (s, x)
    | .ok (_, some _) => .error ⟨7, a, 0, m.virt⟩

/-- The elements in order up to the first that faults. Addresses come from the registers as the instruction found them. -/
def vecWalk (x0 : Control) (w : Nat) (p : VecPlan) (load : Bool) :
    List Nat → State → Control → State × Control × Option (Nat × ExecTrap)
  | [], s, x => (s, x, none)
  | e :: es, s, x =>
    let one := if !vecOn x0 w e then .ok (s, x)
      else (List.range p.fields).foldl (fun (r : Except ExecTrap (State × Control)) k => match r with
        | .error t => .error t
        | .ok (s, x) => vecMove s x w p load (vecAddress x0 w p e k) e k) (.ok (s, x))
    match one with
    | .error t => (s, x, some (e, t))
    | .ok (s, x) => vecWalk x0 w p load es s x

/-- A vector load or store. -/
def Exec.vecMem (c : Exec) (s : State) (load : Bool) : State × Option Instr :=
  match vecPlan c.x c.w load with
  | none => c.illegal s
  | some p =>
    let start := (c.x.csrAt 0x008).toNat
    if !c.x.unitOn 9 || 8 < p.fields * p.regs || 32 < c.d + p.fields * p.regs || c.d % p.regs != 0 ||
        (load && bits c.w 25 1 == 0 && c.d == 0) then c.illegal s
    else match vecWalk c.x c.w p load (List.range' start (p.count - start)) s c.x with
      | (s, x, none) => c.go s x.vecDone
      | (s, x, some (e, t)) =>
        if p.first && e != 0 then c.go s (x.vecDone.setCsr 0xC20 (BitVec.ofNat 64 e))
        else ({ c with x := (x.touch 0x600).setCsr 0x008 (BitVec.ofNat 64 e) } : Exec).stop s t

/-! ### The turn of a hart -/

/-- The instruction of a word. -/
def Exec.run (c : Exec) (s : State) (len : Nat) : State × Option Instr :=
  let base : State × Option Instr := c.act s (rvExec s c.x.hart c.w len .illegal)
  match bitWord c.x.hart c.w with
  | some v => c.go s (c.x.wr c.d v)
  | none => match bits c.w 0 7 with
    | 0x73 => c.system s
    | 0x0F => if c.f == 2 then c.block s else base
    | 0x07 => if 1 ≤ c.f && c.f ≤ 3 then c.floatMem s true else if c.f == 4 then c.illegal s else c.vecMem s true
    | 0x27 => if 1 ≤ c.f && c.f ≤ 3 then c.floatMem s false else if c.f == 4 then c.illegal s else c.vecMem s false
    | 0x43 | 0x47 | 0x4B | 0x4F | 0x53 => c.float s
    | 0x57 => c.vector s
    | _ => base

/-- Two bytes of code. -/
def controlFetch (s : State) (x : Control) (va : Nat) : Except ExecTrap Nat :=
  match controlPlace s x x.mode false .fetch va with
  | .error t => .error t
  | .ok pa => match (if pa < 2 ^ 52 then physRead s pa 2 else none) with
    | some (bs, _) => .ok (numOfBytes bs)
    | none => .error ⟨1, BitVec.ofNat 64 va, 0, x.virt⟩

/-- The turn of a control-core hart: an interrupt, or the instruction at pc; a store to a device register is a row of the
opcode table. -/
def applicationStep (s : State) (h : Nat) : State × Option Instr :=
  let x := s.control h
  let at_ (raw w len : Nat) : Exec := ⟨h, x, raw, w, x.hart.pc + BitVec.ofNat 64 len⟩
  if !x.on || 16 ≤ h then (s, none)
  else match pendingInterrupt s h x with
    | some (l, i) => (s.setControl h (x.enter l true i 0 0 false), none)
    | none =>
      let pc := x.hart.pc.toNat
      match controlFetch s x pc with
      | .error t => (at_ 0 0 0).stop s t
      | .ok lo =>
        if lo % 4 != 3 then match rvExpand lo, expandMore lo with
          | some w, _ => (at_ lo w 2).run s 2
          | none, some w => (at_ lo w 2).run s 2
          | none, none => (at_ lo 0 2).illegal s
        else match controlFetch s x ((pc + 2) % 2 ^ 64) with
          | .error t => (at_ 0 0 0).stop s t
          | .ok hi =>
            let w := lo + hi * 65536
            (at_ w w 4).run s 4

end Sys2Proof.Machine
end

