-- ==== Sys2Proof/Machine/Time.lean ====
section
/-! DEFINITION. The passing of time: what the time base does not pass before it has happened (R1, log 100): bounds of links
(R187, R191, R194, R458), TCMP (R450), the writes of copies (R389), the ends of probation (R440), and slot ticks with the starts they bring (R368, R372). -/

namespace Sys2Proof.Machine
open Sys2Proof

/-- Whether a TCMP of a stream that is not saved lies before time `t`: its TIMER comes first (R450). -/
def timerBefore (s : State) (t : Nat) : Bool :=
  s.teams.any (fun e => e.2.th.tcmp.toNat < t) || s.progs.any (fun e => !e.2.saved && e.2.th.tcmp.toNat < t)

/-- Whether something waits for a slot tick: a WAITING bundle, or a unit of a time-triggered one. -/
def tickAwaited (s : State) : Bool :=
  s.launches.any (fun e => e.2.st == .waiting) ||
    s.cores.any (fun e => e.2.unitQueue.any (fun q => q.startTime != 0)) ||
    s.dies.any (fun e => e.2.backlog.any (fun q => q.startTime != 0))

/-- Whether the head unit of a core's queue, or the gang a die would place, starts at this tick; a gang whose cores' copies
lie too far apart has that noted (R372). -/
def startsNow (s : State) : Bool :=
  s.cores.any (fun e => (e.2.unitQueue.head?.map (·.startTime)).getD 0 != 0 && (match execUnitResident e.1 s with
    | .next x => (x.core e.1).unitQueue.length < e.2.unitQueue.length
    | _ => false)) ||
  s.dies.any (fun e => (match dieHead s e.1 with
    | some q => q.gang != 0 && q.startTime != 0 && (match execGangPlace e.1 s with
      | .next x => (x.die e.1).backlog.length < e.2.backlog.length ||
          (x.launch q.launch).map (·.status) != (s.launch q.launch).map (·.status)
      | _ => false)
    | none => false))

/-- Whether a slot tick lies between now and `t`, or this one has not brought all it brings (R368, R372). -/
def tickDue (s : State) (t : Nat) : Bool :=
  s.now < t && tickAwaited s && (s.now / 1000 * 1000 + 1000 < t || (s.now % 1000 == 0 &&
    (s.ticked != s.now || s.launches.any (fun e => e.2.st == .waiting && e.2.time ≤ s.now) || startsNow s)))

/-- Whether a write of a WPOST or CPY could go on at once toward its module: through translation, or onto its link (R386,
R389, log 100). -/
def copyDue (s : State) : Bool :=
  s.reqs.any (fun e => (e.2.kind == .wpost || e.2.kind == .cpyDst) && !e.2.zero &&
    ((translatable s e.1 e.2 && (dataReady s e.2).isSome) || e.2.st == .walking ||
     (match requestPacket s e.1 e.2 with
      | some p => (match linkOf s p.module p.maddr with
        | some n => canSend s n .out p
        | none => false)
      | none => false)))

/-- Whether an end of probation lies before time `t`: of a gap between heartbeats, or of the 500 ms (R440). -/
def roleDue (s : State) (t : Nat) : Bool :=
  s.roles.any (fun e => (e.2.state == 4 && e.2.lastBeat + 1000000 < t) ||
    ((e.2.state == 4 || e.2.state == 5) && e.2.probStart + 500000000 < t))

/-- The time base of 64 bits goes on, unless a bound would be passed (R1, log 100). -/
def elapse (s : State) (ns : Nat) : State :=
  let t := s.now + ns
  if 2 ^ 64 ≤ t || timerBefore s t || tickDue s t || roleDue s t || (s.now < t && copyDue s) || s.links.any (fun e => linkDue s e.1 e.2 t) then s
  else { s with now := t, links := s.links.map (fun (e : Nat × Link) => (e.1, linkLater s e.1 e.2 t)) }

end Sys2Proof.Machine
end

