-- ==== Sys2Proof/Machine/Issue.lean ====
section
/-! DEFINITION. What a turn of the schedule leads to: which agent acts, the traps it takes first (R390), the fetch of
its instruction and what a refused word leads to (R208, R231, R245, R436). -/

namespace Sys2Proof.Machine
open Sys2Proof

/-- What a turn leads to: an instruction or occasion to execute, or a result without one. -/
inductive Act where
  | run (s : State) (i : Instr)
  | result (r : Result)

/-- Nothing happens. -/
def Act.idle (s : State) : Act := .result (.next s)

/-- Fetch, check and decode the scalar instruction at SPC of the acting stream. A unaligned SPC is ILLEGAL 0x18, a
noncanonical one XLATE; a missing line is asked for (R47, R208, R231, R265). -/
def fetchScalar (s : State) (a : Agent) (mcc : Bool) : Act :=
  match s.thread a with
  | none => .idle s
  | some th =>
    let pc := th.spc.toNat
    if pc % 4 != 0 then .result (illegal s 0 0x18)
    else if nonCanon pc then .result (trapNow s causeXlate (asyncWord 6 2 pc))
    else match codeParcel s a pc with
      | none => .result (.next (block (codeMiss s a pc) (.code pc)))
      | some w => match scalarDecode mcc w with
        | .ok i => .run s i
        | .error b => .result (illegal s w b.code)

/-- A stream's turn: the lowest cause that waits is taken, or the next instruction is fetched (R390). -/
def streamTurn (s : State) (a : Agent) (mcc : Bool) : Act :=
  match nextTrap s a with
  | some _ => .run s (.trapEntry a)
  | none => fetchScalar s a mcc

/-- The turn of a team's scalar stream: it issues while its team is in the active set (R228, R379); a team parked in SYSC
watches its call (R284). -/
def teamTurn (s : State) (core slot : Nat) : Act :=
  let s := { s with cur := .team core slot }
  if core ≥ 1024 || slot ≥ 32 then .idle s
  else
    let s := settleCore s core
    match s.team core slot with
    | none => .idle s
    | some t =>
      if t.set_ == .parked || (t.set_ == .active && (!t.th.wait.blocks || waitOver s t || t.th.pending.any (fun p => !p.shelf)))
      then streamTurn s (.team core slot) false
      else .idle s

/-- The turn of a team's lane stream: the head of its queue, outside handler mode (R210, R393), when its team is the one
that the datapath serves; at the ageing cap the team is demoted instead (R378, R379). -/
def laneTurn (s : State) (core slot : Nat) : Act :=
  let s := { s with cur := .team core slot }
  if core ≥ 1024 || slot ≥ 32 then .idle s
  else
    let s := settleCore s core
    match s.team core slot with
    | none => .idle s
    | some t =>
      if t.set_ != .active || t.th.handler then .idle s
      else match nextTrap s (.team core slot) with
        | some _ => .run s (.trapEntry (.team core slot))
        | none =>
        if passCap s core slot then .run { s with cur := .device } (.ageingCapDemote core slot)
        else if onDatapath s core != some slot then .idle s
        else
        let s := serve s core slot t
        match t.queue with
          | [] => .idle s
          | e :: _ => match laneDecode (e.tmode.getLsbD 0) e.parcels with
            | .ok i => .run s i
            | .error _ => .idle s

/-- The turn of a matrix program: the ready programs of a cluster issue in turn, oldest first (R345). -/
def progTurn (s : State) (cl slot : Nat) : Act :=
  let s := { s with cur := .prog cl slot }
  if cl ≥ 256 || slot ≥ 4 then .idle s
  else match progDue s cl with
    | some (k, fresh) => if k == slot then streamTurn (serveProg s cl slot fresh) (.prog cl slot) true else .idle s
    | none => .idle s

/-- Whether a hart's image is frozen (R440). -/
def hartFrozen (s : State) (h : Nat) : Bool := (s.role h).state == 3

/-- A base instruction of a firmware hart: `raw` is the word as it stands in memory, `w` what it stands for (log 101). -/
def hartBase (s : State) (h raw w len : Nat) : Act :=
  let x := s.hart h
  let next := x.pc + BitVec.ofNat 64 len
  let go (s : State) (y : Hart) : Act := .result (.next (s.setHart h { y with pc := next }))
  match rvExec s x w len (rvSystem s h x w next) with
  | .done y s => .result (.next (s.setHart h y))
  | .illegal => .result (hartTrap s 2 (BitVec.ofNat 64 raw))
  | .trap c v => .result (hartTrap s c v)
  | .load d a n signed =>
    if unaligned false a.toNat n then .result (hartTrap s 4 a)
    else (match busLoad s true a.toNat n with
      | some (v, s) => go s (x.wr d (extendLoad v n signed))
      | none => .result (hartTrap s 5 a))
  | .store a n v =>
    if unaligned false a.toNat n then .result (hartTrap s 6 a)
    else (match busStore s true a.toNat n v with
      | .fault => .result (hartTrap s 7 a)
      | .done s => go s x
      | .row i => .run (s.setHart h { x with pc := next }) i)
  | .amo op d a n v =>
    if unaligned true a.toNat n then .result (hartTrap s 6 a)
    else (match busAmo s true op a.toNat n v with
      | some (o, _, .done s) => go s (x.wr d (extendLoad o n true))
      | some (o, s, .row i) => .run (s.setHart h { x.wr d (extendLoad o n true) with pc := next }) i
      | _ => .result (hartTrap s 7 a))
  | .lr d a n =>
    if unaligned true a.toNat n then .result (hartTrap s 4 a)
    else (match busLoad s true a.toNat n with
      | some (v, s) => go s { x.wr d (extendLoad v n true) with resv := some (a.toNat, n, v.toNat) }
      | none => .result (hartTrap s 5 a))
  | .sc d a n v =>
    let holds := match x.resv, busLoad s true a.toNat n with
      | some r, some (o, _) => r == (a.toNat, n, o.toNat)
      | _, _ => false
    let lost : Hart := { x.wr d 1 with resv := none }
    let won : Hart := { x.wr d 0 with resv := none }
    if unaligned true a.toNat n then .result (hartTrap s 6 a)
    else if !holds then go s lost
    else (match busStore s true a.toNat n v with
      | .fault => .result (hartTrap s 7 a)
      | .done s => go s won
      | .row i => .run (s.setHart h { won with pc := next }) i)

/-- The firmware external interrupt of a hart, cause 11, where it is enabled: a hart parked in SWAIT leaves it, with mepc
at the SWAIT (R436, log 101). -/
def hartInterrupt (s : State) (h : Nat) : Option State :=
  let x := s.hart h
  if s.fwIrq.look 0 h != 0 && x.mstatus.getLsbD 3 && x.mie.getLsbD 11 then
    let y := x.trap (2 ^ 63 + 11) 0
    let y := if x.mtvec.getLsbD 0 then { y with pc := y.pc + 44 } else y
    some ((forgetHart { s with fwIrq := s.fwIrq.put h 0 } h).setHart h y)
  else none

/-- A word fetched by a hart: a custom-0 word is one of the six instructions or the illegal-instruction exception,
mcause 2; the other words are the base ISA's, 16-bit ones among them (R1, R262, R436, log 6). -/
def hartWord (s : State) (h w : Nat) : Act :=
  if w % 4 != 3 then match rvExpand (w % 65536) with
    | some e => hartBase s h (w % 65536) e 2
    | none => .result (hartTrap s 2 (BitVec.ofNat 64 (w % 65536)))
  else match firmwareDecode w with
    | some i => .run s i
    | none =>
      if w % 128 == 0x0B then .result (hartTrap s 2 (BitVec.ofNat 64 w)) else hartBase s h w w 4

/-- The turn of a firmware hart: its interrupt, or the instruction at pc, which is even (R1, R262). -/
def hartTurn (s : State) (h : Nat) : Act :=
  let s := { s with cur := .hart h }
  if h ≥ 4 || hartFrozen s h then .idle s
  else match hartInterrupt s h with
    | some s => .idle s
    | none =>
      let pc := (s.hart h).pc
      if pc.toNat % 2 != 0 then .result (hartTrap s 0 pc)
      else if 2 ^ 52 ≤ pc.toNat then .result (hartTrap s 1 pc)
      else match physRead s pc.toNat 2 with
        | none => .result (hartTrap s 1 pc)
        | some (bs, _) =>
          let lo := numOfBytes bs
          if lo % 4 != 3 then hartWord s h lo
          else match physRead s (pc.toNat + 2) 2 with
            | none => .result (hartTrap s 1 pc)
            | some (cs, _) => hartWord s h (lo + numOfBytes cs * 65536)

/-- The turn of a control-core hart's access (R48). -/
def controlTurn (s : State) (h : Nat) (op : BusOp) : Act :=
  match controlAccess { s with cur := .device } h op with
  | (s, some i) => .run s i
  | (s, none) => .idle s

/-- The turn of a control-core hart: an interrupt, or the instruction at pc (R443). -/
def applicationTurn (s : State) (h : Nat) : Act :=
  match applicationStep { s with cur := .device } h with
  | (s, some i) => .run s i
  | (s, none) => .idle s

/-- An error in a word of a scratchpad, or in a team's registers, lane queue or state (R81, R406). -/
def damageWord (s : State) (core word kind : Nat) : State :=
  if kind == 1 || kind == 2 then { s with mem := { s.mem with ecc := s.mem.ecc.put (spadKey core (8 * word) / 8) kind } } else s

/-- Whether an instruction is an occasion: no word names it. -/
def isOccasion (i : Instr) : Bool := (encode i).isEmpty && occasionOk i

/-- The turn of an agent. -/
def agentTurn (s : State) : Agent → Act
  | .team c t => teamTurn s c t
  | .prog c p => progTurn s c p
  | .hart h => hartTurn s h
  | .device => .idle s

/-- What the next turn leads to. With no turn left, the agent that acted last acts again (log 1). -/
def nextAct (s : State) : Act :=
  match s.sched with
  | [] => agentTurn s s.cur
  | t :: rest =>
    let s := { s with sched := rest }
    match t with
    | .scalar c k => teamTurn s c k
    | .lane c k => laneTurn s c k
    | .matrix c k => progTurn s c k
    | .firmware h => hartTurn s h
    | .control h op => controlTurn s h op
    | .application h => applicationTurn s h
    | .damage core word kind => .idle { damageWord s (core % 1024) (word % 0x40000) kind with cur := .device }
    | .damageTeam core slot => .idle { s.onTeam core slot (fun t => { t with hurt := true }) with cur := .device }
    | .intx _ => .idle { s with cur := .device }
    | .occasion i => if isOccasion i then .run { s with cur := .device } i else .idle { s with cur := .device }
    | .elapse ns => .idle { elapse s ns with cur := .device }

/-- What follows every step: saves that can go on, damaged words that were read, and the next step of bring-up (R81, R408,
R459). -/
def settle : Result → Result
  | .next s => .next (bootSettle (settleEcc (settleUnits s)))
  | .fault f => .fault f
  | .refused r => .refused r

/-! ### Placing an instruction where a step fetches it (log 1) -/

/-- A unit of one 32-lane team on core 0, with some of each resource (R365). -/
def loneUnit : UnitRec :=
  { UnitRec.start 0 0 0 0 0 ⟨1, 1, 0x10000, 16, 16, 4, 16⟩ with st := .running, slots := [0] }

/-- A launched team of 32 lanes at `spc` in slot 0 of core 0. -/
def placeTeam (s : State) (spc : Word64) (queue : List LaneEntry) : State :=
  { s with nextId := max s.nextId 2, units := s.units.put 1 loneUnit,
           teams := s.teams.put 0 { Team.start 1 0 1 spc 0 0 with set_ := .active, queue },
           cur := .team 0 0 }

/-- A matrix program at `spc` in slot 0 of cluster 0. -/
def placeProg (s : State) (spc : Word64) : State :=
  { s with progs := s.progs.put 0 ⟨0, 0, Thread.start spc, 16, [], false, false, 0⟩, cur := .prog 0 0 }

/-- The code parcel `w` in the cache of the acting stream, at `va`. -/
def placeCode (s : State) (va w : Nat) : State :=
  { s with code := s.code.put (codeKey s s.cur va) (BitVec.ofNat 32 w) }

/-- Firmware hart 0 at far physical address 0, with the word there: extent 0 granted and routed to module 0. -/
def placeHart (s : State) (w : Nat) : State :=
  { s with extLive := s.extLive.put 0 0x0001000000000000#64, mrtLive := s.mrtLive.put 0 1#64,
           mem := { s.mem with far := putBytes s.mem.far (farKey 0 0) (bytesOfNum 4 w) },
           harts := s.harts.put 0 { s.hart 0 with pc := 0 }, cur := .hart 0 }

/-- The next step fetches exactly the instruction of a table row's bits: from the lane instruction queue for three or
four parcels, else at SPC of a team, of a matrix program, or at pc of a firmware hart, whichever decoder reads it. -/
def placeWord (s : State) (nbits w : Nat) : State :=
  let w := w % 2 ^ nbits
  if 32 < nbits then
    let all := parcelsOf 4 w
    let ps := all.take (laneParcels (w % 2 ^ 32))
    let qm := (optOf (laneDecode false ps)).isNone
    { placeTeam s 0x1000#64 [⟨ps, 0, if qm then 1 else 0, [], 0, 0⟩] with sched := [.lane 0 0] }
  else if firmwareFirst w && (firmwareDecode w).isSome then { placeHart s w with sched := [] }
  else if (optOf (scalarDecode false w)).isSome then
    { placeCode (placeTeam s 0x1000#64 []) 0x1000 w with sched := [] }
  else if (optOf (scalarDecode true w)).isSome then
    { placeCode (placeProg s 0x1000#64) 0x1000 w with sched := [] }
  else { placeHart s w with sched := [] }

end Sys2Proof.Machine
end

