-- ==== Sys2Proof/Machine/Step.lean ====
section
/-! DEFINITION. One step of the machine, and the placing of an instruction where it is fetched. -/

namespace Sys2Proof.Machine
open Sys2Proof

/-- One step: what the next turn of the schedule leads to. -/
def step (s : State) : Host.Outcome State Fault Refusal :=
  match nextAct s with
  | .run t i => settle (exec i t)
  | .result r => settle r

/-- `s` with an instruction stored where step fetches its next one. -/
def State.withFetchWord (s : State) (nbits w : Nat) : State := placeWord s nbits w

end Sys2Proof.Machine
end

