-- ==== Sys2Proof/Safety.lean ====
section
/-! DEFINITION. What counts as a safe run: no step of it faults. -/

namespace Sys2Proof.Safety
open Sys2Proof

/-- A state whose next step gives a state. -/
def Goes (s : Machine.State) : Prop := ∃ t, Machine.step s = .next t

/-- `n` steps from a state, where each of them gives a next state. -/
def runs : Nat → Machine.State → Option Machine.State
  | 0, s => some s
  | n + 1, s => match Machine.step s with
    | .next t => runs n t
    | _ => none

/-- A run of any length from a state never faults and never meets a refusal. -/
def Safe (s : Machine.State) : Prop := ∀ n, (runs n s).isSome = true

end Sys2Proof.Safety
end

