-- ==== Sys2Proof/Certificates/Slice0/Obligations.lean ====
section
/-! DEFINITION. The statements for the provers, from the numbered rules of the manual, and the words they are said in. -/

namespace Sys2Proof.Claims
open Sys2Proof Sys2Proof.Machine

/-! ### Words the statements share -/

/-- The acting stream is `th`, and each register of `rs` is full (R211, R263). -/
def Ready (s : State) (th : Thread) (rs : List (BitVec 5)) : Prop :=
  s.thread s.cur = some th ∧ ∀ r ∈ rs, th.full r = true

/-- A slot of a core, in the key of which no other slot stands (R1, R223). -/
def SlotOn (c sl : Nat) : Prop := c < 0x10000 ∧ sl < 32

/-- The acting stream is team `t`, in slot `sl` of core `c`, of unit record `u`. -/
def Acting (s : State) (c sl : Nat) (t : Team) (u : UnitRec) : Prop :=
  s.cur = .team c sl ∧ SlotOn c sl ∧ s.team c sl = some t ∧ s.unit t.unit = some u

/-- The acting stream is program `p`, in slot `sl` of cluster `cl`. -/
def ActingProg (s : State) (cl sl : Nat) (p : Prog) : Prop := s.cur = .prog cl sl ∧ sl < 4 ∧ s.prog cl sl = some p

/-- An agent whose stream is on a core: a team in one of its slots, or a program in one of a cluster's (R1, R345). -/
def OnCore : Agent → Prop
  | .team c sl => SlotOn c sl
  | .prog _ sl => sl < 4
  | _ => False

/-- Everything but the streams and the units is as it was: all memory, all special registers, all traffic. -/
def RestSame (s t : State) : Prop := t = { s with teams := t.teams, progs := t.progs, units := t.units }

/-- What a stream holds beside its pc, its g registers and its wait: the trap registers, the timer compare, the
pre-emption request and the causes that wait. -/
def ThreadKept (a b : Thread) : Prop :=
  b.tvec = a.tvec ∧ b.tcause = a.tcause ∧ b.tepc = a.tepc ∧ b.tinfo = a.tinfo ∧ b.tcmp = a.tcmp ∧ b.preq = a.preq ∧
    b.pending = a.pending

/-- Between `s` and `t` the acting stream changed no g register but `d`, and nothing else changed but its pc, its wait
and its team's place in the active set; every byte of every memory reads as before. -/
def RegisterFrame (s t : State) (d : BitVec 5) : Prop :=
  RestSame s t ∧ t.units = s.units ∧
  (∀ k, byteAt t.mem.far k = byteAt s.mem.far k) ∧ (∀ k, byteAt t.mem.spad k = byteAt s.mem.spad k) ∧
  (∀ a, OnCore a → a ≠ s.cur → t.thread a = s.thread a) ∧
  (∀ th th', s.thread s.cur = some th → t.thread s.cur = some th' →
    ThreadKept th th' ∧ ∀ r, r ≠ d → th'.rd r = th.rd r) ∧
  (∀ c sl x y, s.cur = .team c sl → s.team c sl = some x → t.team c sl = some y →
    y = { x with th := y.th, set_ := y.set_ }) ∧
  (∀ c sl x y, s.cur = .prog c sl → s.prog c sl = some x → t.prog c sl = some y → y = { x with th := y.th })

/-! ### The value tables of the scalar instructions -/

/-- Sources, destination and value of a register instruction, as the tables of R266, R267 and R268 give them. -/
def registerValue (rd : BitVec 5 → Word64) : Instr → Option (List (BitVec 5) × BitVec 5 × Word64)
  | .add d a b => some ([a, b], d, rd a + rd b)
  | .sub d a b => some ([a, b], d, rd a - rd b)
  | .and d a b => some ([a, b], d, rd a &&& rd b)
  | .or d a b => some ([a, b], d, rd a ||| rd b)
  | .xor d a b => some ([a, b], d, rd a ^^^ rd b)
  | .andn d a b => some ([a, b], d, rd a &&& ~~~(rd b))
  | .sll d a b => some ([a, b], d, rd a <<< ((rd b).toNat % 64))
  | .srl d a b => some ([a, b], d, rd a >>> ((rd b).toNat % 64))
  | .sra d a b => some ([a, b], d, (rd a).sshiftRight ((rd b).toNat % 64))
  | .mul d a b => some ([a, b], d, rd a * rd b)
  | .mulhs d a b => some ([a, b], d, BitVec.ofInt 64 ((rd a).toInt * (rd b).toInt / 2 ^ 64))
  | .mulhn d a b => some ([a, b], d, BitVec.ofNat 64 ((rd a).toNat * (rd b).toNat / 2 ^ 64))
  | .div d a b => some ([a, b], d, if rd b = 0 then BitVec.allOnes 64 else (rd a).sdiv (rd b))
  | .divn d a b => some ([a, b], d, if rd b = 0 then BitVec.allOnes 64 else rd a / rd b)
  | .rem d a b => some ([a, b], d, if rd b = 0 then rd a else (rd a).srem (rd b))
  | .remn d a b => some ([a, b], d, if rd b = 0 then rd a else rd a % rd b)
  | .min d a b => some ([a, b], d, if (rd a).sle (rd b) then rd a else rd b)
  | .max d a b => some ([a, b], d, if (rd a).sle (rd b) then rd b else rd a)
  | .minn d a b => some ([a, b], d, if rd a ≤ rd b then rd a else rd b)
  | .maxn d a b => some ([a, b], d, if rd a ≤ rd b then rd b else rd a)
  | .slt d a b => some ([a, b], d, if (rd a).slt (rd b) then 1 else 0)
  | .sltn d a b => some ([a, b], d, if rd a < rd b then 1 else 0)
  | .seq d a b => some ([a, b], d, if rd a = rd b then 1 else 0)
  | .addi d a i => some ([a], d, rd a + i.signExtend 64)
  | .andi d a i => some ([a], d, rd a &&& i.setWidth 64)
  | .ori d a i => some ([a], d, rd a ||| i.setWidth 64)
  | .xori d a i => some ([a], d, rd a ^^^ i.setWidth 64)
  | .slli d a n => some ([a], d, rd a <<< n.toNat)
  | .srli d a n => some ([a], d, rd a >>> n.toNat)
  | .srai d a n => some ([a], d, (rd a).sshiftRight n.toNat)
  | .ghi d i => some ([], d, i.signExtend 64 <<< 16)
  | .gsh d a i => some ([a], d, (rd a <<< 16) ||| i.setWidth 64)
  | .slti d a i => some ([a], d, if (rd a).slt (i.signExtend 64) then 1 else 0)
  | .sltin d a i => some ([a], d, if rd a < i.signExtend 64 then 1 else 0)
  | _ => none

/-- Registers and test of a register branch, with its offset (R269). -/
def branchTaken (rd : BitVec 5 → Word64) : Instr → Option (List (BitVec 5) × Bool × BitVec 16)
  | .beq a b o => some ([a, b], rd a == rd b, o)
  | .bne a b o => some ([a, b], rd a != rd b, o)
  | .blt a b o => some ([a, b], (rd a).slt (rd b), o)
  | .bge a b o => some ([a, b], !(rd a).slt (rd b), o)
  | .bltn a b o => some ([a, b], (rd a).ult (rd b), o)
  | .bgen a b o => some ([a, b], !(rd a).ult (rd b), o)
  | _ => none

/-- The destination of an instruction whose only result is a g register: register arithmetic, TIME, LVL RD and the
queries of barriers, tags, windows, identifiers and masks. -/
def registerDest : Instr → Option (BitVec 5)
  | .clz d _ | .ctz d _ | .popc d _ | .time d | .lvlRd d _ | .barQuery d _ | .tagFfr d _ | .tagRead d _ | .winQry d _
  | .tidQry d _ | .kcnt d _ | .kfst d _ | .krdw d _ _ => some d
  | i => (registerValue (fun _ => 0) i).map (·.2.1)

/-- Mask result of a mask instruction of a team (R275). -/
def maskValue (t : Team) : Instr → Option (List (BitVec 3) × BitVec 3 × BitVec 1024)
  | .kand d a b => some ([a, b], d, t.mask a.toNat &&& t.mask b.toNat)
  | .kor d a b => some ([a, b], d, t.mask a.toNat ||| t.mask b.toNat)
  | .kxor d a b => some ([a, b], d, t.mask a.toNat ^^^ t.mask b.toNat)
  | .kandn d a b => some ([a, b], d, t.mask a.toNat &&& ~~~(t.mask b.toNat))
  | .knot d a => some ([a], d, ~~~(t.mask a.toNat))
  | .kmov d a => some ([a], d, t.mask a.toNat)
  | .kall d => some ([], d, BitVec.allOnes 1024)
  | .kclr d => some ([], d, 0)
  | _ => none

/-- The waits of R220 on the masks an instruction reads and writes have ended: no enqueued lane instruction writes a
mask that is read, or reads or writes the one that is written, and no access or port element is out that may. -/
def MasksFree (s : State) (c sl : Nat) (t : Team) (reads writes : List (BitVec 3)) : Prop :=
  (∀ m ∈ reads, maskReadable s c sl t m.toNat = true) ∧ (∀ m ∈ writes, maskWritable s c sl t m.toNat = true)

/-! ### Scratchpad accesses of the scalar stream -/

/-- An offset that the checks of R41, R67, R79 and R278 let through: aligned, in the allocation, in no armed range. -/
def OffsetPasses (u : UnitRec) (off n : Nat) : Prop :=
  off % n = 0 ∧ off < 2 ^ 21 ∧ off + n ≤ u.need.spad ∧ u.armedAt off n = none

/-- Between `s` and `t` only the acting stream and the damage notes of the scratchpad words read (R81) changed, and of
the stream no g register but `d`. -/
def LoadFrame (s t : State) (d : BitVec 5) : Prop :=
  t = { s with teams := t.teams, mem := { s.mem with ecc := t.mem.ecc } } ∧
  (∀ a, OnCore a → a ≠ s.cur → t.thread a = s.thread a) ∧
  (∀ th th', s.thread s.cur = some th → t.thread s.cur = some th' →
    ThreadKept th th' ∧ (∀ r, r ≠ d → th'.rd r = th.rd r)) ∧
  (∀ c sl x y, s.cur = .team c sl → s.team c sl = some x → t.team c sl = some y → y = { x with th := y.th })

/-- Between `s` and `t` the `bs.length` bytes from scratchpad key `k` became `bs`; every other byte of every memory reads as
before, a word written whole is clean and another as poisoned as it was, and of the acting stream no g register but `d`
changed. -/
def StoreFrame (s t : State) (k : Nat) (bs : List Byte) (d : BitVec 5) : Prop :=
  t = { s with teams := t.teams, mem := { s.mem with spad := t.mem.spad, spadPsn := t.mem.spadPsn, ecc := t.mem.ecc } } ∧
  (∀ j, byteAt t.mem.spad j = if k ≤ j ∧ j < k + bs.length then (bs[j - k]?).getD 0 else byteAt s.mem.spad j) ∧
  (setSorted s.mem.spadPsn = true →
    ∀ w, w ∈ t.mem.spadPsn ↔ w ∈ s.mem.spadPsn ∧ ¬(k ≤ 8 * w ∧ 8 * w + 8 ≤ k + bs.length)) ∧
  (∀ a, OnCore a → a ≠ s.cur → t.thread a = s.thread a) ∧
  (∀ th th', s.thread s.cur = some th → t.thread s.cur = some th' →
    ThreadKept th th' ∧ (∀ r, r ≠ d → th'.rd r = th.rd r)) ∧
  (∀ c sl x y, s.cur = .team c sl → s.team c sl = some x → t.team c sl = some y → y = { x with th := y.th })

/-- The new value of a 64-bit atomic on the old value `m` (R256). -/
def atomicNew (m b c : Word64) : Nat → Word64
  | 0x0 => m + b
  | 0x1 => m - b
  | 0x2 => if m.sle b then m else b
  | 0x3 => if m.sle b then b else m
  | 0x4 => if m ≤ b then m else b
  | 0x5 => if m ≤ b then b else m
  | 0x6 => m &&& b
  | 0x7 => m ||| b
  | 0x8 => m ^^^ b
  | 0x9 => b
  | 0xA => if m = c then b else m
  | 0xD => b
  | _ => m

/-- An operation and an order that GATM takes (R256, R279). -/
def AtomicTaken (r : BitVec 2) (o : BitVec 4) : Prop :=
  o ≠ 0xB ∧ o ≠ 0xE ∧ o ≠ 0xF ∧ (o = 0xC → r = 0 ∨ r = 1) ∧ (o = 0xD → r = 0 ∨ r = 2)

/-- The acting stream after an instruction: `th` with gd written and the pc 4 on. -/
def Retired (s t : State) (d : BitVec 5) (v : Word64) : Prop :=
  ∃ th, s.thread s.cur = some th ∧ t.thread s.cur = some ((th.wr d v).goto (th.spc + 4))

/-- A trap is taken now: TRAP_ENTRY with the instruction in TEPC (R390, R392). -/
def Traps (s : State) (i : Instr) (th : Thread) (cause : Nat) (info : Word64) : Prop :=
  exec i s = .next (takeTrap s s.cur cause 0 th.spc none info)

/-- ILLEGAL of an instruction with a code of R265: TINFO [63:32] is its word (R231). -/
def Refused (s : State) (i : Instr) (th : Thread) (code : Nat) : Prop :=
  Traps s i th 0x01 (BitVec.ofNat 64 (((encode i).headD 0) % 2 ^ 32 * 2 ^ 32 + code))

/-- A scalar scratchpad access whose codes the tables give, its registers full: its offset, its bytes, and whether it reads
(R278, R279). -/
def ScalarAccess (th : Thread) (i : Instr) (off n : Nat) (reads : Bool) : Prop :=
  (∃ d a sz im, i = .gld d a sz im ∧ sz ≠ 7 ∧ (∀ r ∈ [a, d], th.full r = true) ∧ off = (th.rd a + im.signExtend 64).toNat ∧
    n = 2 ^ (sz.toNat / 2) ∧ reads = true) ∨
  (∃ d a sz im, i = .gst d a sz im ∧ sz.toNat % 2 = 0 ∧ (∀ r ∈ [a, d], th.full r = true) ∧
    off = (th.rd a + im.signExtend 64).toNat ∧ n = 2 ^ (sz.toNat / 2) ∧ reads = false) ∨
  (∃ d a b c r o, i = .gatm d a b c r o ∧ AtomicTaken r o ∧ (∀ x ∈ [a, b, c, d], th.full x = true) ∧ off = (th.rd a).toNat ∧
    n = 8 ∧ reads = true)

/-! ### Control registers -/

/-- What a control register of a team holds after a write: read-only bits and reserved bits stay (R7, R114, R224, R225,
R227, R394). -/
def csrWritten (n : Nat) (old new : Word64) : Word64 :=
  match n with
  | 0x01 | 0x02 | 0x03 => new &&& 0x1F
  | 0x05 => (old &&& 0x8000000000000000) ||| (new &&& 0xFFFF)
  | 0x0F => new &&& 0xDFDFDFDF
  | _ => new

/-- The new value a CSR instruction forms (R280), its register and its operand. -/
def csrForms (old g : Word64) (d a : BitVec 5) (n : BitVec 14) : List (Instr × Word64) :=
  [(.csrWr d a n, g), (.csrSet d a n, old ||| g), (.csrClr d a n, old &&& ~~~g)]

end Sys2Proof.Claims

open Sys2Proof Sys2Proof.Machine Sys2Proof.Claims

/-! ### Scalar arithmetic, branches and masks -/

/-- R266 to R268: each register instruction, its registers full, completes with gd its table value and the pc 4 on. -/
def Obligations.ScalarResults : Prop :=
  ∀ (s : State) (th : Thread) (i : Instr) (srcs : List (BitVec 5)) (d : BitVec 5) (v : Word64),
    registerValue th.rd i = some (srcs, d, v) → Ready s th (d :: srcs) →
    exec i s = .next (s.onThread s.cur (fun t => (t.wr d v).goto (t.spc + 4)))

/-- R266, CLZ, CTZ and POPC: each completes, and its result counts the leading or trailing zero bits (64 of zero) or the
one bits. -/
def Obligations.ScalarCounts : Prop :=
  ∀ (s : State) (th : Thread) (d a : BitVec 5), Ready s th [a, d] →
    ∃ z t p : Nat,
      exec (.clz d a) s = .next (retireWith s d (BitVec.ofNat 64 z)) ∧
      exec (.ctz d a) s = .next (retireWith s d (BitVec.ofNat 64 t)) ∧
      exec (.popc d a) s = .next (retireWith s d (BitVec.ofNat 64 p)) ∧
      z ≤ 64 ∧ (∀ j, 64 - z ≤ j → j < 64 → (th.rd a).getLsbD j = false) ∧ (z < 64 → (th.rd a).getLsbD (63 - z) = true) ∧
      t ≤ 64 ∧ (∀ j, j < t → (th.rd a).getLsbD j = false) ∧ (t < 64 → (th.rd a).getLsbD t = true) ∧
      p = ((List.range 64).filter (fun j => (th.rd a).getLsbD j)).length

/-- R269: a register branch completes at its own address plus 4 times its offset when its test holds, else 4 on; no
register changes. R270: JAL and JALR link into g31 and jump; JALR reads ga before it writes g31, and a target that is not a
multiple of 4 traps ILLEGAL with code 0x18, the JALR in TEPC and g31 as it was. That TINFO [63:32] is the JALR's word is the
model's reading (log 10). -/
def Obligations.BranchesAndJumps : Prop :=
  (∀ (s : State) (th : Thread) (i : Instr) (rs : List (BitVec 5)) (taken : Bool) (o : BitVec 16),
     branchTaken th.rd i = some (rs, taken, o) → Ready s th rs →
     exec i s = .next (s.onThread s.cur (fun t =>
       t.goto (if taken then t.spc + (o.signExtend 64 <<< 2) else t.spc + 4)))) ∧
  (∀ (s : State) (th : Thread),
     (∀ o, Ready s th [31] → exec (.jal o) s = .next (s.onThread s.cur (fun t =>
       (t.wr 31 (t.spc + 4)).goto (t.spc + (o.signExtend 64 <<< 2))))) ∧
     (∀ a im, Ready s th [a, 31] → (th.rd a + im.signExtend 64).toNat % 4 = 0 →
       exec (.jalr a im) s = .next (s.onThread s.cur (fun t =>
         (t.wr 31 (t.spc + 4)).goto (th.rd a + im.signExtend 64)))) ∧
     (∀ a im, Ready s th [a, 31] → (th.rd a + im.signExtend 64).toNat % 4 ≠ 0 →
       exec (.jalr a im) s = .next (takeTrap s s.cur 0x01 0 th.spc none
         (BitVec.ofNat 64 (((encode (.jalr a im)).headD 0) % 2 ^ 32 * 2 ^ 32 + 0x18)))))

/-- The frame of the instructions whose only result is a g register: whenever one of them answers a next state in which
no trap was taken, nothing but that register, the pc, the wait and the team's place in the active set has changed. -/
def Obligations.RegisterFrames : Prop :=
  ∀ (i : Instr) (d : BitVec 5) (s t : State), registerDest i = some d → OnCore s.cur → exec i s = .next t →
    (∀ th th', s.thread s.cur = some th → t.thread s.cur = some th' → th'.tcause = th.tcause → RegisterFrame s t d)

/-- R275: a mask instruction completes once the waits of R220 have ended; the mask it names holds the table value over
the launched lanes, every other mask is as it was. -/
def Obligations.MaskResults : Prop :=
  ∀ (s : State) (c sl : Nat) (t : Team) (u : UnitRec) (i : Instr) (reads : List (BitVec 3)) (d : BitVec 3)
    (v : BitVec 1024),
    Acting s c sl t u → maskValue t i = some (reads, d, v) → MasksFree s c sl t reads [d] →
    exec i s = .next ((s.setTeam c sl (t.setMask d.toNat v)).onThread s.cur (fun x => x.goto (x.spc + 4))) ∧
    (t.setMask d.toNat v).mask d.toNat = v &&& launchedMask t.warps ∧
    ∀ m, m ≠ d.toNat → (t.setMask d.toNat v).mask m = t.mask m

/-- R276, R277: KCNT, KFST and KRDW complete with the count, the lowest index or the word of their mask; KWRW writes the
word gb [31:0] over the launched lanes and no other bit. -/
def Obligations.MaskWords : Prop :=
  ∀ (s : State) (c sl : Nat) (t : Team) (u : UnitRec), Acting s c sl t u →
    (∀ d k, MasksFree s c sl t [k, 0] [] → Ready s t.th [d] → ∃ n : Nat,
      exec (.kcnt d k) s = .next (retireWith s d (BitVec.ofNat 64 n)) ∧
      n = ((List.range 1024).filter (fun j => (t.mask k.toNat &&& t.mask 0).getLsbD j)).length) ∧
    (∀ d k, MasksFree s c sl t [k, 0] [] → Ready s t.th [d] → ∃ v : Word64,
      exec (.kfst d k) s = .next (retireWith s d v) ∧
      (t.mask k.toNat &&& t.mask 0 = 0 → v = BitVec.allOnes 64) ∧
      (t.mask k.toNat &&& t.mask 0 ≠ 0 → (t.mask k.toNat &&& t.mask 0).getLsbD v.toNat = true ∧
        ∀ j, j < v.toNat → (t.mask k.toNat &&& t.mask 0).getLsbD j = false)) ∧
    (∀ d a k, MasksFree s c sl t [k] [] → Ready s t.th [a, d] →
      exec (.krdw d a k) s = .next (retireWith s d
        (((t.mask k.toNat).extractLsb' (32 * ((t.th.rd a).toNat % 32)) 32).setWidth 64))) ∧
    (∀ a b k, MasksFree s c sl t [] [k] → Ready s t.th [a, b] → ∃ m : BitVec 1024,
      exec (.kwrw a b k) s = .next ((s.setTeam c sl (t.setMask k.toNat m)).onThread s.cur (fun x => x.goto (x.spc + 4))) ∧
      ∀ j, m.getLsbD j = if j / 32 = (t.th.rd a).toNat % 32 then (t.th.rd b).getLsbD (j % 32)
        else (t.mask k.toNat).getLsbD j)

/-- R271: BK ANY, NONE and ALL complete by the mask they name ANDed with k0, once the wait of R220 has ended. -/
def Obligations.MaskBranches : Prop :=
  ∀ (s : State) (c sl : Nat) (t : Team) (u : UnitRec) (k : BitVec 3) (o : BitVec 16),
    Acting s c sl t u → MasksFree s c sl t [k, 0] [] →
    let go (p : Bool) : State := s.onThread s.cur (fun x =>
      x.goto (if p then x.spc + (o.signExtend 64 <<< 2) else x.spc + 4))
    exec (.bkAny k o) s = .next (go ((t.mask k.toNat &&& t.mask 0) != 0)) ∧
    exec (.bkNone k o) s = .next (go ((t.mask k.toNat &&& t.mask 0) == 0)) ∧
    exec (.bkAll k o) s = .next (go ((t.mask k.toNat &&& t.mask 0) == t.mask 0))

/-! ### Scratchpad accesses of the scalar stream -/

/-- R278: GLD of a clean, unarmed, aligned offset inside the allocation completes, with no earlier access held back by an
acquire fence; gd receives the bytes, little-endian, sign-extended for size codes 0, 2 and 4 and zero-extended otherwise
(g0 stays 0); nothing else changes but the notes that a damaged word was read. -/
def Obligations.LoadResults : Prop :=
  ∀ (s : State) (c sl : Nat) (t : Team) (u : UnitRec) (d a : BitVec 5) (sz : BitVec 3) (im : BitVec 13),
    Acting s c sl t u → Ready s t.th [a, d] → sz ≠ 7 →
    let off := (t.th.rd a + im.signExtend 64).toNat
    let n := 2 ^ (sz.toNat / 2)
    OffsetPasses u off n → u.poisonAt s off n = none → fencedOut s c sl = false →
    let w := numOfBytes (spadRead s u.core (u.spadOff off) n)
    let v : Word64 := if sz = 0 ∨ sz = 2 ∨ sz = 4 then (BitVec.ofNat (8 * n) w).signExtend 64 else BitVec.ofNat 64 w
    ∃ x, exec (.gld d a sz im) s = .next x ∧ x = retireWith (eccRead s u.core (u.spadOff off) n) d v ∧
      Retired s x d v ∧ LoadFrame s x d

/-- R278: GST of size code 0, 2, 4 or 6 to an aligned, unarmed offset inside the allocation completes, with no earlier access
held back by an acquire fence, and stores the low bytes of the register that d names there; 8 bytes make a poisoned word
clean, fewer leave it poisoned; every other byte, every other word's poison and every register is as it was. -/
def Obligations.StoreResults : Prop :=
  ∀ (s : State) (c sl : Nat) (t : Team) (u : UnitRec) (d a : BitVec 5) (sz : BitVec 3) (im : BitVec 13),
    Acting s c sl t u → Ready s t.th [a, d] → (sz = 0 ∨ sz = 2 ∨ sz = 4 ∨ sz = 6) →
    let off := (t.th.rd a + im.signExtend 64).toNat
    let n := 2 ^ (sz.toNat / 2)
    OffsetPasses u off n → fencedOut s c sl = false →
    ∃ x, exec (.gst d a sz im) s = .next x ∧ Retired s x 0 0 ∧
      StoreFrame s x (spadKey u.core (u.spadOff off)) (bytesOfNum n (t.th.rd d).toNat) 0

/-- R256, R279: GATM with an operation and an order that the tables give completes at a clean, unarmed, aligned offset, with
no earlier access held back by an acquire fence: gd receives the old word, and the word becomes the table's new value (LD
stores nothing, its order is relaxed or acquire, that of ST relaxed or release). -/
def Obligations.AtomicResults : Prop :=
  ∀ (s : State) (c sl : Nat) (t : Team) (u : UnitRec) (d a b cc : BitVec 5) (r : BitVec 2) (o : BitVec 4),
    Acting s c sl t u → Ready s t.th [a, b, cc, d] →
    AtomicTaken r o →
    let off := (t.th.rd a).toNat
    OffsetPasses u off 8 → u.poisonAt s off 8 = none → fencedOut s c sl = false →
    let m := BitVec.ofNat 64 (numOfBytes (spadRead s u.core (u.spadOff off) 8))
    ∃ x, exec (.gatm d a b cc r o) s = .next x ∧ Retired s x d m ∧
      StoreFrame s x (spadKey u.core (u.spadOff off))
        (bytesOfNum 8 (atomicNew m (t.th.rd b) (t.th.rd cc) o.toNat).toNat) d

/-- R79, R67, R82, R256, R278, R279: a scalar access that fails a check traps: a reserved size code ILLEGAL 0x17, a GATM
operation that the table does not give ILLEGAL 0x10 and an order that it does not take 0x17; with no earlier access held
back by an acquire fence, a misaligned offset ILLEGAL 0x22, whether or not it is also out of bounds; one out of bounds
ILLEGAL 0x21; one in an armed slot WINDOW, ARMED; a GLD or GATM of a poisoned word POISON with the word's offset and 0x01. -/
def Obligations.AccessTraps : Prop :=
  (∀ (s : State) (c sl : Nat) (t : Team) (u : UnitRec) (d a : BitVec 5) (sz : BitVec 3) (im : BitVec 13),
    Acting s c sl t u →
    (sz = 7 → Refused s (.gld d a sz im) t.th 0x17) ∧
    (sz.toNat % 2 = 1 → Refused s (.gst d a sz im) t.th 0x17)) ∧
  (∀ (s : State) (c sl : Nat) (t : Team) (u : UnitRec) (d a b cc : BitVec 5) (r : BitVec 2) (o : BitVec 4),
    Acting s c sl t u →
    ((o = 0xB ∨ o = 0xE ∨ o = 0xF) → Refused s (.gatm d a b cc r o) t.th 0x10) ∧
    ((o = 0xC ∧ r ≠ 0 ∧ r ≠ 1) ∨ (o = 0xD ∧ r ≠ 0 ∧ r ≠ 2) → Refused s (.gatm d a b cc r o) t.th 0x17)) ∧
  (∀ (s : State) (c sl : Nat) (t : Team) (u : UnitRec) (i : Instr) (off n : Nat) (reads : Bool),
    Acting s c sl t u → fencedOut s c sl = false → ScalarAccess t.th i off n reads →
    (off % n ≠ 0 → Traps s i t.th 0x01 (BitVec.ofNat 64 (off % 2 ^ 32 * 2 ^ 32 + 0x22))) ∧
    (off % n = 0 → (2 ^ 21 ≤ off ∨ u.need.spad < off + n) →
      Traps s i t.th 0x01 (BitVec.ofNat 64 (off % 2 ^ 32 * 2 ^ 32 + 0x21))) ∧
    (∀ w j, off % n = 0 → off < 2 ^ 21 → off + n ≤ u.need.spad → u.armedAt off n = some (w, j) →
      Traps s i t.th 0x0A (windowInfo w j 0x07)) ∧
    (∀ w, reads = true → OffsetPasses u off n → u.poisonAt s off n = some w →
      Traps s i t.th 0x06 (BitVec.ofNat 64 (w % 2 ^ 32 * 2 ^ 32 + 0x01))))

/-! ### Control registers, traps and the handler -/

/-- R280, R224, R347: CSR RD completes with the register's value in gd and changes no control register; only a read of
SFQ moves its queue on. -/
def Obligations.CsrReads : Prop :=
  (∀ (s : State) (c sl : Nat) (t : Team) (u : UnitRec) (d : BitVec 5) (n : BitVec 14),
    Acting s c sl t u → Ready s t.th [d] → csrTeamKnown n.toNat = true → csrReady s c sl t n.toNat false = true →
    exec (.csrRd d n) s = .next (retireWith (if n = 9 then s.setTeam c sl t.sfqPop else s) d (teamCsr s c sl t u n.toNat))) ∧
  (∀ (s : State) (cl sl : Nat) (p : Prog) (d : BitVec 5) (n : BitVec 14),
    ActingProg s cl sl p → Ready s p.th [d] → csrProgKnown n.toNat = true →
    exec (.csrRd d n) s = .next (retireWith s d (progCsr s cl sl p n.toNat)))

/-- R280, R225, R227, R394: CSR WR, SET and CLR of a writable register complete with its old value in gd; it then reads as
the value formed, in its writable bits; every other register, mask, queue and lane of the team is as it was. -/
def Obligations.CsrWrites : Prop :=
  ∀ (s : State) (c sl : Nat) (t : Team) (u : UnitRec) (d a : BitVec 5) (n : BitVec 14) (i : Instr) (new : Word64),
    Acting s c sl t u → Ready s t.th [a, d] → csrTeamKnown n.toNat = true → csrTeamReadOnly n.toNat = false →
    csrReady s c sl t n.toNat true = true → (i, new) ∈ csrForms (teamCsr s c sl t u n.toNat) (t.th.rd a) d a n →
    (n = 5 → new.getLsbD 62 = false) → (n = 0xF → pipeHeld t u (new.setWidth 32 &&& 0xDFDFDFDF#32) = none) →
    ∃ y : Team, exec i s = .next (retireWith (s.setTeam c sl y) d (teamCsr s c sl t u n.toNat)) ∧
      teamCsr s c sl y u n.toNat = csrWritten n.toNat (teamCsr s c sl t u n.toNat) new ∧
      (∀ m, m < 0x60 → m ≠ n.toNat → teamCsr s c sl y u m = teamCsr s c sl t u m) ∧
      y.th.spc = t.th.spc ∧ y.th.g = t.th.g ∧ y.v = t.v ∧ y.q = t.q ∧ y.c = t.c ∧ y.k = t.k ∧ y.queue = t.queue ∧
      y.lpc = t.lpc ∧ y.opLog = t.opLog ∧ y.sfq = t.sfq

/-- R255, R280: a write, set or clear of a read-only register and any use of a number that R224 does not list trap ILLEGAL
with code 0x10. -/
def Obligations.CsrRefusals : Prop :=
  ∀ (s : State) (c sl : Nat) (t : Team) (u : UnitRec) (d a : BitVec 5) (n : BitVec 14) (i : Instr),
    Acting s c sl t u → (i = .csrRd d n ∨ i = .csrWr d a n ∨ i = .csrSet d a n ∨ i = .csrClr d a n) →
    (csrTeamKnown n.toNat = false ∨ (i ≠ .csrRd d n ∧ csrTeamReadOnly n.toNat = true)) →
    Traps s i t.th 0x01 (BitVec.ofNat 64 (((encode i).headD 0) % 2 ^ 32 * 2 ^ 32 + 0x10))

/-- R401: SFQ READ gives words 0 to 3 of the oldest record in turn, 0 of an empty queue, and takes the record off after
its word 3. -/
def Obligations.StoreFaultReads : Prop :=
  ∀ (s : State) (c sl : Nat) (t : Team) (u : UnitRec) (d : BitVec 5), Acting s c sl t u → Ready s t.th [d] →
    ∃ (y : Team) (v : Word64), exec (.sfqRead d) s = .next (retireWith (s.setTeam c sl y) d v) ∧
      (t.sfq = [] → v = 0 ∧ y = t) ∧
      (∀ r rs, t.sfq = r :: rs → t.sfqPos < 4 →
        v = (([BitVec.ofNat 64 (2 ^ 63 + r.kind * 2 ^ 56 + r.tag * 2 ^ 50 + r.lost), r.spc, r.va, r.pte] : List Word64)[t.sfqPos]?).getD 0 ∧
        (t.sfqPos < 3 → y = { t with sfqPos := t.sfqPos + 1 }) ∧
        (t.sfqPos = 3 → t.sfqWait = [] → y = { t with sfqPos := 0, sfq := rs }))

/-- R289, R392, R394: TRAP of a team that is not in its handler and has TVEC set enters the handler: TEPC holds the TRAP,
TINFO its immediate, TCAUSE H and cause 0x0F; TELPC the LPC of the oldest held entry or LPC; SPC is TVEC; the team keeps its
place in the active or pending set; every g register, lane and mask and all memory are as they were. -/
def Obligations.TrapInstruction : Prop :=
  ∀ (s : State) (c sl : Nat) (t : Team) (u : UnitRec) (im : BitVec 16), Acting s c sl t u →
    t.th.tcause.getLsbD 63 = false → t.th.tvec ≠ 0 →
    ∃ y : Team, exec (.trap im) s = .next (s.setTeam c sl y) ∧
      y.th.tepc = t.th.spc ∧ y.th.tinfo = im.setWidth 64 ∧ y.th.tcause = BitVec.ofNat 64 (2 ^ 63 + 0x0F) ∧
      y.th.spc = t.th.tvec ∧ y.telpc = (match t.queue with | e :: _ => e.lpc | [] => t.lpc) ∧
      y = { t with
        telpc := y.telpc
        set_ := if t.set_ = .parked then .pending else t.set_
        th := { t.th with
          tepc := y.th.tepc, tinfo := y.th.tinfo, tcause := y.th.tcause, spc := y.th.spc, wait := y.th.wait,
          pending := y.th.pending } }

/-- R392, for every cause of teams and matrix programs: in handler mode or with TVEC 0 the stream ends as failed and is
gone; else the four trap registers, SPC and (for a team) TELPC are written, and nothing else of the package changes. -/
def Obligations.TrapEntryRegisters : Prop :=
  ∀ (s : State) (a : Agent) (th : Thread) (cause sub : Nat) (epc info : Word64) (elpc : Option Word64),
    OnCore a → s.thread a = some th → cause < 256 → sub < 256 →
    ((th.tcause.getLsbD 63 = true ∨ th.tvec = 0) → (∀ c sl, a = .team c sl → ∃ t u, s.team c sl = some t ∧ s.unit t.unit = some u) →
      (takeTrap s a cause sub epc elpc info).thread a = none) ∧
    (th.tcause.getLsbD 63 = false → th.tvec ≠ 0 →
      RestSame s (takeTrap s a cause sub epc elpc info) ∧ (takeTrap s a cause sub epc elpc info).units = s.units ∧
      ∃ y, (takeTrap s a cause sub epc elpc info).thread a = some y ∧
        y.tcause = BitVec.ofNat 64 (2 ^ 63 + sub * 256 + cause) ∧ y.tepc = epc ∧ y.tinfo = info ∧ y.spc = th.tvec ∧
        y.g = th.g ∧ y.gPend = th.gPend ∧ y.tvec = th.tvec ∧ y.tcmp = th.tcmp ∧ y.preq = th.preq)

/-- R395, R390: leaving the handler. A write, set or clear of TCAUSE that leaves RET set, and the resume it makes, clear H and
go on at TEPC; held entries, LPC and every g register (but gd, which has the old TCAUSE) are as they were; where no instruction
at another address was under way, nothing but the team changes; with H = 0 ILLEGAL 0x11, with a misaligned TEPC ILLEGAL 0x18
is raised by each of them instead (its word in TINFO is the model's reading, log 10). -/
def Obligations.HandlerResumes : Prop :=
  ∀ (s : State) (c sl : Nat) (t : Team) (u : UnitRec), Acting s c sl t u →
    (t.th.tcause.getLsbD 63 = true → t.th.tepc.toNat % 4 = 0 →
      (∃ x y, exec .trapResume s = .next x ∧ x.team c sl = some y ∧ y.th.tcause.getLsbD 63 = false ∧ y.th.spc = t.th.tepc ∧
        y.th.g = t.th.g ∧ y.queue = t.queue ∧ y.lpc = t.lpc ∧ y.v = t.v ∧ y.k = t.k ∧
        ((∀ e ∈ t.th.stage, e.1 = t.th.tepc.toNat) → x = s.setTeam c sl y)) ∧
      (∀ d a i new, Ready s t.th [a, d] → (i, new) ∈ csrForms t.th.tcause (t.th.rd a) d a 5 → new.getLsbD 62 = true →
        ∃ x y, exec i s = .next x ∧ x.team c sl = some y ∧ y.th.tcause.getLsbD 63 = false ∧
          ((∀ e ∈ t.th.stage, e.1 = t.th.tepc.toNat) → x = s.setTeam c sl y) ∧ y.th.spc = t.th.tepc ∧ (∀ r, r ≠ d → y.th.rd r = t.th.rd r) ∧
          y.th.rd d = (if d = 0 then 0 else t.th.tcause) ∧ y.queue = t.queue ∧ y.lpc = t.lpc)) ∧
    (∀ j, j = .trapResume ∨ (∃ d a new, Ready s t.th [a, d] ∧ (j, new) ∈ csrForms t.th.tcause (t.th.rd a) d a 5 ∧
        new.getLsbD 62 = true) →
      (t.th.tcause.getLsbD 63 = false → Refused s j t.th 0x11) ∧
      (t.th.tcause.getLsbD 63 = true → t.th.tepc.toNat % 4 ≠ 0 → Refused s j t.th 0x18))
namespace Sys2Proof.Claims
open Sys2Proof Sys2Proof.Machine

/-! ### Lane words, waits and levels -/

/-- The lane word at LPC is in the code cache, decodes, and has room and registers: VRUN can enqueue it (R209, R272). -/
def WordReady (s : State) (c sl : Nat) (t : Team) (ps : List Nat) (op : Nat) (w : LaneWord) : Prop :=
  t.lpc.toNat % 4 = 0 ∧ t.lpc.toNat < 2 ^ 56 ∧ t.queue.length < 64 ∧
  codeParcels s (.team c sl) t.lpc.toNat (laneParcels (ps.headD 0)) = .ok ps ∧
  (∃ i, laneDecode (t.tmode.getLsbD 0) ps = .ok i ∧ laneOf i = some (op, w)) ∧
  ∀ r ∈ gSources op w ++ (gDest w).toList, t.th.full r = true

/-- The machine after one lane word is enqueued: LPC past it, TMODE and the g sources captured, and a g destination
empty until its result (R209, R211). -/
def wordEnqueued (s : State) (c sl : Nat) (t : Team) (ps : List Nat) (op : Nat) (w : LaneWord) : State :=
  { s with nextId := s.nextId + 1 }.setTeam c sl { t with
    queue := t.queue ++ [LaneEntry.mk ps t.lpc t.tmode
      ((gSources op w).foldl (fun (m : FMap Word64) (r : BitVec 5) => FMap.put m r.toNat (t.th.rd r)) [])
      (if (gDest w).isSome then s.nextId else 0) s.nextId]
    lpc := t.lpc + BitVec.ofNat 64 (4 * ps.length)
    th := match gDest w with
      | some r => { t.th with gPend := t.th.gPend.put r.toNat s.nextId }
      | none => t.th }

/-- `n` lane words in turn can be enqueued, and lead with the retired VRUN to `x`. -/
def Enqueues (c sl : Nat) : Nat → State → State → Prop
  | 0, s, x => x = retire s
  | n + 1, s, x => ∃ t ps op w, s.team c sl = some t ∧ WordReady s c sl t ps op w ∧
      Enqueues c sl n (wordEnqueued s c sl t ps op w) x

/-- The counter of the level instance that holds launch `l`; `own` is that of the acting team's unit (R205). -/
def levelOf (s : State) (own : Counter) (l : Launch) : Nat → Counter
  | 0 => own
  | 1 => l.counter
  | 2 => s.graphs.look Counter.zero (l.job * 65536 + bits (l.hdr.headD 0).toNat 32 16)
  | 3 => s.phases.look Counter.zero (l.job * 65536 + bits (l.hdr.headD 0).toNat 16 16)
  | _ => s.jobCtr.look Counter.zero l.job

/-- A counter as LVL reads it: CXL, FAIL, STARTED [61:31], DONE [30:0] (R205). -/
def counterWord (c : Counter) : Word64 :=
  BitVec.ofNat 64 ((if c.cxl then 2 ^ 63 else 0) + (if c.fail then 2 ^ 62 else 0) + c.started * 2 ^ 31 + c.done)

/-- A barrier after one arrival (R94). -/
def arrivedAt (b : Barrier) : Barrier :=
  if b.arrived + 1 = b.expected then { b with arrived := 0, phase := !b.phase } else { b with arrived := b.arrived + 1 }

/-- Barrier `a` names: number in gd of the word, the unit that holds it, its record and its index (R92, R339). -/
def NamesBarrier (s : State) (t : Team) (u : UnitRec) (w : Word64) (n v : Nat) (q : UnitRec) (i : Nat) : Prop :=
  n = bits w.toNat 16 10 ∧ barrierOf s t.unit u n = .ok (v, q, i) ∧ s.unit v = some q

/-- What a flip of barrier `i` of unit `v` out of phase `ph` does to a stream: a waiter on that phase goes on (R66, R94). -/
def releasedAt (th : Thread) (v i : Nat) (ph : Bool) : Thread :=
  if waitsAt th v i ph = true ∧ th.arriving = false then th.goto (th.spc + 4) else th

/-- Between `s` and `x` an arrival counted at barrier `i` of unit `v`, whose record was `q`; where it flipped the phase, every
stream but the acting one that waited on it goes on, and every other is as it was (R66, R94). -/
def Counted (s x : State) (v i : Nat) (q : UnitRec) : Prop :=
  let b := q.bars.look Barrier.zero i
  (∃ r, x.unit v = some r ∧ r.bars = q.bars.put i (arrivedAt b)) ∧
  ∀ a th, OnCore a → a ≠ s.cur → s.thread a = some th →
    x.thread a = some (if b.arrived + 1 = b.expected then releasedAt th v i b.phase else th)

/-- No team of a unit is blocked in WALL or WANY. -/
def NoTagWaits (s : State) (v : Nat) : Prop :=
  ∀ e ∈ s.teams, e.2.unit = v → ∀ m any d, e.2.th.wait ≠ .tags m any d

/-- Every tag of a mask is a tag of the unit (R342). -/
def TagsExist (u : UnitRec) (m : Word64) : Prop := ∀ j, j < 64 → m.getLsbD j = true → j < u.need.tags

/-- The stage of the instruction at SPC. -/
def FreshAt (th : Thread) : Prop := th.at_ = none

end Sys2Proof.Claims

open Sys2Proof Sys2Proof.Machine Sys2Proof.Claims

/-! ### Lane issue, fences and time -/

/-- R209, R272 to R274, R393: outside a handler VRUN completes once its words can be enqueued, LPC past them; VJMP sets LPC
to LCB plus ga plus 4 times its immediate; VSYNC completes when passes and accesses have; in a handler each is ILLEGAL
0x10. -/
def Obligations.LaneIssue : Prop :=
  ∀ (s : State) (c sl : Nat) (t : Team) (u : UnitRec), Acting s c sl t u →
    (t.th.tcause.getLsbD 63 = false →
      (∀ n x, FreshAt t.th → Enqueues c sl n.toNat s x → exec (.vrun n) s = .next x) ∧
      (∀ a im, Ready s t.th [a] → exec (.vjmp a im) s = .next (retire (s.setTeam c sl
        { t with lpc := t.lcb + t.th.rd a + ((im.setWidth 64 : Word64) <<< 2) }))) ∧
      (accessesDone s c sl t = true → exec .vsync s = .next (retire s))) ∧
    (t.th.tcause.getLsbD 63 = true →
      (∀ n, Refused s (.vrun n) t.th 0x10) ∧ (∀ a im, Refused s (.vjmp a im) t.th 0x10) ∧ Refused s .vsync t.th 0x10)

/-- R151, R158, R283, R286, R328: FENCE completes once the passes, and before a release the accesses, are done, and marks the
team's gang reads that are out, which later accesses then wait for, and its own place, which later releases wait for; DRAIN once its passes and port stores are done and every
command of the team has passed translation, and traps STORE-FAULT with a record waiting; a scope above 4 is ILLEGAL 0x17;
TIME reads the time base. Nothing else but the pc (and gd of TIME) changes. -/
def Obligations.FencesAndTime : Prop :=
  (∀ (s : State) (c sl : Nat) (t : Team) (u : UnitRec), Acting s c sl t u →
    (∀ k x, x.toNat ≤ 4 → passesDone t = true → (k = 0 ∨ accessesDone s c sl t = true) →
      exec (.fence k x) s = .next { (retire s).onTeam c sl (fun y => { y with fencedAt := s.nextId }) with
        gangAcc := s.gangAcc.map (fun e =>
          if e.2.core = c ∧ e.2.slot = sl ∧ e.2.op ≠ 0x84 then (e.1, { e.2 with fence := true }) else e) }) ∧
    (∀ k x, 4 < x.toNat → Refused s (.fence k x) t.th 0x17) ∧
    (passesDone t = true → portStoreBusy s c sl = false → (∀ id ∈ t.opLog, ∀ k, s.cmds.find id = some k → k.passed = true) →
      (t.sfq = [] → exec .drain s = .next (retire s)) ∧
      (t.sfq ≠ [] → Traps s .drain t.th 0x04 (BitVec.ofNat 64 t.sfq.length)))) ∧
  (∀ (s : State) (cl sl : Nat) (p : Prog) k x, ActingProg s cl sl p → x.toNat ≤ 4 →
    exec (.fence k x) s = .next (retire s)) ∧
  (∀ (s : State) (th : Thread) (d : BitVec 5), Ready s th [d] →
    exec (.time d) s = .next (retireWith s d (BitVec.ofNat 64 s.now)))

/-- R287, R288, R346: YIELD without a request completes, and with its hint bit the stream becomes the youngest; LIVE above 64
is ILLEGAL 0x11; under a request a team saves itself. EXIT ends the team: it is gone, its unit counts it done and, for a
nonzero status, failed; a program's EXIT ends the program. -/
def Obligations.YieldsAndExits : Prop :=
  (∀ (s : State) (c sl : Nat) (t : Team) (u : UnitRec), Acting s c sl t u → t.sfq = [] →
    (∀ l, l.toNat ≤ 64 → t.th.preq = false → exec (.yield l 0) s = .next (retire s) ∧
      ∃ x y, exec (.yield l 1) s = .next x ∧ x = { s with teams := x.teams, nextId := s.nextId + 1 } ∧
        x.team c sl = some y ∧ y = { t with th := t.th.goto (t.th.spc + 4), age := 32 * s.nextId + t.index }) ∧
    (∀ l w, 64 < l.toNat → Refused s (.yield l w) t.th 0x11) ∧
    (∀ l w, l.toNat ≤ 64 → t.th.preq = true → t.th.tcause.getLsbD 63 = false → passesDone t = true →
      t.liveEmpty l.toNat = false →
      ∃ x y, exec (.yield l w) s = .next x ∧ x.team c sl = some y ∧ y.set_ = .saved ∧ y.live = some l.toNat ∧
        y.th.spc = t.th.spc + 4) ∧
    (∀ st, accessesDone s c sl t = true → ∃ x, exec (.exit st) s = .next x ∧ x.team c sl = none ∧
      (u.exited.length + 1 ≠ u.need.teams → ∃ r, x.unit t.unit = some r ∧ r.counter.done = min (u.counter.done + 1) 0x7FFFFFFF ∧
        r.exited = u.exited ++ [t.index] ∧ r.failed = (u.failed || st != 0)))) ∧
  (∀ (s : State) (cl sl : Nat) (p : Prog), ActingProg s cl sl p →
    (∀ l, p.th.preq = false → exec (.yield l 0) s = .next (retire s)) ∧
    (∀ st, ((s.cluster cl).opsOf sl) = [] → ∃ x, exec (.exit st) s = .next x ∧ x.prog cl sl = none))

/-- R284, R452, R453: SYSC of a job whose JSCQ is off returns all ones in g1; else it takes the lowest FREE entry with
the caller's TID, g1 to g6 and the next generation, and parks; once answered it returns SYSMBX in g1 and frees the entry. ANSWER with the
entry's generation while it is PARKED gives the result to the caller and leaves PARKED; any other ANSWER has no effect
(R453). IRQ with room in the buffer appends one message with its vector, ga, TID and the time, and changes nothing else but
the pc (R285, R449). -/
def Obligations.CallsAndMessages : Prop :=
  (∀ (s : State) (c sl : Nat) (t : Team) (u : UnitRec) (im : BitVec 16), Acting s c sl t u →
     (FreshAt t.th → Ready s t.th [1, 2, 3, 4, 5, 6] → accessesDone s c sl t = true →
       ((s.job u.job).jscq.getLsbD 8 = false → exec (.sysc im) s = .next (retireWith s 1 (BitVec.allOnes 64))) ∧
       ((s.job u.job).jscq.getLsbD 8 = true → ∀ k, k < 4096 → (s.calls.look Call.free k).state = 0 →
         (∀ j, j < k → (s.calls.look Call.free j).state ≠ 0) →
         ∃ x y, exec (.sysc im) s = .next x ∧ x.team c sl = some y ∧ y.set_ = .parked ∧ y.th.spc = t.th.spc ∧
           (x.calls.look Call.free k).state = 1 ∧ (x.calls.look Call.free k).svc = im ∧
           (x.calls.look Call.free k).gen = (s.calls.look Call.free k).gen + 1 ∧
           (x.calls.look Call.free k).tid = teamTid u c sl t ∧
           (x.calls.look Call.free k).args = [t.th.rd 1, t.th.rd 2, t.th.rd 3, t.th.rd 4, t.th.rd 5, t.th.rd 6])) ∧
     (∀ k, t.th.at_ = some (.parked (some k)) → (s.calls.look Call.free k).state = 2 →
       exec (.sysc im) s = .next ({ s with calls := s.calls.put k { s.calls.look Call.free k with state := 0 } }.setTeam c sl
         { t with set_ := .pending, th := (t.th.wr 1 t.sysmbx).goto (t.th.spc + 4) }))) ∧
  (∀ (s : State) (k : Nat) (w : Word64),
     let e := s.calls.look Call.free k
     (e.state = 1 → bits w.toNat 0 16 = e.gen.toNat → ∃ x, exec (.answer k w) s = .next x ∧
       (x.calls.look Call.free k).state = 2 ∧
       ∀ c sl t, c < 0x10000 → s.team c sl = some t → t.unit = e.caller.1 → t.index = e.caller.2 →
         x.team c sl = some { t with sysmbx := e.result, set_ := if t.set_ = .parked then .pending else t.set_ }) ∧
     ((e.state ≠ 1 ∨ bits w.toNat 0 16 ≠ e.gen.toNat) → exec (.answer k w) s = .next s)) ∧
  (∀ (s : State) (c sl : Nat) (t : Team) (u : UnitRec) (a : BitVec 5) (v : BitVec 11), Acting s c sl t u →
     Ready s t.th [a] → s.irqBuf.length < 64 → ∃ m : IrqMsg,
     exec (.irq a v) s = .next (retire { s with irqBuf := s.irqBuf ++ [m] }) ∧
     m.vec = v.toNat ∧ m.payload = t.th.rd a ∧ m.tid = teamTid u c sl t ∧ m.time = s.now)

/-- R205, R206, R257, R290: LVL_RD of levels 0 to 4 gives the counter of the instance that holds the team, and of a matrix
program's levels 1 to 4 that of the instance that holds its bundle; LVL_CANCEL gives the same value as it stood before and
sets CXL there; a level above 4, and level 0 in a program, is ILLEGAL 0x10. -/
def Obligations.Levels : Prop :=
  (∀ (s : State) (c sl : Nat) (t : Team) (u : UnitRec) (l : Launch) (d : BitVec 5) (lv : BitVec 3),
    Acting s c sl t u → s.launch u.launch = some l →
    (lv.toNat ≤ 4 → Ready s t.th [d] →
      exec (.lvlRd d lv) s = .next (retireWith s d (counterWord (levelOf s u.counter l lv.toNat))) ∧
      (u.st = .running → ∃ x y v m, exec (.lvlCancel d lv) s = .next x ∧ x.team c sl = some y ∧
        y.th.spc = t.th.spc + 4 ∧ (d ≠ 0 → y.th.rd d = counterWord (levelOf s u.counter l lv.toNat)) ∧
        x.unit t.unit = some v ∧ x.launch u.launch = some m ∧ (levelOf x v.counter m lv.toNat).cxl = true)) ∧
    (4 < lv.toNat → Refused s (.lvlRd d lv) t.th 0x10 ∧ Refused s (.lvlCancel d lv) t.th 0x10)) ∧
  (∀ (s : State) (cl sl : Nat) (p : Prog) (l : Launch) (d : BitVec 5) (lv : BitVec 3),
    ActingProg s cl sl p → s.launch p.launch = some l →
    (1 ≤ lv.toNat → lv.toNat ≤ 4 → Ready s p.th [d] →
      exec (.lvlRd d lv) s = .next (retireWith s d (counterWord (levelOf s Counter.zero l lv.toNat))) ∧
      ∃ x m, exec (.lvlCancel d lv) s = .next x ∧ x.launch p.launch = some m ∧
        (levelOf x Counter.zero m lv.toNat).cxl = true) ∧
    ((lv = 0 ∨ 4 < lv.toNat) → Refused s (.lvlRd d lv) p.th 0x10 ∧ Refused s (.lvlCancel d lv) p.th 0x10))

/-! ### Barriers, tags, windows and identifiers -/

/-- R66, R94, R95, R97, R339, R340: each barrier instruction completes on a configured, unclaimed barrier: ARRIVE counts one and
the last flips the phase, which releases every waiter on it; WAIT completes when the phase is not the one it names; ARRWAIT
counts once, waits on the phase it saw, and completes when that has passed; INIT sets the count; QUERY reads count, phase
and arrivals. An arrival at another unit's barrier travels and counts there, and waits while that unit is suspended (the
model's reading, log 94). -/
def Obligations.Barriers : Prop :=
  (∀ (s : State) (c sl : Nat) (t : Team) (u : UnitRec) (a b d : BitVec 5) (n v i : Nat) (q : UnitRec),
    Acting s c sl t u → t.sfq = [] → NamesBarrier s t u (t.th.rd a) n v q i →
    let bar := q.bars.look Barrier.zero i
    (Ready s t.th [a] → bar.claimed = false → bar.expected ≠ 0 → accessesDone s c sl t = true →
      waitsAt t.th v i bar.phase = false →
      (v = t.unit → ∃ x, exec (.barArrive a) s = .next x ∧ Counted s x v i q ∧
        x.team c sl = some { t with th := t.th.goto (t.th.spc + 4) }) ∧
      (v ≠ t.unit → exec (.barArrive a) s =
        .next (retire { s with nextId := s.nextId + 1, gangArr := s.gangArr.put s.nextId ⟨v, i⟩ })) ∧
      (v = t.unit → FreshAt t.th → ∃ x y, exec (.barArrwait a) s = .next x ∧ Counted s x v i q ∧ x.team c sl = some y ∧
        y.th.g = t.th.g ∧
        (bar.arrived + 1 = bar.expected → y.th.spc = t.th.spc + 4 ∧ y.th.wait = .none) ∧
        (bar.arrived + 1 ≠ bar.expected → y.th.spc = t.th.spc ∧ y.th.at_ = some (.arrived v n bar.phase) ∧
          y.th.wait = .barrier v n bar.phase))) ∧
    (Ready s t.th [a] → bar.phase ≠ (t.th.rd a).getLsbD 31 → exec (.barWait a) s = .next (retire s)) ∧
    (Ready s t.th [a, b] → bar.claimed = false → bar.arrived = 0 → barrierWaited s v i bar.phase = false →
      1 ≤ (t.th.rd b).toNat → (t.th.rd b).toNat ≤ 0x7FFFFFFF → exec (.barInit a b) s =
        .next (retire (s.setUnit v { q with bars := q.bars.put i { bar with expected := (t.th.rd b).toNat } }))) ∧
    (Ready s t.th [a, d] → exec (.barQuery d a) s = .next (retireWith s d
      (BitVec.ofNat 64 (bar.expected * 2 ^ 32 + (if bar.phase then 2 ^ 31 else 0) + bar.arrived))))) ∧
  (∀ (s : State) (c sl : Nat) (t : Team) (u : UnitRec) (a : BitVec 5) (v n : Nat) (p : Bool) (q : UnitRec),
    Acting s c sl t u → t.th.at_ = some (.arrived v n p) → s.unit v = some q →
    (q.bars.look Barrier.zero (n % 512)).phase ≠ p → exec (.barArrwait a) s = .next (retire s)) ∧
  (∀ (s : State) (id : Nat) (g : GangArrival) (r : UnitRec), s.gangArr.find id = some g → s.unit g.unit = some r →
    (r.away = true → exec (.gangBarrierArrival id) s = .next s) ∧
    (r.away = false → (r.bars.look Barrier.zero g.n).claimed = false → (r.bars.look Barrier.zero g.n).expected ≠ 0 →
      ∃ x v, exec (.gangBarrierArrival id) s = .next x ∧ x.gangArr.find id = none ∧ x.unit g.unit = some v ∧
        v.bars = r.bars.put g.n (arrivedAt (r.bars.look Barrier.zero g.n))))

/-- R92, R94, R98: what a barrier number names (below 512 the unit's own), and the BARRIER traps with their codes: out of
range 1, a gang number outside a gang 6, claimed 2, not configured 3, busy 4, a bad count 5. -/
def Obligations.BarrierTraps : Prop :=
  (∀ (s : State) (v : Nat) (u : UnitRec) (n : Nat), n < 512 →
    barrierOf s v u n = if n < u.need.bars then .ok (v, u, n) else .error 0x01) ∧
  (∀ (s : State) (v : Nat) (u : UnitRec) (n : Nat), 512 ≤ n → u.gang = 0 → barrierOf s v u n = .error 0x06) ∧
  (∀ (s : State) (c sl : Nat) (t : Team) (u : UnitRec) (a b : BitVec 5) (n e : Nat),
    Acting s c sl t u → t.sfq = [] → Ready s t.th [a, b] → FreshAt t.th → n = bits (t.th.rd a).toNat 16 10 →
    barrierOf s t.unit u n = .error e → ∀ i, i = .barArrive a ∨ i = .barWait a ∨ i = .barArrwait a ∨ i = .barInit a b →
    Traps s i t.th 0x09 (BitVec.ofNat 64 (n * 2 ^ 16 + e))) ∧
  (∀ (s : State) (c sl : Nat) (t : Team) (u : UnitRec) (a b : BitVec 5) (n v i : Nat) (q : UnitRec),
    Acting s c sl t u → t.sfq = [] → Ready s t.th [a, b] → FreshAt t.th → NamesBarrier s t u (t.th.rd a) n v q i →
    let bar := q.bars.look Barrier.zero i
    let trap (j : Instr) (code : Nat) : Prop := Traps s j t.th 0x09 (BitVec.ofNat 64 (n * 2 ^ 16 + code))
    (bar.claimed = true → trap (.barArrive a) 2 ∧ trap (.barArrwait a) 2 ∧ trap (.barInit a b) 2) ∧
    (bar.claimed = false → bar.expected = 0 → trap (.barArrive a) 3 ∧ trap (.barArrwait a) 3) ∧
    (bar.claimed = false → (bar.arrived ≠ 0 ∨ barrierWaited s v i bar.phase = true) → trap (.barInit a b) 4) ∧
    (bar.claimed = false → bar.arrived = 0 → barrierWaited s v i bar.phase = false →
      ((t.th.rd b).toNat = 0 ∨ 0x7FFFFFFF < (t.th.rd b).toNat) → trap (.barInit a b) 5))

/-- R88, R89, R91, R342: each TAG instruction on tags that exist completes: WALL once every named tag is ready, WANY with the
lowest ready tag, clearing its RDY, FFR with it or all ones, CLR of idle tags, READ with the status word; what CLR and WANY
change, blocked waits of the unit then meet. A tag that does not exist traps TAG code 1, a wait for an idle tag code 3, CLR
of a busy one code 2; a wait that cannot end yet blocks. -/
def Obligations.Tags : Prop :=
  ∀ (s : State) (c sl : Nat) (t : Team) (u : UnitRec) (a d : BitVec 5),
    Acting s c sl t u → Ready s t.th [a, d] →
    let m := t.th.rd a
    let tag (j : Nat) : Tag := u.tags.look Tag.zero j
    let lowest (p : Nat → Bool) (j : Nat) : Prop := j < 64 ∧ m.getLsbD j = true ∧ p j = true ∧
      ∀ k, k < j → m.getLsbD k = true → p k = false
    let noneOf (p : Nat → Bool) : Prop := ∀ j, j < 64 → m.getLsbD j = true → p j = false
    (TagsExist u m →
      (noneOf (fun j => !(tag j).rdy) → exec (.tagWall a) s = .next (retire s)) ∧
      (∀ j, lowest (fun j => (tag j).rdy) j →
        (let x := retireWith (s.setUnit t.unit { u with tags := u.tags.put j { tag j with rdy := false } }) d (BitVec.ofNat 64 j)
         exec (.tagWany d a) s = .next (tagsChanged x t.unit) ∧ (NoTagWaits s t.unit → tagsChanged x t.unit = x)) ∧
        exec (.tagFfr d a) s = .next (retireWith s d (BitVec.ofNat 64 j))) ∧
      (noneOf (fun j => (tag j).rdy) → exec (.tagFfr d a) s = .next (retireWith s d (BitVec.allOnes 64))) ∧
      (noneOf (fun j => (tag j).rdy) → noneOf (fun j => (tag j).out != 0) → Traps s (.tagWany d a) t.th 0x08 3) ∧
      (∀ j, noneOf (fun j => (tag j).rdy) → lowest (fun j => (tag j).out != 0) j →
        exec (.tagWany d a) s = .next (block s (.tags m true d.toNat))) ∧
      (∀ j, noneOf (fun j => (tag j).out == 0 && !(tag j).rdy) → lowest (fun j => !(tag j).rdy) j →
        exec (.tagWall a) s = .next (block s (.tags m false 0))) ∧
      (∀ j, lowest (fun j => (tag j).out == 0 && !(tag j).rdy) j →
        Traps s (.tagWall a) t.th 0x08 (BitVec.ofNat 64 (j * 256 + 3))) ∧
      (noneOf (fun j => (tag j).out != 0) → ∃ z : FMap Tag,
        (let x := retire (s.setUnit t.unit { u with tags := z })
         exec (.tagClr a) s = .next (tagsChanged x t.unit) ∧ (NoTagWaits s t.unit → tagsChanged x t.unit = x)) ∧
        ∀ j, j < 64 → z.look Tag.zero j = if m.getLsbD j then ⟨0, false, 0, false, false⟩ else tag j) ∧
      (∀ j, lowest (fun j => (tag j).out != 0) j → Traps s (.tagClr a) t.th 0x08 (BitVec.ofNat 64 (j * 256 + 2)))) ∧
    (∀ j, lowest (fun j => decide (u.need.tags ≤ j)) j →
      ∀ i, i = .tagWall a ∨ i = .tagWany d a ∨ i = .tagFfr d a ∨ i = .tagClr a →
      Traps s i t.th 0x08 (BitVec.ofNat 64 (j * 256 + 1))) ∧
    (m.toNat % 64 < u.need.tags → exec (.tagRead d a) s = .next (retireWith s d
      (BitVec.ofNat 64 ((tag (m.toNat % 64)).bytes * 2 ^ 32 + (if (tag (m.toNat % 64)).psn then 2 ^ 17 else 0) +
        (if (tag (m.toNat % 64)).flt then 2 ^ 16 else 0) + (tag (m.toNat % 64)).out * 256 +
        (if (tag (m.toNat % 64)).rdy then 1 else 0))))) ∧
    (u.need.tags ≤ m.toNat % 64 → Traps s (.tagRead d a) t.th 0x08 (BitVec.ofNat 64 (m.toNat % 64 * 256 + 1)))

/-- R53 to R56, R69 to R72: WIN CFG with SLOTS = 0 frees the window and its barriers; with slots, a bound descriptor and the
conditions of R55 it configures the window, all slots free and their barriers claimed; REL, the accesses before it done,
frees a landed slot and its peg, and waits for an ARMED one; QRY reads the window; WAITA completes with every peg home and
blocks the team until then. WINDOW traps: a window out of range 1, REL of a window
without slots 2, of a slot out of range 6, of a free slot 5. -/
def Obligations.Windows : Prop :=
  ∀ (s : State) (c sl : Nat) (t : Team) (u : UnitRec) (a b d : BitVec 5),
    Acting s c sl t u → Ready s t.th [a, b, d] →
    let w := (t.th.rd a).toNat % 16
    let cw := (t.th.rd b).toNat
    let j := (t.th.rd b).toNat % 16
    let x := u.windows.look Win.none w
    let trap (i : Instr) (k code : Nat) : Prop := Traps s i t.th 0x0A (BitVec.ofNat 64 (k * 4096 + w * 256 + code))
    (w < u.need.wins → x.freePegs = x.pegs → bits cw 13 3 = 0 → bits cw 21 11 = 0 → bits cw 42 22 = 0 →
      (bits cw 8 5 = 0 → bits cw 16 5 = 0 → ∃ y v, exec (.winCfg a b) s = .next y ∧ y.unit t.unit = some v ∧
        v.windows.look Win.none w = Win.none ∧
        (∀ k, x.bar0 ≤ k → k < x.bar0 + x.slots → v.bars.look Barrier.zero k = Barrier.zero) ∧
        (∀ k, k ≠ w → v.windows.look Win.none k = u.windows.look Win.none k)) ∧
      (∀ e, bits cw 8 5 ≠ 0 → tidEntry s s.cur (cw % 256) = e → e.binding = false → ∀ dsc, e.snap = some dsc →
        winOk u w (winOf (t.th.rd b) dsc) dsc.loc = true → ∃ y v, exec (.winCfg a b) s = .next y ∧ y.unit t.unit = some v ∧
        v.windows.look Win.none w = ⟨cw % 256, bits cw 32 10, bits cw 16 5, bits cw 8 5, dsc.fmt, dsc.scl, dsc.tr, dsc.tw,
          dsc.base, 0, bits cw 16 5, []⟩ ∧
        (∀ k, bits cw 32 10 ≤ k → k < bits cw 32 10 + bits cw 8 5 →
          v.bars.look Barrier.zero k = ⟨0, 0, false, true⟩))) ∧
    (w < u.need.wins → j < x.slots → x.slotState j = .landed → accessesDone s c sl t = true →
      (∃ y v, exec (.winRel a b) s = .next y ∧ y = retire (freeSlot s t.unit w j) ∧ y.unit t.unit = some v ∧
        v.windows.look Win.none w = { x with st := x.st.put j .free, freePegs := x.freePegs + 1 }) ∧
      ((∀ e ∈ s.teams, e.2.th.wait ≠ .pegsHome w) → exec (.winRel a b) s = .next (retire (s.setUnit t.unit { u with
        windows := u.windows.put w { x with st := x.st.put j .free, freePegs := x.freePegs + 1 } })))) ∧
    (w < u.need.wins → j < x.slots → x.slotState j = .armed → accessesDone s c sl t = true → t.th.relOrder w j = none →
      exec (.winRel a b) s = .next (block { s with nextId := s.nextId + 1 } (.landed w j s.nextId))) ∧
    (w < u.need.wins → x.slots = 0 → trap (.winRel a b) 0 2) ∧
    (w < u.need.wins → x.slots ≠ 0 → x.slots ≤ j → trap (.winRel a b) j 6) ∧
    (w < u.need.wins → j < x.slots → x.slotState j = .free → trap (.winRel a b) j 5) ∧
    (w < u.need.wins → exec (.winQry d a) s = .next (retireWith s d x.word)) ∧
    (w < u.need.wins → x.freePegs = x.pegs → exec (.winWaita a) s = .next (retire s)) ∧
    (w < u.need.wins → x.freePegs ≠ x.pegs → exec (.winWaita a) s = .next (block s (.pegsHome w))) ∧
    (u.need.wins ≤ w → trap (.winCfg a b) 0 1 ∧ trap (.winRel a b) 0 1 ∧ trap (.winQry d a) 0 1 ∧ trap (.winWaita a) 0 1)

/-- R100, R103, R108, R156, R344: on an identifier in range that no operation holds, for which no bind issued earlier waits, with
no bind of a view's source under way, BINDS of clean, unarmed words, behind no fence, and BINDF whose reads are in store the
snapshot their bytes describe, or trap TENSOR-ID with the refusing code; a bind of one that is held, or behind an earlier
bind, waits in its place; INV unbinds; QRY reads the entry without waiting; an identifier out of range traps code 1. -/
def Obligations.Identifiers : Prop :=
  ∀ (s : State) (th : Thread) (a b d : BitVec 5), OnCore s.cur → Ready s th [a, b, d] →
    let id := (th.rd a).toNat % 256
    let e := tidEntry s s.cur id
    (id < (tidTable s s.cur).1 →
      (exec (.tidQry d a) s = .next (retireWith s d e.word)) ∧
      ((e.holders ≠ 0 ∨ e.binding = true ∨ bindBefore s id = true) → (∀ n, th.wait ≠ .bind id n) →
        exec (.tidInv a) s = .next (block { s with nextId := s.nextId + 1 } (.bind id s.nextId))) ∧
      (e.holders = 0 → e.binding = false → bindBefore s id = false →
        (∃ x, exec (.tidInv a) s = .next x ∧ (tidEntry x s.cur id).snap = none ∧ x.mem = s.mem) ∧
        (∀ v u, tidUnit s s.cur = some (v, u) → (∀ c sl, s.cur = .team c sl → fencedOut s c sl = false) →
          OffsetPasses u (th.rd b).toNat 8 → (th.rd b).toNat + 64 ≤ u.need.spad →
          u.armedAt (th.rd b).toNat 64 = none → u.poisonAt s (th.rd b).toNat 64 = none →
          viewWaits s id (readTensor s (spadRead s u.core (u.spadOff (th.rd b).toNat) 64)) = false →
          let r := bindCheck s (spadRead s u.core (u.spadOff (th.rd b).toNat) 64)
          (r.1 = 0 → ∃ x, exec (.tidBinds a b) s = .next x ∧ (tidEntry x s.cur id).snap = some r.2) ∧
          (r.1 ≠ 0 → exec (.tidBinds a b) s = .next (takeTrap (eccRead s u.core (u.spadOff (th.rd b).toNat) 64) s.cur 0x0B 0
            th.spc none (BitVec.ofNat 64 (id * 256 + r.1))))))) ∧
    (∀ req p ps, th.at_ = some (.reading req) → bindParts s req = p :: ps → p.2.dest / 64 < (tidTable s s.cur).1 →
      (∀ q ∈ p :: ps, q.2.st = .arrived ∧ q.2.psn.contains true = false) →
      viewWaits s (p.2.dest / 64) (readTensor s ((p :: ps).flatMap (·.2.data))) = false →
      (bindCheck s ((p :: ps).flatMap (·.2.data))).1 = 0 →
      ∃ x, exec (.tidBindf a b) s = .next x ∧
        (tidEntry x s.cur (p.2.dest / 64)).snap = some (bindCheck s ((p :: ps).flatMap (·.2.data))).2) ∧
    ((tidTable s s.cur).1 ≤ id → FreshAt th → ∀ i, i = .tidBinds a b ∨ i = .tidBindf a b ∨ i = .tidInv a ∨ i = .tidQry d a →
      Traps s i th 0x0B (BitVec.ofNat 64 (id * 256 + 1)))

namespace Sys2Proof.Claims
open Sys2Proof Sys2Proof.Machine

/-! ### Engine commands and matrix operations -/

/-- Identifier `id` of the acting stream is in range, not being bound, and bound to `d` (R99, R100). -/
def Bound (s : State) (id : Nat) (d : Tensor) : Prop :=
  id < (tidTable s s.cur).1 ∧ (tidEntry s s.cur id).binding = false ∧ (tidEntry s s.cur id).snap = some d

/-- A view's source is not being bound and still meets its conditions (R100, R104). -/
def ViewHolds (s : State) (d : Tensor) : Prop :=
  d.loc = 2 → (tidEntry s s.cur d.src).binding = false ∧ viewOk d (viewSource s s.cur d) = true

/-- Between `s` and `x` the acting team issued `cmd`: it is under its number (only what R62 and R330 settle at once may
differ), every request it forms is on its way, and the stream is 4 on (R329, R330). -/
def Issued (s x : State) (c sl : Nat) (t : Team) (cmd : Cmd) : Prop :=
  (∃ k, x.cmds.find s.nextId = some k ∧ k = { cmd with passed := k.passed, holds := k.holds }) ∧
  (∀ r ∈ cmd.forms s.nextId, ∃ j, x.reqs.find j = some r) ∧
  ∃ y, x.team c sl = some y ∧ y.th.spc = t.th.spc + 4

/-- The tag of a unit counts one command more and is not ready (R89). -/
def TagCounts (u : UnitRec) (x : State) (v tg : Nat) : Prop :=
  ∃ r, x.unit v = some r ∧ r.tags.look Tag.zero tg =
    { u.tags.look Tag.zero tg with out := (u.tags.look Tag.zero tg).out + 1, rdy := false }

/-- A command under tag `tg` can issue: the tag exists and has room, and so has the operand log (R89, R330). -/
def TagRoom (t : Team) (u : UnitRec) (tg : Nat) : Prop :=
  tg < u.need.tags ∧ t.opLog.length < 16 ∧ (u.tags.look Tag.zero tg).out < 255

/-- No write issued earlier by the unit goes toward a range: each one in flight belongs to a known command of another unit
or misses the range, and so does every queued STORE (R61, R335, R361). -/
def NoneToward (s : State) (v off n : Nat) : Prop :=
  (∀ e ∈ s.reqs, ((e.2.kind = .cpyDst ∧ e.2.zero = true) ∨ e.2.kind = .ratm) →
    (∃ k, s.cmds.find e.2.cmd = some k ∧ k.unit ≠ v ∧ e.2.cmd ≠ s.nextId) ∨ overlaps e.2.dest e.2.len off n = false) ∧
  (∀ k ∈ s.clusters, ∀ o ∈ k.2.ops, o.kind = .store → o.a.snap.unit = v →
    ∀ p ∈ ({ o.a.snap with tw := 64, tr := 64 } : Tensor).tileSpans o.a.coord, overlaps p.2.1 p.2.2 off n = false)

/-- An operand of MX MUL that no check refuses (R354, R356, R358). -/
def OperandOk (s : State) (cl sl id : Nat) (isB : Bool) (w : Word64) (x : MxSource) : Prop :=
  (id = 0xFF ∧ ∃ b, (s.cluster cl).boundTo sl = some b ∧
    x = ⟨true, 0xFF, Tensor.none, Tensor.none, 0, if isB then b.bfmt else b.afmt, if isB then b.bscl else b.ascl⟩) ∨
  (id ≠ 0xFF ∧ ∃ d q : Tensor, Bound s id d ∧ q = (viewSource s s.cur d).getD Tensor.none ∧
    (d.loc = 0 ∨ (d.loc = 2 ∧ isB = false)) ∧ ViewHolds s d ∧ lineLen d.fmt ≠ 0 ∧
    d.holdsIndex (coordOf w 0 * lineLen d.fmt, coordOf w 1 * 64, coordOf w 2, coordOf w 3) = true ∧
    (s.cluster cl).boundUnit sl (if d.loc = 2 then q.unit else d.unit) = true ∧
    x = ⟨false, id, d, if d.loc = 2 then q else Tensor.none, w, d.fmt, d.scl⟩)

/-- Between `s` and `x` program `p` entered one operation into its cluster's queue and went on (R353). -/
def Entered (s x : State) (cl sl : Nat) (p : Prog) (o : MxOp) : Prop :=
  x.cluster cl = { s.cluster cl with ops := (s.cluster cl).ops ++ [o] } ∧
  ∃ y, x.prog cl sl = some y ∧ y.th.spc = p.th.spc + 4 ∧ y.th.g = p.th.g

end Sys2Proof.Claims

open Sys2Proof Sys2Proof.Machine Sys2Proof.Claims

/-! ### Engine commands -/

/-- R331 to R337, R156, R159: WPOST, CPY and RATM, their checks passed and room in tag and log, no access out that a fence or
their release orders before them, no team of the unit waiting on a tag, issue at once under their tag with the requests of
their tile or word. -/
def Obligations.TaggedCommands : Prop :=
  ∀ (s : State) (c sl : Nat) (t : Team) (u : UnitRec), Acting s c sl t u → FreshAt t.th → NoTagWaits s t.unit →
    (∀ a b sc l d q, sc.toNat ≤ 4 → Ready s t.th [a, b] →
      let w := (t.th.rd b).toNat
      let cmd := { Cmd.make .wpost s.cur c sl t u with
        tag := bits w 16 6, scope := sc.toNat, rel := l == 1, dst := d, dstCoord := t.th.rd a, src := q,
        holds := [bits w 0 8, bits w 8 8] }
      TagRoom t u (bits w 16 6) → commandHeld s c sl t (l == 1) = false →
      Bound s (bits w 0 8) d → Bound s (bits w 8 8) q → d.loc = 1 → q.loc = 0 →
      d.fmt = q.fmt → d.scl = q.scl → d.tw ≤ q.dim 0 → d.tr ≤ q.dim 1 → d.originOk (t.th.rd a) = true →
      ∃ x, exec (.wpost a b sc l) s = .next x ∧ Issued s x c sl t cmd ∧ TagCounts u x t.unit (bits w 16 6)) ∧
    (∀ a b g sc l qa d e, sc.toNat ≤ 4 → Ready s t.th [a, b, g] →
      let w := (t.th.rd a).toNat
      let cmd := { Cmd.make .cpy s.cur c sl t u with
        tag := bits w 16 6, scope := sc.toNat, acq := qa == 1, rel := l == 1, dst := d, dstCoord := t.th.rd b, src := e,
        srcCoord := t.th.rd g, via := (viewSource s s.cur e).getD Tensor.none, holds := bits w 0 8 :: holdsOf (bits w 8 8) e }
      TagRoom t u (bits w 16 6) → commandHeld s c sl t (l == 1) = false →
      Bound s (bits w 0 8) d → Bound s (bits w 8 8) e → ViewHolds s e → d.loc ≤ 1 →
      d.fmt = e.fmt → d.scl = e.scl → d.tr = e.tr → d.tw = e.tw → d.originOk (t.th.rd b) = true →
      e.originOk (t.th.rd g) = true →
      (d.loc = 0 → ∀ p ∈ d.tileSpans (t.th.rd b), u.armedAt p.2.1 p.2.2 = none) →
      ∃ x, exec (.cpy a b g sc l qa) s = .next x ∧ Issued s x c sl t cmd ∧ TagCounts u x t.unit (bits w 16 6)) ∧
    (∀ d a b g l z o, o.toNat < 0xE → ¬(o = 0xB ∧ z = 1) → Ready s t.th [d, a, b, g] →
      let w := (t.th.rd d).toNat
      let n := if z = 1 then 8 else 4
      let cmd := { Cmd.make .ratm s.cur c sl t u with
        tag := bits w 24 6, scope := 4, rel := l == 1, base := bits w 0 24, srcCoord := t.th.rd a, op := o.toNat, size := n,
        operand := t.th.rd b, compare := t.th.rd g }
      TagRoom t u (bits w 24 6) → commandHeld s c sl t (l == 1) = false → OffsetPasses u (bits w 0 24) n → (t.th.rd a).toNat % n = 0 →
      ∃ x, exec (.ratm d a b g l z o) s = .next x ∧ Issued s x c sl t cmd ∧ TagCounts u x t.unit (bits w 24 6))

/-- R57 to R63, R156: FPOST on a configured window with a peg, a free slot, a matching far source, no earlier write toward the
slot and no access out behind a fence takes the first slot from NEXT that is free and that no waiting post has chosen (the
latter the model's reading, log 108), arms it, sets its barrier's count to the slot's bytes, and returns slot,
barrier and phase in gd. -/
def Obligations.FetchPosts : Prop :=
  ∀ (s : State) (c sl : Nat) (t : Team) (u : UnitRec) (d a b : BitVec 5) (sc : BitVec 3) (qa : BitVec 1) (t0 : Tensor)
    (m : Nat), Acting s c sl t u → FreshAt t.th → sc.toNat ≤ 4 → Ready s t.th [a, b, d] →
    let w := bits (t.th.rd b).toNat 8 4
    let sid := bits (t.th.rd b).toNat 0 8
    let x := u.windows.look Win.none w
    let j := (x.next_ + m) % x.slots
    let bar := u.bars.look Barrier.zero (x.bar0 + j)
    w < u.need.wins → x.slots ≠ 0 → Bound s sid t0 → (t0.loc = 1 ∨ t0.loc = 2) → ViewHolds s t0 →
    t0.fmt = x.fmt → t0.scl = x.scl → t0.tr = x.tr → t0.tw = x.tw → t0.originOk (t.th.rd a) = true →
    s.cmds.find s.nextId = none → x.freePegs ≠ 0 → t.opLog.length < 16 → fencedOut s c sl = false → m < x.slots →
    x.slotState j = .free → slotChosen s t.unit w j = false →
    (∀ k, k < m → x.slotState ((x.next_ + k) % x.slots) ≠ .free ∨ slotChosen s t.unit w ((x.next_ + k) % x.slots) = true) → NoneToward s t.unit (x.slotBase j) x.stride →
    ∃ y r v k, exec (.fpost d a b sc qa) s = .next y ∧ y.team c sl = some r ∧ r.th.spc = t.th.spc + 4 ∧
      r.th.rd d = (if d = 0 then 0 else BitVec.ofNat 64 (j + (x.bar0 + j) * 2 ^ 16 + (if bar.phase then 2 ^ 31 else 0))) ∧
      y.unit t.unit = some v ∧
      v.windows.look Win.none w =
        { x with freePegs := x.freePegs - 1, next_ := (j + 1) % x.slots, st := x.st.put j .armed } ∧
      v.bars.look Barrier.zero (x.bar0 + j) = { bar with expected := x.bytes, arrived := 0 } ∧
      y.cmds.find s.nextId = some k ∧ k.kind = .fpost ∧ k.src = t0 ∧ k.srcCoord = t.th.rd a ∧ k.win = w ∧
      k.winSlot = j ∧ k.base = x.slotBase j ∧ k.pegged = true

/-- R198 to R200, R156, R159: MRED and MFILL, with no access out that a fence or their release orders before them, read their
chain block from checked, clean words of scratchpad; a good block issues the chain under its tag with its hops, no team of
the unit waiting on a tag; a bad one traps ILLEGAL, 0x30 in TINFO [7:0]; that the bits above are 0 is the model's reading (log
79). -/
def Obligations.Chains : Prop :=
  ∀ (s : State) (c sl : Nat) (t : Team) (u : UnitRec) (a : BitVec 5) (mred : Bool), Acting s c sl t u → FreshAt t.th →
    Ready s t.th [a] → NoTagWaits s t.unit →
    let off := (t.th.rd a).toNat
    let hops := bits (numOfBytes (spadRead s u.core (u.spadOff off) 16)) 28 4
    let n := 16 + 16 * hops
    let bs := spadRead s u.core (u.spadOff off) n
    let w0 := numOfBytes (bs.take 8)
    let i : Instr := if mred then .mred a else .mfill a
    let cmd := { Cmd.make (if mred then .mred else .mfill) s.cur c sl t u with
      tag := bits w0 0 6, scope := 4, acq := bits w0 7 1 == 1, rel := bits w0 6 1 == 1, src := { Tensor.none with loc := 1 },
      chain := BitVec.ofNat 64 w0, pat := bytesWord ((bs.drop 8).take 8),
      hops := (List.range hops).map (fun j => ((chainEntry bs j).1, (chainEntry bs j).2 == 1)) }
    commandHeld s c sl t cmd.rel = false →
    OffsetPasses u off 8 → off + n ≤ u.need.spad → u.armedAt off 16 = none → u.armedAt off n = none → u.poisonAt s off n = none →
    (chainBad bs mred = false → TagRoom t u (bits w0 0 6) →
      ∃ x, exec i s = .next x ∧ Issued s x c sl t cmd ∧ TagCounts u x t.unit (bits w0 0 6)) ∧
    (chainBad bs mred = true →
      exec i s = .next (takeTrap (eccRead s u.core (u.spadOff off) n) s.cur 0x01 0 t.th.spc none 0x30))

/-! ### Matrix programs -/

/-- R353 to R361: MUL, ZERO, DRAIN and STORE of a held bank, their operands or destination passing every check and the
queue with room, enter one operation and go on. -/
def Obligations.MatrixOperations : Prop :=
  ∀ (s : State) (cl sl : Nat) (p : Prog), ActingProg s cl sl p → ((s.cluster cl).opsOf sl).length < 16 →
    (∀ a b g x y, Ready s p.th [a, b, g] →
      let w := (p.th.rd g).toNat
      bits w 24 8 ≠ 0 → (s.cluster cl).holdsBank sl (bits w 16 7 / 4) = true →
      OperandOk s cl sl (bits w 0 8) false (p.th.rd a) x → OperandOk s cl sl (bits w 8 8) true (p.th.rd b) y →
      lineLen x.fmt = lineLen y.fmt → ∃ z, exec (.mxMul a b g) s = .next z ∧
        Entered s z cl sl p ⟨.mul, sl, bits w 16 7, x, y, bits w 32 1 == 1, bits w 24 8, 0, false, false, 0, []⟩) ∧
    (∀ a, Ready s p.th [a] → (s.cluster cl).holdsBank sl ((p.th.rd a).toNat % 128 / 4) = true →
      (∃ z, exec (.mxZero a) s = .next z ∧ Entered s z cl sl p
        ⟨.zero, sl, (p.th.rd a).toNat % 128, MxSource.none, MxSource.none, false, 0, 0, false, false, 0, []⟩) ∧
      (((s.cluster cl).boundTo sl).isSome = true → ∃ z, exec (.mxDrain a) s = .next z ∧ Entered s z cl sl p
        ⟨.drain, sl, (p.th.rd a).toNat % 128, MxSource.none, MxSource.none, false, 0, 0, false, false, 0, []⟩)) ∧
    (∀ a b g d u, Ready s p.th [a, b, g] →
      let w := (p.th.rd g).toNat
      (s.cluster cl).holdsBank sl ((p.th.rd a).toNat % 128 / 4) = true → Bound s (bits w 0 8) d → d.loc = 0 →
      (s.cluster cl).boundUnit sl d.unit = true → storeFmt d.fmt = true → (storeTensor d).originOk (p.th.rd b) = true →
      s.unit d.unit = some u → (∀ r ∈ (storeTensor d).tileSpans (p.th.rd b), u.armedAt r.2.1 r.2.2 = none) →
      (bits w 26 1 = 1 → ∃ v q i, barrierOf s d.unit u (bits w 16 10) = .ok (v, q, i) ∧
        (q.bars.look Barrier.zero i).claimed = false ∧ (q.bars.look Barrier.zero i).expected ≠ 0) →
      ∃ z, exec (.mxStore a b g) s = .next z ∧ Entered s z cl sl p
        ⟨.store, sl, (p.th.rd a).toNat % 128, ⟨false, bits w 0 8, d, Tensor.none, p.th.rd b, d.fmt, d.scl⟩, MxSource.none,
          false, 0, 0, false, false, p.th.rd g, []⟩)

/-- R84, R350, R351, R362: ALLOC takes the lowest FREE bank, waits for its zeroing and returns its number; FREE of a bank no
operation names frees it; WAIT completes when the named phase of the bound unit's barrier has passed; CFG with EN = 0
releases the binding, and with EN = 1 binds a running unit of the program's cluster, whose pre-emption alone sets PREQ (R346). -/
def Obligations.MatrixControl : Prop :=
  ∀ (s : State) (cl sl : Nat) (p : Prog), ActingProg s cl sl p →
    (∀ d b, Ready s p.th [d] → FreshAt p.th → b < 32 → ((s.cluster cl).banks.look Bank.idle b).st = .free →
      (∀ j, j < b → ((s.cluster cl).banks.look Bank.idle j).st ≠ .free) → ∃ x y, exec (.mxAlloc d) s = .next x ∧
        (x.cluster cl).banks.look Bank.idle b = ⟨.zeroing, sl, p.launch⟩ ∧ x.prog cl sl = some y ∧ y.th.wait = .bank ∧
        y.th.at_ = some (.zeroing b)) ∧
    (∀ d b, Ready s p.th [d] → p.th.at_ = some (.zeroing b) → (s.cluster cl).holdsBank sl b = true →
      exec (.mxAlloc d) s = .next (retireWith s d (BitVec.ofNat 64 b))) ∧
    (∀ a, Ready s p.th [a] → FreshAt p.th →
      let b := (p.th.rd a).toNat % 32
      (s.cluster cl).holdsBank sl b = true → (s.cluster cl).bankBusy b = false → ∃ x y, exec (.mxFree a) s = .next x ∧
        (x.cluster cl).banks.look Bank.idle b = Bank.idle ∧ x.prog cl sl = some y ∧ y.th.spc = p.th.spc + 4) ∧
    (∀ a b u v q i, Ready s p.th [a] → (s.cluster cl).boundTo sl = some b → s.unit b.unit = some u →
      barrierOf s b.unit u (bits (p.th.rd a).toNat 16 10) = .ok (v, q, i) → s.unit v = some q →
      (q.bars.look Barrier.zero i).phase ≠ (p.th.rd a).getLsbD 31 → exec (.mxWait a) s = .next (retire s)) ∧
    (∀ a, Ready s p.th [a] → (∀ o ∈ (s.cluster cl).opsOf sl, o.namesPort = false) →
      let w := (p.th.rd a).toNat
      (bits w 63 1 = 0 → (s.cluster cl).busyPort = none → ∃ x y, exec (.mxCfg a) s = .next x ∧
        (x.cluster cl).boundTo sl = none ∧ x.prog cl sl = some y ∧ y.th.spc = p.th.spc + 4 ∧
        ((s.cluster cl).boundTo sl ≠ none → y.th.preq = false)) ∧
      (∀ u r, bits w 63 1 = 1 → mxCfgOk w = true → ((s.cluster cl).boundTo sl = none → (s.cluster cl).binding = none) →
        ((s.cluster cl).boundTo sl ≠ none → (s.cluster cl).busyPort = none) →
        unitOf s p.launch (bits w 32 22) = some (u, r) → r.st = .running → r.core / 4 = cl → ∃ x y,
        exec (.mxCfg a) s = .next x ∧
        (x.cluster cl).binding = some ⟨sl, u, bits w 0 6, bits w 6 1 == 1, bits w 8 6, bits w 14 1 == 1⟩ ∧
        x.prog cl sl = some y ∧ y.th.spc = p.th.spc + 4 ∧ y.th.preq = false))

namespace Sys2Proof.Claims
open Sys2Proof Sys2Proof.Machine

/-! ### Lane instructions -/

/-- The pass of lane instruction `op`, `w` of the acting team's queue head `e`. -/
def passOf (s : State) (c sl : Nat) (t : Team) (u : UnitRec) (e : LaneEntry) (op : Nat) (w : LaneWord) : Pass :=
  ⟨c, sl, t, u, e, op, w, s.now⟩

/-- Nothing holds the head of the queue back: outside a handler, no empty source that traps or waits, no port trap, no busy
destination, and room in the port it pushes (R113, R115 to R117, R216, R217, R393). -/
def HeadPasses (s : State) (x : Pass) (rest : List LaneEntry) : Prop :=
  x.t.th.tcause.getLsbD 63 = false ∧ x.t.queue = x.e :: rest ∧ x.emptyTrap = none ∧ x.portTrap s = none ∧
  x.sourceEmpty = false ∧ x.destBusy = false ∧
  ∀ p, x.portDst = some p → portRoom s x.core x.t x.u p x.swept.length = true

/-- Opcodes of R258 that compute from their sources alone. -/
def isLanewise (op : Nat) : Bool := !isMemOp op && op != 0x66 && op != 0x67

/-- What one active lane computes (R296 to R314). -/
def laneResult (x : Pass) (l : Nat) : LaneOut := laneFn x.op (x.env l) (Row.abcd (l, (x.readAll l).map (·.1)))

/-- Between `s` and `x` the scratchpad bytes from key `k` on became `bs`; every other byte reads as before, a word written whole
is clean, and every other is as poisoned as it was (R82, R325). -/
def BytesStored (s x : State) (k : Nat) (bs : List Byte) : Prop :=
  (∀ j, byteAt x.mem.spad j = if k ≤ j ∧ j < k + bs.length then (bs[j - k]?).getD 0 else byteAt s.mem.spad j) ∧
  (setSorted s.mem.spadPsn = true →
    ∀ v, v ∈ x.mem.spadPsn ↔ v ∈ s.mem.spadPsn ∧ ¬(k ≤ 8 * v ∧ 8 * v + 8 ≤ k + bs.length))

/-- The integer an element stands for, two's complement or not (R121). -/
def intAs {w : Nat} (signed : Bool) (p : BitVec w) : Int := if signed then p.toInt else p.toNat

/-- Least and greatest integer of an element (R121). -/
def leastInt (signed : Bool) (w : Nat) : Int := if signed then -2 ^ (w - 1) else 0
def greatestInt (signed : Bool) (w : Nat) : Int := if signed then 2 ^ (w - 1) - 1 else 2 ^ w - 1

/-- An integer outside an element's range, and the element nearest to an integer (R293, R296). -/
def outside (signed : Bool) (w : Nat) (x : Int) : Bool := decide (x < leastInt signed w ∨ greatestInt signed w < x)
def clamped (signed : Bool) (w : Nat) (x : Int) : BitVec w :=
  BitVec.ofInt w (max (leastInt signed w) (min x (greatestInt signed w)))

/-- Results of the operations that packed formats do element by element: IADD, ISUB, IMUL, IMIN, IMAX and, signed, IABS and
INEG, saturating with sub 1 (R296). -/
def elementResult {w : Nat} (signed : Bool) (sub : Nat) (p q : BitVec w) : Nat → Option (BitVec w)
  | 0x01 => some (if sub = 1 then clamped signed w (intAs signed p + intAs signed q) else p + q)
  | 0x02 => some (if sub = 1 then clamped signed w (intAs signed p - intAs signed q) else p - q)
  | 0x05 => some (p * q)
  | 0x08 => some (if intAs signed p ≤ intAs signed q then p else q)
  | 0x09 => some (if intAs signed p ≤ intAs signed q then q else p)
  | 0x0A => if signed then some (if sub = 1 then clamped true w (max p.toInt (-p.toInt)) else if p.msb then -p else p) else none
  | 0x0B => if signed then some (if sub = 1 then clamped true w (-p.toInt) else -p) else none
  | _ => none

/-- Start and length of the field a BFX or BFI word names (R296). -/
def fieldOf (b : Word32) : Nat × Nat := (b.toNat % 32, min (b.toNat / 256 % 32) (32 - b.toNat % 32))

/-- Product sum of IDOT4 with its elements extended to 32 bits by `ext` (R296). -/
def dotOf (ext : BitVec 8 → Word32) (a b c : Word32) : Word32 :=
  let e (x : Word32) (j : Nat) : Word32 := ext (x.extractLsb' (8 * j) 8)
  c + e a 0 * e b 0 + e a 1 * e b 1 + e a 2 * e b 2 + e a 3 * e b 3

/-- C and V of the integer operations (R293). -/
def intCodes (fmt sub : Nat) (a b c : Word32) (op : Nat) : Bool × Bool :=
  let sg : Bool := fmt == 0
  let k : Nat := if c.getLsbD 1 then 1 else 0
  match op with
  | 0x01 => (decide (2 ^ 32 ≤ a.toNat + b.toNat),
      if sub = 1 then outside sg 32 (intAs sg a + intAs sg b) else outside true 32 (a.toInt + b.toInt))
  | 0x02 => (decide (b.toNat ≤ a.toNat),
      if sub = 1 then outside sg 32 (intAs sg a - intAs sg b) else outside true 32 (a.toInt - b.toInt))
  | 0x03 => (decide (2 ^ 32 ≤ a.toNat + b.toNat + k), outside true 32 (a.toInt + b.toInt + k))
  | 0x04 => (decide (b.toNat + (1 - k) ≤ a.toNat), outside true 32 (a.toInt - b.toInt - (1 - k : Nat)))
  | 0x05 => (false, outside sg 32 (intAs sg a * intAs sg b))
  | 0x07 => (false, outside sg 32 (intAs sg a * intAs sg b + intAs sg c))
  | 0x0A | 0x0B => (false, sub == 1 && a == 0x80000000)
  | 0x1B => (decide (b.toNat ≤ a.toNat), outside true 32 (a.toInt - b.toInt))
  | 0x1E | 0x1F => (false, b == 0 || (fmt == 0 && a == 0x80000000 && b == BitVec.allOnes 32))
  | _ => (false, false)

/-- Integer results of 32-bit operations on two or three words (R296). -/
def intResult (fmt sub : Nat) (a b c : Word32) : Nat → Option Word32
  | 0x00 => some a
  | 0x03 => some (a + b + if c.getLsbD 1 then 1 else 0)
  | 0x04 => some (a - b - if c.getLsbD 1 then 0 else 1)
  | 0x06 => if fmt = 0 then some (BitVec.ofInt 32 (a.toInt * b.toInt / 2 ^ 32))
      else if fmt = 1 then some (BitVec.ofNat 32 (a.toNat * b.toNat / 2 ^ 32)) else none
  | 0x07 => if fmt ≤ 1 then some (a * b + c) else none
  | 0x0C => some (a &&& b)
  | 0x0D => some (a ||| b)
  | 0x0E => some (a ^^^ b)
  | 0x0F => some (a &&& ~~~b)
  | 0x10 => some (~~~a)
  | 0x11 => some (a <<< (b.toNat % 32))
  | 0x12 => some (a >>> (b.toNat % 32))
  | 0x13 => some (a.sshiftRight (b.toNat % 32))
  | 0x14 => some (a.rotateLeft (b.toNat % 32))
  | 0x18 =>
    let (s, l) := fieldOf b
    if l = 0 then some 0 else if fmt = 0 then some ((a <<< (32 - s - l)).sshiftRight (32 - l))
    else if fmt = 1 then some ((a <<< (32 - s - l)) >>> (32 - l)) else none
  | 0x1D => if fmt = 6 then some (dotOf (·.signExtend 32) a b c) else if fmt = 7 then some (dotOf (·.setWidth 32) a b c) else none
  | 0x1E => if b = 0 then some (BitVec.allOnes 32) else if fmt = 0 then some (a.sdiv b) else if fmt = 1 then some (a / b) else none
  | 0x1F => if b = 0 then some a else if fmt = 0 then some (a.srem b) else if fmt = 1 then some (a % b) else none
  | op => if fmt ≤ 1 then elementResult (fmt == 0) sub a b op else none

/-- Between `s` and `x` the acting team's lane instruction left the queue: `y` is the team after (R210). -/
def Passed (s x : State) (c sl : Nat) (t y : Team) (rest : List LaneEntry) : Prop :=
  x.team c sl = some y ∧ y.queue = rest ∧ y.laneWait = .none ∧ y.lpc = t.lpc ∧ y.th.spc = t.th.spc ∧ x.cur = s.cur

end Sys2Proof.Claims

open Sys2Proof Sys2Proof.Machine Sys2Proof.Claims

/-! ### Lane instructions -/

/-- R210 to R213, R218 to R222, R258, R296 to R321: every lane instruction without a memory operand, but KSET and KGET
(MaskLanes), completes its passes when nothing holds it back: mov, iadd, isub, iadc, isbb, imul, imulh, imad, imin, imax,
iabs, ineg, andLane, orLane, xorLane, andnLane, not, shl, shr, sar, rotl, clzLane, popcLane, brev, bfx, bfi, perm, icmp, sel,
idot4, idiv, irem; fadd, fsub, fmul, ffma, fmin, fmax, fabs, fneg, fcmp, fdiv, fdot2, fdot4, frnd, fsgn, fsat, fclass; qnum,
qden, qmake, qlim, qmed; cvt, cvtsr, mxscl, mxq, mxdq; exp2, log2, rcp, rsq, sqrt, sinpi, cospi, tanh; shfl, vote, redw,
redt, scanw, scant; rng. A pipelined one without a port changes no mask and no g register, adds its flags to FSTAT, and
leaves the condition codes of inactive lanes; one with a v destination leaves inactive lanes (zero under the zero policy)
and every register but its own, which are four for RNG and one for the others; one with a q destination pushes one entry to
the queue of every launched lane, of inactive lanes their newest entry again (zero under the zero policy), and leaves the
other lanes' queues; one that does not combine lanes gives each active lane its values and its condition codes. -/
def Obligations.LanePasses : Prop :=
  ∀ (s : State) (c sl : Nat) (t : Team) (u : UnitRec) (e : LaneEntry) (rest : List LaneEntry) (i : Instr) (op : Nat)
    (w : LaneWord), Acting s c sl t u → laneOf i = some (op, w) → isLanewise op = true →
    let p := passOf s c sl t u e op w
    HeadPasses s p rest →
    ∃ x y, exec i s = .next x ∧ Passed s x c sl t y rest ∧
      (p.portSrc = none → p.portDst = none → p.long = false → x = s.setTeam c sl y ∧ y.k = t.k ∧ y.th.g = t.th.g ∧
        y.fstat = t.fstat ||| flagsOf (laneValues op p.env p.rows) ∧
        (w.ccd.toNat < 4 → y.c = t.c) ∧ (∀ l n, p.active l = false → y.cond l n = t.cond l n) ∧
        (4 ≤ w.ccd.toNat → isTeamOp op = false → isWarpOp op = false → ∀ l, l < 32 * t.warps → p.active l = true →
          y.cond l (w.ccd.toNat - 4) = (laneResult p l).cc) ∧ (codeIsV w.dst.toNat = false → y.v = t.v) ∧
        (w.dst.toNat ≠ 0x40 → y.q = t.q) ∧
        (let d := w.dst.toNat
         let n := destRegs op w.sub.toNat
         codeIsV d = true → d + n ≤ 64 →
          (∀ l r, r < 64 → (r < d ∨ d + n ≤ r) → y.vcell l r = t.vcell l r) ∧
          (∀ l j, l < 32 * t.warps → p.active l = false → j < n →
            y.vcell l (d + j) = if zeroPol w then ⟨0, 0⟩ else t.vcell l (d + j)) ∧
          (isTeamOp op = false → isWarpOp op = false → ∀ l j v, l < 32 * t.warps → p.active l = true →
            (laneResult p l).vals[j]? = some v → y.vcell l (d + j) = ⟨v, 0⟩)) ∧
        (w.dst.toNat = 0x40 →
          (∀ l, 32 * t.warps ≤ l → y.q.look [] l = t.q.look [] l) ∧
          ∀ l, l < 32 * t.warps → ∃ h : Cell, y.q.look [] l = (h :: t.q.look [] l).take 16 ∧
            (p.active l = false → h = if zeroPol w then ⟨0, 0⟩ else t.qcell l 0) ∧
            (isTeamOp op = false → isWarpOp op = false → p.active l = true →
              ∀ v vs, (laneResult p l).vals = v :: vs → h = ⟨v, 0⟩)))

/-- R293, R296: the integer table. Every operation but ICMP gives one value and raises no flag, with N and Z of that value
and the C and V of R293; ICMP gives the codes of A - B and no value. The values are those of the table: of the 32-bit
formats for every operation, of the packed ones element by element for IADD, ISUB, IMUL, IMIN, IMAX, IABS and INEG; SEL picks
by its condition; CLZ and POPC count the leading zeros and the one bits, BREV reverses, BFI replaces its field, PERM picks or
spreads the sign of its bytes. -/
def Obligations.IntegerLanes : Prop :=
  ∀ (x : LaneEnv) (a b c d : Word32) (op : Nat),
    (op < 0x20 → op ≠ 0x1B → ∃ r : Word32,
      (laneFn op x ⟨a, b, c, d⟩).vals = [r] ∧ (laneFn op x ⟨a, b, c, d⟩).flags = 0 ∧
      (laneFn op x ⟨a, b, c, d⟩).cc.getLsbD 3 = r.msb ∧ (laneFn op x ⟨a, b, c, d⟩).cc.getLsbD 2 = (r == 0)) ∧
    ((laneFn 0x1B x ⟨a, b, c, d⟩).vals = [] ∧ (laneFn 0x1B x ⟨a, b, c, d⟩).flags = 0 ∧
      (laneFn 0x1B x ⟨a, b, c, d⟩).cc.getLsbD 3 = (a - b).msb ∧ (laneFn 0x1B x ⟨a, b, c, d⟩).cc.getLsbD 2 = (a == b)) ∧
    (op < 0x20 → op ≠ 0x1D → (op = 0x0A ∨ op = 0x0B → x.fmt = 0) →
      (x.fmt ≤ 1 ∨ op ∉ [0x01, 0x02, 0x05, 0x07, 0x1E, 0x1F]) →
      (laneFn op x ⟨a, b, c, d⟩).cc.getLsbD 1 = (intCodes x.fmt x.sub a b c op).1 ∧
      (laneFn op x ⟨a, b, c, d⟩).cc.getLsbD 0 = (intCodes x.fmt x.sub a b c op).2) ∧
    (∀ r, intResult x.fmt x.sub a b c op = some r → (laneFn op x ⟨a, b, c, d⟩).vals = [r]) ∧
    (∀ w sg, (x.fmt, w, sg) ∈ [(5, 16, true), (6, 8, true), (7, 8, false)] → ∀ j e, j < 32 / w →
      elementResult sg x.sub (a.extractLsb' (w * j) w) (b.extractLsb' (w * j) w) op = some e →
      ∃ r : Word32, (laneFn op x ⟨a, b, c, d⟩).vals = [r] ∧ r.extractLsb' (w * j) w = e) ∧
    (∃ z : Nat, (laneFn 0x15 x ⟨a, b, c, d⟩).vals = [BitVec.ofNat 32 z] ∧ z ≤ 32 ∧
      (∀ j, 32 - z ≤ j → j < 32 → a.getLsbD j = false) ∧ (z < 32 → a.getLsbD (31 - z) = true)) ∧
    (∃ r : Word32, (laneFn 0x19 x ⟨a, b, c, d⟩).vals = [r] ∧ ∀ j, j < 32 → r.getLsbD j =
      if (fieldOf c).1 ≤ j ∧ j < (fieldOf c).1 + (fieldOf c).2 then b.getLsbD (j - (fieldOf c).1) else a.getLsbD j) ∧
    (∃ r : Word32, (laneFn 0x1A x ⟨a, b, c, d⟩).vals = [r] ∧ ∀ i, i < 4 →
      let k := (c.extractLsb' (4 * i) 3).toNat
      let p := (b ++ a).extractLsb' (8 * k) 8
      r.extractLsb' (8 * i) 8 = if c.getLsbD (4 * i + 3) then (if p.msb then BitVec.allOnes 8 else 0) else p) ∧
    ((laneFn 0x1C x ⟨a, b, c, d⟩).vals = [if condHolds x.sub (c.setWidth 4) then a else b]) ∧
    (∃ n : Nat, (laneFn 0x16 x ⟨a, b, c, d⟩).vals = [BitVec.ofNat 32 n] ∧
      n = ((List.range 32).filter (fun j => a.getLsbD j)).length) ∧
    (∃ r : Word32, (laneFn 0x17 x ⟨a, b, c, d⟩).vals = [r] ∧ ∀ j, j < 32 → r.getLsbD j = a.getLsbD (31 - j))

/-- R210, R214, R215: a long-class lane instruction without a port empties the destination of every active lane and binds it
to a pending result, which on its arrival fills exactly that register and is gone; a result of a team that has ended is
dropped. -/
def Obligations.LongResults : Prop :=
  (∀ (s : State) (c sl : Nat) (t : Team) (u : UnitRec) (e : LaneEntry) (rest : List LaneEntry) (i : Instr) (op : Nat)
    (w : LaneWord), Acting s c sl t u → laneOf i = some (op, w) → isLanewise op = true → op ≠ 0x70 →
    let p := passOf s c sl t u e op w
    HeadPasses s p rest → p.portSrc = none → p.portDst = none → p.long = true → codeIsV w.dst.toNat = true → e.gpend = 0 →
    ∃ x y, exec i s = .next x ∧ Passed s x c sl t y rest ∧ x.mem = s.mem ∧
      (∀ l r, r < 64 → r ≠ w.dst.toNat → y.vcell l r = t.vcell l r) ∧
      ∀ l, l < 32 * t.warps → p.active l = true → ∃ q, (y.vcell l w.dst.toNat).pend ≠ 0 ∧
        x.pendings.find (y.vcell l w.dst.toNat).pend = some q ∧ q.lane = l ∧ q.core = c ∧ q.slot = sl ∧ q.discard = false ∧
        q.store = none ∧ (isTeamOp op = false → isWarpOp op = false → q.value = some (laneResult p l).vals)) ∧
  (∀ (s : State) (c sl id : Nat) (t : Team) (q : Pending) (v : Word32) (l r : Nat),
    c < 0x10000 → s.team c sl = some t → s.pendings.find id = some q → id ≠ 0 → q.core = c → q.slot = sl →
    q.discard = false → q.store = none → q.value = some [v] → r < 64 → (t.vcell l r).pend = id →
    (∀ k ∈ t.v, k.2.pend = id → k.1 = l * 64 + r) →
    ∃ x y, exec (.longResultArrival c sl id) s = .next x ∧ x.team c sl = some y ∧ y.vcell l r = ⟨v, 0⟩ ∧
      (∀ m j, j < 64 → (m, j) ≠ (l, r) → y.vcell m j = t.vcell m j) ∧ y.fstat = t.fstat ||| q.flags ∧
      x.pendings.find id = none) ∧
  (∀ (s : State) (c sl id : Nat) (q : Pending) (ws : List Word32), s.pendings.find id = some q → q.core = c → q.slot = sl →
    q.discard = true → q.value = some ws → exec (.longResultArrival c sl id) s = .next { s with pendings := s.pendings.del id })

/-- R320: KSET writes the bits of the active lanes in its mask from A and no other bit; KGET gives each active lane its bit. -/
def Obligations.MaskLanes : Prop :=
  ∀ (s : State) (c sl : Nat) (t : Team) (u : UnitRec) (e : LaneEntry) (rest : List LaneEntry) (w : LaneWord),
    Acting s c sl t u →
    (let p := passOf s c sl t u e 0x66 w
     HeadPasses s p rest → p.portSrc = none → ∃ x y, exec (.kset w) s = .next x ∧ Passed s x c sl t y rest ∧ y.v = t.v ∧
      (∀ m, m ≠ w.sub.toNat % 8 → y.mask m = t.mask m) ∧
      ∀ l, l < 32 * t.warps → l < 1024 → (y.mask (w.sub.toNat % 8)).getLsbD l =
        if p.active l then decide (((p.readAll l).map (·.1)).headD 0 ≠ 0) else (t.mask (w.sub.toNat % 8) &&& launchedMask t.warps).getLsbD l) ∧
    (let p := passOf s c sl t u e 0x67 w
     HeadPasses s p rest → p.portDst = none → ∃ x y, exec (.kget w) s = .next x ∧ Passed s x c sl t y rest ∧ y.k = t.k ∧
      (codeIsV w.dst.toNat = true → ∀ l, l < 32 * t.warps → p.active l = true →
        y.vcell l w.dst.toNat = ⟨if (t.mask (w.sub.toNat % 8)).getLsbD l then 1 else 0, 0⟩))

/-- R322 to R325, R41, R79, R256: LDS, STS and ATOMS that nothing holds back complete their passes, whatever their lanes,
orders and ports. Without a port, a lane whose address fails is switched off and noted in FMASK, and no other is; LDS changes
no byte, and gives each passing lane of a clean word its 8, 16, 32, 64 or 128 bits, extended by the size code, in its
registers; a lane that reads poison keeps its destination, and POISON is posted; STS and ATOMS change no byte that none of
their passing lanes writes. Of one active lane, STS stores the low bytes of B, and ATOMS gives the old word and stores the
table's new one (LD none), the word's poison as before unless 8 bytes covered it; that an ATOMS on a poisoned word is
performed like another is the model's reading (log 74). -/
def Obligations.LaneMemory : Prop :=
  ∀ (s : State) (c sl : Nat) (t : Team) (u : UnitRec) (e : LaneEntry) (rest : List LaneEntry) (i : Instr) (op : Nat)
    (w : LaneWord), Acting s c sl t u → laneOf i = some (op, w) → (op = 0x80 ∨ op = 0x81 ∨ op = 0x82) →
    let p := passOf s c sl t u e op w
    HeadPasses s p rest → p.memWait s = none →
    let n := accessBytes op w.sub.toNat
    let ea (vs : List Nat) := (BitVec.ofNat 32 (vs.headD 0) + auxDisp w.aux).toNat
    let fails (vs : List Nat) : Bool := !u.offsetOk (ea vs) n || (u.armedAt (ea vs) n).isSome
    let k (vs : List Nat) := spadKey u.core (u.spadOff (ea vs))
    let old (vs : List Nat) := spadRead s u.core (u.spadOff (ea vs)) n
    let off (l : Nat) : Bool := p.rows.any (fun r => r.1 == l && fails r.2)
    ∃ x y, exec i s = .next x ∧ Passed s x c sl t y rest ∧
      (p.portSrc = none → p.portDst = none →
        (∀ l, (y.mask 0).getLsbD l = ((t.mask 0).getLsbD l && !off l)) ∧
        (∀ l, y.fmask.getLsbD l = (t.fmask.getLsbD l || off l)) ∧
        (∀ m, m ≠ 0 → y.mask m = t.mask m) ∧ y.fstat = t.fstat ∧ y.th.g = t.th.g ∧
        (op = 0x80 → ∀ j, byteAt x.mem.spad j = byteAt s.mem.spad j) ∧
        (∀ j, (∀ r ∈ p.rows, fails r.2 = false → ¬(k r.2 ≤ j ∧ j < k r.2 + n)) →
          byteAt x.mem.spad j = byteAt s.mem.spad j) ∧
        (op = 0x80 → (w.sub.toNat ≤ 4 ∨ w.sub = 8 ∨ w.sub = 9) → codeIsV w.dst.toNat = true →
          w.dst.toNat + destRegs op w.sub.toNat ≤ 64 → ∀ l vs, (l, vs) ∈ p.rows → fails vs = false →
          (u.poisonAt s (ea vs) n = none → ∀ j v, (loadWords w.sub.toNat (old vs))[j]? = some v →
            y.vcell l (w.dst.toNat + j) = ⟨v, 0⟩) ∧
          (u.poisonAt s (ea vs) n ≠ none → (∀ r, r < 64 → y.vcell l r = t.vcell l r) ∧
            ∃ q ∈ y.th.pending, q.cause = 0x06)) ∧
        (∀ l vs, p.rows = [(l, vs)] → fails vs = false →
          (op = 0x81 → BytesStored s x (k vs) (bytesOfNum n ((vs[1]?).getD 0))) ∧
          (op = 0x82 →
            (w.sub.toNat = 0xC → ∀ j, byteAt x.mem.spad j = byteAt s.mem.spad j) ∧
            (w.sub.toNat ≠ 0xC → BytesStored s x (k vs) (bytesOfNum 4 (atomicOp 32 w.sub.toNat (numOfBytes (old vs))
              ((vs[1]?).getD 0 % 2 ^ 32) ((vs[2]?).getD 0 % 2 ^ 32)))) ∧
            (codeIsV w.dst.toNat = true →
              (u.poisonAt s (ea vs) n = none → y.vcell l w.dst.toNat = ⟨BitVec.ofNat 32 (numOfBytes (old vs)), 0⟩) ∧
              (u.poisonAt s (ea vs) n ≠ none → y.vcell l w.dst.toNat = t.vcell l w.dst.toNat ∧
                ∃ q ∈ y.th.pending, q.cause = 0x06)))))

/-- R43, R44, R256, R326: LDG, STG and ATOMG that nothing holds back complete their passes, whatever their lanes, orders and
ports, and change no byte; without a source port they send one access for each active lane whose gang address passes, and
switch the others off. An access waits while an earlier one of its lane or instruction to its bytes, or the suspension of
its target, comes first; then at its target an STG stores its bytes, an LDG of a clean word gives the pending result its
value, an ATOMG the old word, and stores the table's new one (LD none), on a poisoned word too (the model's reading, log 74);
of a poisoned word the result is 0 and brings POISON with its arrival; an armed target refuses it: the lane is switched off,
each register and queue entry that waits for its result is 0 and full, and no byte changes. -/
def Obligations.GangAccesses : Prop :=
  (∀ (s : State) (c sl : Nat) (t : Team) (u : UnitRec) (e : LaneEntry) (rest : List LaneEntry) (i : Instr) (op : Nat)
    (w : LaneWord), Acting s c sl t u → laneOf i = some (op, w) → (op = 0x83 ∨ op = 0x84 ∨ op = 0x85) →
    let p := passOf s c sl t u e op w
    HeadPasses s p rest → p.memWait s = none →
    ∃ x y, exec i s = .next x ∧ Passed s x c sl t y rest ∧ x.mem = s.mem ∧
      (p.portSrc = none →
        (∀ l vs v off, (l, vs, v, off) ∈ gangRows s p → ∃ id g, x.gangAcc.find id = some g ∧
          g.lane = l ∧ g.target = v ∧ g.addr = off ∧ g.op = op ∧ g.core = c ∧ g.slot = sl ∧ g.data = (vs[1]?).getD 0) ∧
        (∀ l, (y.mask 0).getLsbD l = ((t.mask 0).getLsbD l && !(offRows s p true).contains l)) ∧
        (∀ l, y.fmask.getLsbD l = (t.fmask.getLsbD l || (offRows s p true).contains l)))) ∧
  (∀ (s : State) (id : Nat) (g : GangAccess) (r : UnitRec), s.gangAcc.find id = some g → g.core < 0x10000 →
    s.unit g.target = some r →
    let n := accessBytes g.op g.sub
    let k := spadKey r.core (r.spadOff g.addr)
    let old := spadRead s r.core (r.spadOff g.addr) n
    ((gangBefore s id g = true ∨ r.away = true) → exec (.gangAccessAtTarget id) s = .next s) ∧
    (gangBefore s id g = false → r.away = false → r.placed = true →
      ∃ x, exec (.gangAccessAtTarget id) s = .next x ∧ x.gangAcc = s.gangAcc.del id ∧
        ((r.armedAt g.addr n).isSome = false →
          (g.op = 0x84 → BytesStored s x k (bytesOfNum n g.data)) ∧
          ((g.op = 0x83 ∨ (g.op = 0x85 ∧ g.sub = 0xC)) → ∀ j, byteAt x.mem.spad j = byteAt s.mem.spad j) ∧
          (g.op = 0x85 → g.sub ≠ 0xC → BytesStored s x k (bytesOfNum 4
            (atomicOp 32 g.sub (numOfBytes old) (g.data % 2 ^ 32) g.compare.toNat))) ∧
          ((g.op = 0x83 ∨ g.op = 0x85) → ∀ q, s.pendings.find g.pend = some q → ∃ z, x.pendings.find g.pend = some z ∧
            (r.poisonAt s g.addr n = none → z = { q with value := some (loadWords (if g.op = 0x85 then 2 else g.sub) old) }) ∧
            (r.poisonAt s g.addr n ≠ none → z = { q with
              value := some (List.replicate (destRegs g.op g.sub) 0),
              psn := some (BitVec.ofNat 64 (g.gaddr % 2 ^ 32 * 2 ^ 32 + 0x01)) }))) ∧
        ((r.armedAt g.addr n).isSome = true → x.mem = s.mem ∧ x.pendings.find g.pend = none ∧
          ∀ t, SlotOn g.core g.slot → s.team g.core g.slot = some t →
            (∀ q, s.pendings.find g.pend = some q → q.deferred = none ∧ q.psn = none) →
            ∃ y, x.team g.core g.slot = some y ∧ y.mask 0 = t.mask 0 &&& ~~~((1#1024) <<< g.lane) ∧
              y.fmask = t.fmask ||| ((1#1024) <<< g.lane) ∧
              ∀ q, s.pendings.find g.pend = some q → q.discard = false → g.pend ≠ 0 →
                (∀ l j, j < 64 → (t.vcell l j).pend = g.pend → y.vcell l j = ⟨0, 0⟩) ∧
                (∀ l j, (t.qcell l j).pend = g.pend → y.qcell l j = ⟨0, 0⟩))))

namespace Sys2Proof.Claims
open Sys2Proof Sys2Proof.Machine

/-! ### Harts, translation and traffic -/

/-- The acting agent is hart `h`. -/
def ActingHart (s : State) (h : Nat) : Prop := s.cur = .hart h

/-- The hart writes rd, goes 4 on, and changes nothing else; x0 stays 0 (R262). -/
def hartWrites (h : Hart) (d : BitVec 5) (v : Word64) : Hart :=
  { h with pc := h.pc + 4, wait := .none, x := if d = 0 then h.x else h.x.put d.toNat v }

/-- A queue control block that QMAP takes: 128-byte aligned, V = 1, not MAPPED, SIZE not 0, no reserved gate (R425, R436). -/
def BlockTaken (s : State) (a : Nat) : Prop :=
  let w := (physWord s (a + 8)).toNat
  let g := (physWord s (a + 0x20)).toNat
  a % 128 = 0 ∧ bits w 63 1 ≠ 0 ∧ bits w 0 1 ≠ 1 ∧ bits w 36 4 ≠ 0 ∧ (bits g 63 1 = 1 → bits g 60 3 < 5)

/-- A ring control block that RFETCH takes, with its two words: 16-byte aligned, SIZE 1 to 12, no reserved bit set (R435,
R436). -/
def RingTaken (s : State) (a : Nat) (w0 w1 : Word64) : Prop :=
  a % 16 = 0 ∧ ringBlock s a = some (w0, w1) ∧ 1 ≤ bits w0.toNat 0 4 ∧ bits w0.toNat 0 4 ≤ 12 ∧ bits w0.toNat 4 8 = 0 ∧
    bits w0.toNat 52 12 = 0

/-- A hart after an exception: pc in mepc, the cause and value, MIE moved to MPIE, MPP machine mode, pc at mtvec. -/
def hartTrapped (h : Hart) (cause : Nat) (v : Word64) : Hart :=
  { h with mepc := h.pc, mcause := BitVec.ofNat 64 cause, mtval := v, pc := h.mtvec &&& ~~~3#64, wait := .none,
           mstatus := (h.mstatus &&& ~~~0x1888#64) ||| (((h.mstatus >>> 3) &&& 1#64) <<< 7) ||| 0x1800#64 }

end Sys2Proof.Claims

open Sys2Proof Sys2Proof.Machine Sys2Proof.Claims

/-! ### Firmware harts -/

/-- R436, R430: the six firmware instructions with the operands that their table takes. FW_BFX extracts its field. SWAIT
completes with the signal's value when its condition holds of it, and parks the hart otherwise, which the next update whose
value meets the condition wakes with that value, the hart then past the SWAIT. DISP copies the 16 words of its bundle into a
free injection entry, and waits while that is occupied. QMAP empties the slot and maps the block, with its fields, the write
index of its queue's kicks and the queue's pending bit cleared. QUNMAP of an empty slot gives 0, of a mapped one the block's
address plus 1, the slot empty, its gate wait forgotten and the pending bit set where work remains. RFETCH of an empty ring
gives 0, of another its oldest entry, which it writes 0, and CONS moves on by 1, in the ring's own block. -/
def Obligations.FirmwareResults : Prop :=
  ∀ (s : State) (h : Nat) (d r t : BitVec 5), ActingHart s h →
    let x := s.hart h
    let a := (x.rd r).toNat
    let n := (x.rd t).toNat
    (bits n 0 6 + bits n 8 6 ≤ 64 → bits n 6 2 = 0 → bits n 14 50 = 0 →
      exec (.fwBfx d r t) s = .next (s.setHart h (hartWrites x d (BitVec.ofNat 64 (a / 2 ^ bits n 0 6 % 2 ^ bits n 8 6))))) ∧
    (∀ g, g < 4096 → a = 0x0010000100000000 + 8 * g → bits n 61 3 < 5 →
      let v : Word64 := BitVec.ofNat 64 (bits n 0 61)
      (x.wait = .signal g → exec (.swait d r t) s = .next s) ∧
      (x.wait ≠ .signal g → signalHolds (bits n 61 3) (s.signal g) v false = true →
        exec (.swait d r t) s = .next (s.setHart h (hartWrites x d (s.signal g)))) ∧
      (x.wait ≠ .signal g → signalHolds (bits n 61 3) (s.signal g) v false = false →
        exec (.swait d r t) s = .next ({ s with
          waiters := s.waiters.put g (s.waiters.look [] g ++ [Waiter.hart h d.toNat (bits n 61 3) v]) }.setHart h
            { x with wait := .signal g })) ∧
      (∀ k c v new, s.waiters.look [] g = [Waiter.hart k d.toNat c v] → signalHolds c new v true = true →
        ∃ y, exec (.signalUpdate g .set new) s = .next y ∧ y.signal g = new ∧ y.waiters.look [] g = [] ∧
          y.hart k = hartWrites (s.hart k) d new)) ∧
    (n < 32 → (s.slot n).valid = true → a % 64 = 0 →
      ((s.slot n).injected = none → exec (.disp r t) s = .next ((s.setSlot n { s.slot n with
        injected := some ((List.range 16).map (fun i => physWord s (a + 8 * i))) }).setHart h (hartWrites x 0 0))) ∧
      ((s.slot n).injected ≠ none → exec (.disp r t) s = .next (s.setHart h { x with wait := .injection n }))) ∧
    (n < 32 → BlockTaken s a → ∃ y, exec (.qmap r t) s = .next y ∧
      y = (mapSlot (unmapSlot s n) a n).setHart h (hartWrites x 0 0) ∧
      let k := y.slot n
      let w (o : Nat) : Nat := (physWord (unmapSlot s n) (a + o)).toNat
      k.valid = true ∧ k.qcb = a ∧ k.ring = bits (w 0) 7 49 * 128 ∧ k.size = bits (w 8) 36 4 ∧ k.qid = bits (w 8) 24 12 ∧
        k.job = bits (w 8) 51 6 ∧ k.bpri = bits (w 8) 48 3 ∧ k.taken = BitVec.ofNat 32 (w 0x10) ∧
        k.done = BitVec.ofNat 32 (w 0x18) ∧ k.windex = s.qkick.look 0 k.qid ∧
        (setSorted (unmapSlot s n).kickPend = true → k.qid ∉ y.kickPend)) ∧
    (a < 32 → (s.slot a).valid = false → exec (.qunmap d r) s = .next (s.setHart h (hartWrites x d 0))) ∧
    (a < 32 → (s.slot a).valid = true → ∃ y, exec (.qunmap d r) s = .next y ∧
      y = (unmapSlot s a).setHart h (hartWrites x d (BitVec.ofNat 64 ((s.slot a).qcb + 1))) ∧
      (y.slot a).valid = false ∧ (∀ g, Waiter.slot a ∉ y.waiters.look [] g) ∧
      (pendingWork s (s.slot a) = true → (s.slot a).qid ∈ y.kickPend)) ∧
    (∀ w0 w1, RingTaken s a w0 w1 →
      let prod : Word32 := w1.setWidth 32
      let cons : Word32 := w1.extractLsb' 32 32
      let e := bits w0.toNat 12 40 * 4096 + 8 * (cons.toNat % 2 ^ bits w0.toNat 0 4)
      (prod = cons → exec (.rfetch d r) s = .next (s.setHart h (hartWrites x d 0))) ∧
      (prod ≠ cons → ∃ y, exec (.rfetch d r) s = .next y ∧
        y = (setCons (physWriteWords s e [0]) a prod (cons + 1)).setHart h (hartWrites x d (physWord s e)) ∧
        (a = 0x0010000000610000 → y.event = { s.event with head := s.event.head + 1 } ∧
          ∀ m k sh, extentOf s e = .routed m k sh → moduleRevokes s m k = false → ∀ j,
            byteAt y.mem.far j = if farKey m k ≤ j ∧ j < farKey m k + 8 then 0 else byteAt s.mem.far j)))

/-- R436: the exceptions of the six instructions, each precise with mepc the instruction: RFETCH of a misaligned block, of one
that cannot be read or of one with a bad SIZE or a reserved bit 24; FW_BFX of a field past bit 63 or with a reserved bit 25;
SWAIT of an address that is no signal or of a reserved condition 26; DISP of a slot that is not mapped or of a misaligned
bundle 27; QMAP to a slot above 31 or of a block it does not take 28; QUNMAP of a slot above 31 29; mtval is the operand
named, and nothing but the hart's trap registers, status and pc changes. -/
def Obligations.FirmwareTraps : Prop :=
  ∀ (s : State) (h : Nat) (d r t : BitVec 5), ActingHart s h →
    let x := s.hart h
    let a := (x.rd r).toNat
    let n := (x.rd t).toNat
    let trap (i : Instr) (cause : Nat) (v : Word64) : Prop := exec i s = .next (s.setHart h (hartTrapped x cause v))
    ((a % 16 ≠ 0 ∨ ∀ w0 w1, ¬RingTaken s a w0 w1) → trap (.rfetch d r) 24 (x.rd r)) ∧
    ((64 < bits n 0 6 + bits n 8 6 ∨ bits n 6 2 ≠ 0 ∨ bits n 14 50 ≠ 0) → trap (.fwBfx d r t) 25 (x.rd t)) ∧
    ((∀ g, g < 4096 → a ≠ 0x0010000100000000 + 8 * g) → trap (.swait d r t) 26 (x.rd r)) ∧
    (∀ g, g < 4096 → a = 0x0010000100000000 + 8 * g → 5 ≤ bits n 61 3 → trap (.swait d r t) 26 (x.rd t)) ∧
    ((32 ≤ n ∨ (s.slot n).valid = false) → trap (.disp r t) 27 (x.rd t)) ∧
    (n < 32 → (s.slot n).valid = true → a % 64 ≠ 0 → trap (.disp r t) 27 (x.rd r)) ∧
    (32 ≤ n → trap (.qmap r t) 28 (x.rd t)) ∧ (n < 32 → ¬BlockTaken s a → trap (.qmap r t) 28 (x.rd r)) ∧
    (32 ≤ a → trap (.qunmap d r) 29 (x.rd r))

/-! ### Traps that wait, the timer and the active set -/

/-- R390, R392: TRAP_ENTRY takes the lowest cause that may be taken off the stream and enters it there; with none nothing
happens. TIMER posts its cause once the time base has reached TCMP, and TCMP becomes all ones; before that nothing
happens (R450). AGEING_CAP_DEMOTE, once a cap of 4,096 cycles has come, makes the active team the youngest, and the oldest
ready pending team of the core takes its place, while the datapath goes on with the team it serves, where that is another;
before that nothing happens (R378, R379). -/
def Obligations.TrapsAndTimer : Prop :=
  (∀ (s : State) (a : Agent),
     (nextTrap s a = none → exec (.trapEntry a) s = .next s) ∧
     (∀ c sl t p, a = .team c sl → c < 0x10000 → s.team c sl = some t → t.set_ = .active → t.th.pending = p :: t.th.pending.tail →
       p.shelf = false → (p.cause = 0x14 → ∀ k, t.th.at_ ≠ some (.parked k)) → t.th.tcause.getLsbD 63 = false → t.th.tvec ≠ 0 → p.cause < 256 → p.sub < 256 →
       ∃ x y, exec (.trapEntry a) s = .next x ∧ x.team c sl = some y ∧
         y.th.tcause = BitVec.ofNat 64 (2 ^ 63 + p.sub * 256 + p.cause) ∧ y.th.tepc = t.th.spc ∧ y.th.tinfo = p.info ∧
         y.th.spc = t.th.tvec ∧ y.th.g = t.th.g ∧ y.v = t.v ∧ x = { s with teams := x.teams })) ∧
  (∀ (s : State) (c sl : Nat) (t : Team), c < 0x10000 → s.team c sl = some t →
    (s.now < t.th.tcmp.toNat → exec (.timer (.team c sl)) s = .next s) ∧
    (t.th.tcmp.toNat ≤ s.now → ∃ x y, exec (.timer (.team c sl)) s = .next x ∧ x.team c sl = some y ∧
      y.th.tcmp = BitVec.allOnes 64 ∧ (∃ p ∈ y.th.pending, p.cause = 0x14) ∧ y.th.spc = t.th.spc ∧ y.th.g = t.th.g)) ∧
  (∀ (s : State) (c sl : Nat) (t : Team), c < 1024 → sl < 32 → s.team c sl = some t → t.set_ = .active →
    (passCap s c sl = false → setCap s c t = false → exec (.ageingCapDemote c sl) s = .next s) ∧
    (∀ k q, (passCap s c sl = true ∨ setCap s c t = true) → oldestReady s c = some (k, q) → k ≠ sl →
      ∃ x y z, exec (.ageingCapDemote c sl) s = .next x ∧ x.team c sl = some y ∧ y.set_ = .pending ∧
        y.age = 32 * s.nextId + t.index ∧ x.team c k = some z ∧ z.set_ = .active ∧
        ((s.core c).path ≠ some sl → (x.core c).path = (s.core c).path ∧ (x.core c).run = (s.core c).run)))

/-! ### Translation -/

/-- R12, R17, R23, R25: a walk that reads an entry with V = 0 writes a fault record and parks its request; one that reads a
higher entry goes one level down; a request to a page in the TLB that may be read
goes to the module the extent tables name. -/
def Obligations.Translation : Prop :=
  (∀ (s : State) (id : Nat) (r : Req) (bs : List Byte), s.reqs.find id = some r → r.st = .walking →
    physRead s (r.table + 8 * tableIndex r.level r.va) 8 = some (bs, false) →
    let pte := bytesWord bs
    (pte.getLsbD 0 = false → dieFull (s.die r.die) = false → ∃ x, exec (.pageTableWalk id) s = .next x ∧
      x.reqs.find id = some { r with st := .parked } ∧ (x.die r.die).xfbp = (s.die r.die).xfbp + 1 ∧
      ∃ w1, (x.die r.die).xfb.find ((s.die r.die).xfbp.toNat % 1024) = some [BitVec.ofNat 64 r.va, w1, pte, 0]) ∧
    (pte.getLsbD 0 = true → bits pte.toNat 8 2 = 3 → r.level ≠ 0 → exec (.pageTableWalk id) s = .next { s with
      reqs := s.reqs.put id { r with level := r.level - 1, table := bits pte.toNat 16 36 * 65536 + bits pte.toNat 12 4 * 4096 } })) ∧
  (∀ (s : State) (id : Nat) (r : Req) (e : TlbEntry) (m a : Nat), s.reqs.find id = some r → r.st = .fresh → r.zero = false →
    r.kind = .fpost → r.level ≠ 4 → r.va + r.len ≤ 2 ^ 56 → 1 ≤ r.len → r.write = false →
    (s.reqs.filter (fun q => q.2.die == r.die && q.2.st == .holding)).length < 64 →
    (s.die r.die).tlb.find? (fun e => e.covers r.job r.va) = some e → e.pte.getLsbD 1 = true →
    extentOf s (leafPa e.pte e.size r.va) = .routed m a (e.pte.getLsbD 5) →
    ∃ x, exec (.requestTranslate id) s = .next x ∧
      x.reqs.find id = some { r with st := .routed, module := m, maddr := a, sq := e.pte.getLsbD 4, level := e.size }) ∧
  (∀ (s : State) (die : Nat) (job : BitVec 6), exec (.replay die job) s = .next { s with
    reqs := s.reqs.map (fun e => if e.2.die = die ∧ e.2.job = job.toNat ∧ e.2.st = .parked then
      (e.1, { e.2 with st := .fresh, level := 4 }) else e) }) ∧
  (∀ (s : State) (die : Nat) (w : BitVec 11), (∀ e ∈ s.reqs, e.2.die = die → e.2.st ≠ .holding) →
    exec (.faultBufferConsume die w) s = .next (s.setDie die { s.die die with xfbc := w }))

/-- R20, R21: an invalidation of a job, an address or everything drops the TLB entries it covers and no others, and is busy;
XINVC keeps JOB and SIZE as written, with BUSY; while one is busy another has no effect; it is done once every walk and
request it waits for has ended. -/
def Obligations.Invalidations : Prop :=
  ∀ (s : State) (die : Nat) (job : BitVec 6) (size : BitVec 2),
    let d := s.die die
    (d.inv = none → ∀ i gone, ((i = .invalidateJob die job size ∧ gone = fun (e : TlbEntry) => e.job == job.toNat) ∨
        (i = .invalidateAll die job size ∧ gone = fun _ => true) ∨
        (i = .invalidateAddress die job size ∧ gone = fun (e : TlbEntry) => e.job == job.toNat &&
          (size == 3 || size.toNat == e.size) && e.page == d.xinva.toNat / 2 ^ (16 + 9 * e.size))) →
      ∃ x, exec i s = .next x ∧ (x.die die).tlb = d.tlb.filter (fun e => !gone e) ∧ (x.die die).inv.isSome = true ∧
        (x.die die).xinvc = BitVec.ofNat 64 (2 ^ 63 + job.toNat * 256 + size.toNat * 4) ∧ x = { s with dies := x.dies }) ∧
    (d.inv.isSome = true → exec (.invalidateJob die job size) s = .next s ∧ exec (.invalidateAll die job size) s = .next s ∧
      exec (.invalidateAddress die job size) s = .next s) ∧
    (∀ v, d.inv = some v →
      ((∀ q ∈ v.waits, ∀ r, s.reqs.find q = some r → r.st ≠ .walking ∧ r.st ≠ .holding ∧ r.st ≠ .routed) →
        exec (.invalidationDone die) s = .next (s.setDie die { d with inv := none, xinvc := d.xinvc &&& 0x7FFFFFFFFFFFFFFF#64 })) ∧
      (∀ q r, q ∈ v.waits → s.reqs.find q = some r → (r.st = .walking ∨ r.st = .holding ∨ r.st = .routed) →
        exec (.invalidationDone die) s = .next s))

/-- R36, R47: EXTCOMMIT publishes the staged tables whole and is busy until done, and does nothing while busy; CODE_INVALIDATE
empties every code cache; a code line that has been read is installed for its requester. -/
def Obligations.TablesAndCode : Prop :=
  (∀ (s : State),
    (s.extBusy = false → ∃ x, exec .extcommit s = .next x ∧ x.extLive = s.extStaged ∧ x.mrtLive = s.mrtStaged ∧
      x.extBusy = true ∧ x.mem = s.mem ∧ x.teams = s.teams) ∧
    (s.extBusy = true → exec .extcommit s = .next s ∧ ∃ x, exec .extcommitDone s = .next x ∧ x.extBusy = false ∧
      x.extLive = s.extLive) ∧
    ∃ x, exec .codeInvalidate s = .next x ∧ x.code = [] ∧ x.cinv = false ∧ x.mem = s.mem) ∧
  (∀ (s : State) (id : Nat) (r : Req), s.reqs.find id = some r → r.kind = .code → r.st = .returned → r.leg = .back →
    r.psn.contains true = false → jobOf s r.agent = r.job → ∃ x, exec (.codeCacheFill id) s = .next x ∧
      x.reqs.find id = none ∧ ∀ j, j < 32 →
        codeParcel x r.agent (r.va + 4 * j) = some (numOfBytes ((r.data.drop (4 * j)).take 4) % 2 ^ 32))

namespace Sys2Proof.Claims
open Sys2Proof Sys2Proof.Machine

/-! ### Requests at modules and arrivals -/

/-- Between two memories the bytes `bs` were written from `k` on, and every other byte reads as before. -/
def BytesWritten (m m' : FMap Byte) (k : Nat) (bs : List Byte) : Prop :=
  ∀ j, byteAt m' j = if k ≤ j ∧ j < k + bs.length then (bs[j - k]?).getD 0 else byteAt m j

/-- Request `id` has arrived at its module, every flit of it, and no earlier access of its agent to an SQ page goes first
(R40, R190). -/
def AtModule (s : State) (id : Nat) (r : Req) : Prop :=
  s.reqs.find id = some r ∧ r.st = .routed ∧ r.leg = .there ∧ sqBlocked s id r = false

/-- Every byte of a request is given whole. -/
def WholeBytes (r : Req) : Prop := ∀ m ∈ r.mask, m = 0xFF

/-- The tag of a unit that runs, after bytes performed, a fault bit and completed commands (R88, R89). -/
def TagNoted (x : State) (v : Nat) (u : UnitRec) (tg bytes done : Nat) (psn flt : Bool) : Prop :=
  let t := u.tags.look Tag.zero tg
  ∃ r, x.unit v = some r ∧ r.tags.look Tag.zero tg = ⟨t.out - done, t.rdy || (decide (0 < done) && t.out - done == 0),
    min (t.bytes + bytes) 0xFFFFFFFF, t.psn || psn, t.flt || flt⟩

end Sys2Proof.Claims

open Sys2Proof Sys2Proof.Machine Sys2Proof.Claims

/-! ### Requests at modules -/

/-- R33, R190, R202, R89, R337: at its module a read takes the bytes there with their poison, or zeros, all poisoned, where
its extent was revoked as it arrived; a write packet's bytes are stored, and dropped where it was revoked; its
acknowledgement, no team of the unit waiting on a tag, counts the bytes at the tag and, as the command's last, completes it;
an atomic waits for those to its word that arrived before it, then (outside capture and replay) takes the old bytes, and the word becomes the value of R256, but for LD, a poisoned
word and a revoked one, which stay. A request that has not arrived is not performed. -/
def Obligations.ModuleRequests : Prop :=
  ∀ (s : State) (id : Nat) (r : Req),
    (s.reqs.find id = some r → r.st = .routed → r.leg ≠ .there → exec (.readRequest id) s = .next s ∧
      exec (.writePacket id) s = .next s ∧ exec (.atomicRequest id) s = .next s) ∧
    (AtModule s id r → r.kind ∈ ([.fpost, .code, .bind, .header, .record, .list, .cpySrc] : List ReqKind) →
      (r.revoked = false → exec (.readRequest id) s = .next { s with reqs := s.reqs.put id { r with
        st := .returned, data := bytesAt s.mem.far (farKey r.module r.maddr) r.len,
        psn := (List.range r.len).map (fun j => s.mem.farPsn.contains ((farKey r.module r.maddr + j) / 8)) } }) ∧
      (r.revoked = true → exec (.readRequest id) s = .next { s with reqs := s.reqs.put id { r with
        st := .returned, data := List.replicate r.len 0, psn := List.replicate r.len true } })) ∧
    (AtModule s id r → (r.kind = .wpost ∨ r.kind = .cpyDst) → packetOf s r Req.arrived = [(id, r)] →
      (r.revoked = true → exec (.writePacket id) s = .next { s with reqs := s.reqs.put id { r with st := .returned } }) ∧
      (r.revoked = false → WholeBytes r → ∃ x, exec (.writePacket id) s = .next x ∧
        x.reqs = s.reqs.put id { r with st := .returned } ∧
        BytesWritten s.mem.far x.mem.far (farKey r.module r.maddr) r.data ∧ x.mem.spad = s.mem.spad)) ∧
    (∀ c u, s.reqs.find id = some r → r.kind = .wpost → r.st = .returned → r.leg = .back → r.zero = false →
      r.revoked = false → packetOf s r Req.answered = [(id, r)] → s.cmds.find r.cmd = some c → c.kind = .wpost →
      s.unit c.unit = some u → u.st = .running → NoTagWaits s c.unit →
      ((∃ e ∈ s.reqs, e.2.cmd = r.cmd ∧ e.1 ≠ id) → ∃ x, exec (.writeAckReceive id) s = .next x ∧
        x.reqs.find id = none ∧ TagNoted x c.unit u c.tag r.len 0 (r.psn.contains true) false) ∧
      ((∀ e ∈ s.reqs, e.2.cmd = r.cmd → e.1 = id) → ∃ x, exec (.writeAckReceive id) s = .next x ∧
        x.cmds.find r.cmd = none ∧ TagNoted x c.unit u c.tag r.len 1 (r.psn.contains true) false)) ∧
    (AtModule s id r → r.kind = .ratm → atomicBehind s r = true → exec (.atomicRequest id) s = .next s) ∧
    (∀ c, AtModule s id r → r.kind = .ratm → atomicBehind s r = false → s.cmds.find r.cmd = some c → s.cap.mode = 0 →
      r.revoked = true →
      exec (.atomicRequest id) s = .next { s with reqs := s.reqs.put id { r with
        st := .returned, data := bytesAt s.mem.far (farKey r.module r.maddr) r.len, psn := List.replicate r.len true } }) ∧
    (∀ c, AtModule s id r → r.kind = .ratm → atomicBehind s r = false → s.cmds.find r.cmd = some c → s.cap.mode = 0 →
      r.revoked = false →
      let k := farKey r.module r.maddr
      let old := bytesAt s.mem.far k r.len
      let w := 2 ^ (8 * r.len)
      let poisoned := (poisonIn s.mem.farPsn k r.len).isSome
      ∃ x, exec (.atomicRequest id) s = .next x ∧
        x.reqs = s.reqs.put id { r with
          st := .returned, data := old, psn := List.replicate r.len poisoned } ∧
        BytesWritten s.mem.far x.mem.far k (if poisoned ∨ c.op = 0xC then old
          else bytesOfNum r.len (atomicOp (8 * r.len) c.op (numOfBytes old) (c.operand.toNat % w) (c.compare.toNat % w))))

/-! ### Landings, posts that waited, chains at the modules -/

/-- R61, R64, R57, R75, R201, R202, R203: a tile piece whose response is back stores its bytes in its unit's allocation and
counts at the barrier of its slot, which fires with the last byte and makes the slot LANDED (where no WIN REL waits on it); a
post that waited, behind no fence, arms its slot once its waits have ended, but not while its team is saved; a hop of a chain stores the fill, or adds its operand to the running sum, and the last hop completes the
chain with its bytes and faults at its tag; a revoke adds the module extent; a dead module leaves the route table. -/
def Obligations.Arrivals : Prop :=
  (∀ (s : State) (id : Nat) (r : Req) (c : Cmd) (u : UnitRec), s.reqs.find id = some r → r.kind = .fpost →
    r.answered = true → r.revoked = false → WholeBytes r → s.cmds.find r.cmd = some c → c.kind = .fpost →
    s.unit c.unit = some u → u.st = .running → u.entry = 0 → s.cap.mode = 0 →
    (∀ e ∈ s.teams, e.2.th.relOrder c.win c.winSlot = none) →
    let n := (u.windows.look Win.none c.win).bar0 + c.winSlot
    let b := u.bars.look Barrier.zero n
    ∃ x v, exec (.landing id) s = .next x ∧ x.reqs.find id = none ∧ x.unit c.unit = some v ∧
      BytesWritten s.mem.spad x.mem.spad (spadKey u.core (u.spadOff r.dest)) r.data ∧
      ((b.claimed = false ∨ b.arrived + r.len ≠ b.expected) →
        v.bars.look Barrier.zero n = { b with arrived := b.arrived + r.len }) ∧
      (∀ w j, b.claimed = true → b.arrived + r.len = b.expected → u.barOwner n = some (w, j) →
        v.bars.look Barrier.zero n = { b with arrived := b.expected, phase := !b.phase } ∧
        (v.windows.look Win.none w).slotState j = .landed)) ∧
  (∀ (s : State) (core sl id : Nat) (t : Team) (u : UnitRec) (c : Cmd), core < 1024 → s.team core sl = some t →
    (t.set_ = .saved → exec (.fpostArm core sl) s = .next s) ∧
    (t.set_ ≠ .saved → t.th.at_ = some (.issuing id) → t.th.wait ≠ .none → s.cmds.find id = some c → c.kind = .fpost → c.pegged = true →
    s.unit t.unit = some u → c.unit = t.unit → t.opLog.length < 16 → fencedOut s core sl = false →
    let x := u.windows.look Win.none c.win
    let b := u.bars.look Barrier.zero (x.bar0 + c.winSlot)
    writesToward s c.unit (x.slotBase c.winSlot) x.stride = false →
    ∃ y r v, exec (.fpostArm core sl) s = .next y ∧ y.team core sl = some r ∧ r.th.spc = t.th.spc + 4 ∧
      y.unit t.unit = some v ∧ v.windows.look Win.none c.win = { x with st := x.st.put c.winSlot .armed } ∧
      v.bars.look Barrier.zero (x.bar0 + c.winSlot) = { b with expected := x.bytes, arrived := 0 })) ∧
  (∀ (s : State) (id va j : Nat) (c : Cmd) (q : Req) (dst : Bool), s.cmds.find id = some c →
    (c.kind = .mred ∨ c.kind = .mfill) → c.leg = .there → (∀ e ∈ s.reqs, e.2.cmd = id → e.2.st = .routed) → chainBlocked s id = false →
    c.hops[c.hop]? = some (va, dst) → s.cap.mode = 0 → q.va = va →
    (cmdReqs s id).filter (fun e => e.2.dest == c.hop) = [(j, q)] → q.revoked = false → moduleRevokes s q.module q.maddr = false →
    let n := bits c.chain.toNat 32 16 * 4
    (dst = true → c.kind = .mfill → ∃ x, exec (.chainHop id) s = .next x ∧
      x.cmds.find id = some { c with hop := c.hop + 1, size := c.size + n, lastHop := (q.module, q.maddr) } ∧
      BytesWritten s.mem.far x.mem.far (farKey q.module q.maddr) ((fillBytes c.pat n).take q.len)) ∧
    (dst = false → ∃ x, exec (.chainHop id) s = .next x ∧ x.mem = s.mem ∧
      x.cmds.find id = some { c with
        hop := c.hop + 1, lastHop := (q.module, q.maddr), psn := c.psn || (poisonIn s.mem.farPsn (farKey q.module q.maddr) q.len).isSome,
        words := chainAdd c.words
          (chainRead (bits c.chain.toNat 8 6) (bytesAt s.mem.far (farKey q.module q.maddr) q.len)) })) ∧
  (∀ (s : State) (id : Nat) (c : Cmd) (u : UnitRec), s.cmds.find id = some c → (c.kind = .mred ∨ c.kind = .mfill) →
    c.hop = c.hops.length → c.leg = .back → (∀ e ∈ s.reqs, e.2.cmd ≠ id) → s.unit c.unit = some u → u.st = .running →
    NoTagWaits s c.unit →
    ∃ x, exec (.chainCompletion id) s = .next x ∧ x.cmds.find id = none ∧
      TagNoted x c.unit u c.tag c.size 1 (decide (c.kind = .mred) && c.psn) c.flt) ∧
  (∀ (s : State) (m e : Nat), ∃ x, exec (.moduleRevoke m e) s = .next x ∧ x = { s with modRevoked := x.modRevoked } ∧
    ∀ p, p ∈ x.modRevoked ↔ p = (m, e) ∨ p ∈ s.modRevoked) ∧
  (∀ (s : State) (m : Nat), ∃ x, exec (.moduleFatalError m) s = .next x ∧ m ∈ x.modDead ∧
    (m ∉ s.modDead → x.mrtLive = s.mrtLive.map (fun e =>
      if bits e.2.toNat 56 8 = m then (e.1, e.2 &&& ~~~1#64) else e)))

namespace Sys2Proof.Claims
open Sys2Proof Sys2Proof.Machine

/-! ### Links and the matrix unit -/

/-- The oldest flit of direction `d`, of TYPE `typ`, arrives as `f` and is taken: its CRC holds, no dark lane carried it, its
EPOCH is the receiver's, and the link carries flits (R186, R188, R194). -/
def Taken (k : Link) (d : LinkDir) (typ : Nat) (noise : BitVec 2048) (f : List Byte)
    (rest : List (List Byte × BitVec 18)) : Prop :=
  ∃ g, (k.dir d).wire = (g, 0#18) :: rest ∧ flitType g = typ ∧ flitNoise g noise = f ∧ flitCrcOk f = true ∧
    flitType f = typ ∧ flitEpoch f = (k.dir d).epoch ∧ k.carries = true

/-- The oldest flit of direction `d`, of TYPE `typ`, arrives damaged: a dark lane, which the link no longer uses, carried a part
of it, or its CRC fails (R186, R188). -/
def Damaged (k : Link) (d : LinkDir) (typ : Nat) (noise : BitVec 2048) (rest : List (List Byte × BitVec 18)) : Prop :=
  ∃ g lost, (k.dir d).wire = (g, lost) :: rest ∧ flitType g = typ ∧ lost &&& k.active = 0 ∧
    (lost ≠ 0 ∨ flitCrcOk (flitNoise g noise) = false)

/-- Between `k` and `k'` one flit more is on the fibre in direction `d`: its TYPE, SEQ and payload, under `k`'s EPOCH. -/
def Sends (k k' : Link) (d : LinkDir) (typ : Nat) (seq : BitVec 24) (body : List Byte) : Prop :=
  ∃ (ack : BitVec 24) (cred : Nat) (lost : BitVec 18), cred < 256 ∧
    (k'.dir d).wire = (k.dir d).wire ++ [(flitBytes seq ack typ cred k.epoch body, lost)]

/-- Link `n` alone may differ: no other link, no team, no request. -/
def OneLink (s x : State) (n : Nat) : Prop :=
  (∀ m, m ≠ n → x.link m = s.link m) ∧ x.teams = s.teams ∧ x.reqs = s.reqs

/-- The place of a waiting program's bundle in the order in which bundles started (R345). -/
def startOrder (s : State) (w : WaitingProg) : Nat := ((s.launch w.launch).map (·.order)).getD 0

/-- The first operation of a cluster's queue that no save holds back and that satisfies `p` (R346, R353). -/
def FirstOp (s : State) (c i : Nat) (o : MxOp) (p : MxOp → Bool) : Prop :=
  (s.cluster c).ops[i]? = some o ∧ opSaved s c o = false ∧ p o = true ∧
    ∀ j q, j < i → (s.cluster c).ops[j]? = some q → opSaved s c q = true ∨ p q = false

end Sys2Proof.Claims

open Sys2Proof Sys2Proof.Machine Sys2Proof.Claims

/-! ### Links -/

/-- R188, R190 to R193, R196, R197, R194, R202: a flit's fields read back, its CRC-64 holds; sending a packet numbers its
flits, spends their credits and keeps them for replay; a DATA flit in turn is accepted and its buffer's credit returned, the
request of a packet of one flit has then arrived, and meets the revokes before it, and a response is back; a DATA flit that
fails leads to a NAK, one accepted before changes no number; the control flits grant credits, start a replay, carry margins,
correct credits, and move the receiver's epoch; a NAK is sent again after 2 µs without its replay, telemetry and audits go
out when they are due. -/
def Obligations.FlitTraffic : Prop :=
  (∀ (seq ack : BitVec 24) (typ cred : Nat) (epoch : BitVec 4) (body : List Byte), typ < 16 → cred < 256 →
    let f := flitBytes seq ack typ cred epoch body
    f.length = 256 ∧ flitSeq f = seq ∧ flitAck f = ack ∧ flitType f = typ ∧ flitCred f = cred ∧ flitEpoch f = epoch ∧
      flitCrcOk f = true ∧ flitBody f = (body ++ List.replicate 240 0).take 240) ∧
  ∀ (s : State) (n : Nat) (d : LinkDir) (w : BitVec 2048),
    let k := s.link n
    let e := k.dir d
    let o := k.dir (otherDir d)
    let does (i : Instr) (P : Link → Prop) : Prop := ∃ x, exec i s = .next x ∧ P (x.link n)
    (∀ id p, packetFor s d id = some p → canSend s n d p = true →
      does (.packetSend n d id) (fun y => (y.dir d).nextSeq = e.nextSeq + BitVec.ofNat 24 p.flits ∧
        (y.dir d).credits = e.credits - p.flits ∧ (y.dir d).wire.length = e.wire.length + p.flits ∧
        (y.dir d).replay = e.replay ++ (List.range p.flits).map (fun j =>
          (e.nextSeq + BitVec.ofNat 24 j, (p.bytes.drop (240 * j)).take 240)))) ∧
    (∀ id r p, s.reqs.find id = some r → packetFor s d id = some p → canSend s n d p = true → p.ids = [id] →
      ∃ x, exec (.packetSend n d id) s = .next x ∧
        x.reqs.find id = some { r with leg := match d with | .out => .sent | .back => .answered }) ∧
    (∀ id p, packetFor s d id = some p → canSend s n d p = false → exec (.packetSend n d id) s = .next s) ∧
    (∀ f rest, Taken k d 0 w f rest → o.resend = [] → flitSeq f = e.expect → 0 < e.freeBufs →
      does (.dataFlitReceive n d w) (fun y => (y.dir d).expect = e.expect + 1 ∧ (y.dir d).nakWait = false ∧
        (y.dir d).wire = rest ∧ (y.dir d).gotSinceAudit = e.gotSinceAudit + 1 ∧ (y.dir d).owed = 0 ∧
        (y.dir d).freeBufs = e.freeBufs + e.owed) ∧
      (∀ id r, e.packetAt e.expect = some ⟨e.expect, 1, [id]⟩ → s.reqs.find id = some r →
        (d = .out → r.leg = .sent → ∃ x, exec (.dataFlitReceive n d w) s = .next x ∧
          x.reqs.find id = some { r with revoked := moduleRevokes s r.module r.maddr, leg := .there, came := s.nextId }) ∧
        (d = .back → r.leg = .answered → r.kind ∈ ([.code, .bind, .header, .record, .list] : List ReqKind) →
          ∃ x, exec (.dataFlitReceive n d w) s = .next x ∧ x.reqs.find id = some
            (if r.revoked = true then { r with leg := .back, st := .faulted, fkind := 4 } else { r with leg := .back })))) ∧
    (∀ f rest, Taken k d 0 w f rest → o.resend = [] → flitSeq f ≠ e.expect → seqBefore (flitSeq f) e.expect = true →
      does (.dataFlitReceive n d w) (fun y =>
        y.dir d = { e with wire := rest, aged := e.aged - 1, freeBufs := e.freeBufs - 1, owed := e.owed + 1 })) ∧
    (∀ rest, Damaged k d 0 w rest → k.carries = true → e.nakWait = false →
      does (.dataFlitReceive n d w) (fun y => (y.dir d).nakWait = true ∧ (y.dir d).nakAt = s.now ∧
        (y.dir d).expect = e.expect ∧ Sends k y (otherDir d) 2 e.expect [])) ∧
    (∀ f rest, Taken k d 1 w f rest → o.resend = [] →
      does (.idleFlitReceive n d w) (fun y => (y.dir (otherDir d)).credits = o.credits + flitCred f ∧
        (y.dir (otherDir d)).replay = (o.acked (flitAck f)).replay ∧ (y.dir d).expect = e.expect)) ∧
    (∀ f rest, Taken k d 2 w f rest → does (.nakReceive n d w) (fun y =>
      (y.dir (otherDir d)).replay = ((o.acked (flitAck f)).acked (flitSeq f - 1)).replay ∧
      (y.dir (otherDir d)).nakSeq = flitSeq f ∧
      (y.dir (otherDir d)).nakCount = if o.nakSeq = flitSeq f then o.nakCount + 1 else 1)) ∧
    (k.carries = true → o.nakWait = true →
      (o.nakAt + 2000 ≤ s.now → does (.nakTimeout n d) (fun y => Sends k y d 2 o.expect [])) ∧
      (s.now < o.nakAt + 2000 → exec (.nakTimeout n d) s = .next s)) ∧
    (∀ rs : List Word64, k.carries = true → 4096 ≤ e.sentSinceTele → does (.telemetrySend n d rs) (fun y =>
      Sends k y d 3 e.nextSeq ((List.range 18).flatMap (fun i => wordBytes 8 (rs.getD i 0 &&& 0xFFFFFFFFFF#64))) ∧
      (y.dir d).sentSinceTele = e.sentSinceTele - 4096)) ∧
    (∀ f rest, Taken k d 3 w f rest → does (.telemetryReceive n d w) (fun y => ∀ j, j < 18 →
      y.margins.look 0 ((if d = .back then 0 else 18) + j) =
        (BitVec.ofNat 16 (bits (bytesWord (((flitBody f).drop (8 * j)).take 8)).toNat 16 16)).toInt)) ∧
    (k.carries = true → 1024 ≤ o.gotSinceAudit → o.nakWait = false → does (.auditSend n d) (fun y =>
      Sends k y d 4 e.nextSeq (bytesOfNum 4 (o.freeBufs + min o.owed 255).toNat ++ bytesOfNum 4 (o.expect - 1).toNat) ∧
      (y.dir (otherDir d)).gotSinceAudit = o.gotSinceAudit - 1024)) ∧
    (∀ f rest, Taken k d 4 w f rest → o.resend = [] → does (.auditReceive n d w) (fun y =>
      let p := (bytesWord ((flitBody f).take 8)).toNat
      (y.dir (otherDir d)).credits = (bits p 0 32 : Int) - ((o.nextSeq - 1 - BitVec.ofNat 24 (bits p 32 24)).toNat : Int))) ∧
    (∀ f rest, Taken k d 5 w f rest → does (.mapFlitReceive n d w) (fun y => (y.dir d).epoch = e.epoch + 1))

/-- R185, R186, R187, R194, R195, R458: TUNE, its completion, a retrain and taking down, each with its MODULE, and the record of
the loss that they end; a lost lane, its light gone, starts a retrain to the set of R194 or of every lane (that a dark lane's
loss comes after the flits which it carried is the model's reading, log 100); a link that does not train is DOWN; a spare takes the lane it was trained for;
gating halves the lanes after 10 µs of a short send queue and lights them again for a long one. A change of lanes goes by a
new epoch. -/
def Obligations.LinkLanes : Prop :=
  ∀ (s : State) (n : Nat),
    let k := s.link n
    let width (m : BitVec 18) : Nat := if (lanesOf m).length = 16 then 3 else 4
    let runs (i : Instr) (m : BitVec 18) : Prop := ∃ x, exec i s = .next x ∧ OneLink s x n ∧ (x.link n).active = m ∧
      (x.link n).epoch = k.epoch + 1 ∧ (x.link n).state = width m
    (∀ m, k.busy = false → k.state = 0 →
      exec (.tune n m) s = .next (s.setLink n { k with
        busy := true, state := 1, target := m, module := m, since := s.now })) ∧
    (∀ m, k.busy = true → exec (.tune n m) s = .next s) ∧
    (∀ h a m, (k.state = 1 ∨ k.state = 2) → lossSet (h &&& ~~~k.dark) = some a → widestSet (h &&& ~~~k.dark) = some m →
      runs (.tuneComplete n h) m) ∧
    (∀ l m, k.active.getLsbD l = true → k.carries = true → k.lightComes l = false → lossSet (k.healthy &&& ~~~(1#18 <<< l)) = some m →
      ∃ x, exec (.wavelengthLoss n l) s = .next x ∧ (x.link n).state = 5 ∧ (x.link n).full = false ∧
        (x.link n).healthy = k.healthy &&& ~~~(1#18 <<< l) ∧ (x.link n).lost = some l ∧ (x.link n).since = s.now) ∧
    (∀ l, k.active.getLsbD l = true → k.carries = true → k.lightComes l = true → exec (.wavelengthLoss n l) s = .next s) ∧
    (∀ l, k.active.getLsbD l = true → k.carries = true → k.lightComes l = false → lossSet (k.healthy &&& ~~~(1#18 <<< l)) = none →
      ∃ x, exec (.wavelengthLoss n l) s = .next x ∧ (x.link n).state = 5 ∧ (x.link n).full = true ∧
        (x.link n).levp = k.levp + 1) ∧
    (∀ l, k.healthy.getLsbD l = true → k.active.getLsbD l = false → k.gated.getLsbD l = false →
      ∃ x, exec (.inactiveLaneLoss n l) s = .next x ∧ OneLink s x n ∧ (x.link n).active = k.active ∧
        (x.link n).levp = (if k.state = 5 then k.levp else k.levp + 1) ∧
        (x.link n).state = k.state ∧ (x.link n).healthy = k.healthy &&& ~~~(1#18 <<< l)) ∧
    (∀ h m, k.state = 5 → k.full = false → lossSet (k.healthy &&& h &&& ~~~k.dark) = some m → runs (.retrainComplete n h) m) ∧
    (∀ h, k.state = 5 → k.full = false → lossSet (k.healthy &&& h &&& ~~~k.dark) = none → ∃ x,
      exec (.retrainComplete n h) s = .next x ∧ OneLink s x n ∧ (x.link n).state = 5 ∧ (x.link n).full = true ∧
      (x.link n).since = k.since ∧ (x.link n).levp = k.levp + 1) ∧
    (∀ h m, k.state = 5 → k.full = true → widestSet (h &&& ~~~k.dark) = some m → runs (.retrainComplete n h) m) ∧
    (∀ h, k.state = 5 → k.full = true → widestSet (h &&& ~~~k.dark) = none →
      ∃ x, exec (.retrainComplete n h) s = .next x ∧ (x.link n).state = 0 ∧ (x.link n).active = 0) ∧
    (∀ l p, 16 ≤ l → l < 18 → k.carries = true → k.healthy.getLsbD l = true → k.active.getLsbD l = false →
      k.spareFor.find l = some p → k.active.getLsbD p = true →
      ∃ x, exec (.spareIn n l) s = .next x ∧ OneLink s x n ∧ (x.link n).epoch = k.epoch + 1 ∧
        (x.link n).active = (k.active &&& ~~~(1#18 <<< p)) ||| (1#18 <<< l)) ∧
    (k.carries = true → ((lanesOf k.serving).length < 4 ∨ 8 ≤ k.out.nakCount ∨ 8 ≤ k.back.nakCount ∨ k.disagrees .out = true ∨
        k.disagrees .back = true) →
      ∃ x, exec (.fullRetrain n) s = .next x ∧ OneLink s x n ∧ (x.link n).state = 5 ∧ (x.link n).full = true) ∧
    (∀ m, k.busy = false → (k.carries = true ∨ k.state = 5) → ∃ x, exec (.lctlRetrain n m) s = .next x ∧ OneLink s x n ∧
      (x.link n).state = 5 ∧ (x.link n).full = true ∧ (x.link n).busy = true ∧ (x.link n).target = m ∧
      (x.link n).levp = (if k.state = 5 ∧ k.full = false then k.levp + 1 else k.levp)) ∧
    (∀ m, k.busy = false → ∃ x, exec (.takeDown n m) s = .next x ∧ OneLink s x n ∧ (x.link n).state = 0 ∧
      (x.link n).active = 0 ∧ (x.link n).epoch = k.epoch + 1 ∧ (x.link n).target = m ∧
      (x.link n).levp = (if k.state = 5 ∧ k.full = false then k.levp + 2 else k.levp + 1)) ∧
    (∀ w, exec (.ltestWrite n w) s = .next (s.setLink n { k with
      ltest := w &&& 0x800000001FFFFFFF#64, dark := if w.getLsbD 63 then k.dark else 0 })) ∧
    (s.pwrGate = true → k.carries = true → 8 ≤ (lanesOf k.active).length → k.widening = 0 → sendQueue s n < 64 →
      k.quiet + 10000 ≤ s.now →
      let m := lowest ((lanesOf k.active).length / 2) k.active
      ∃ x, exec (.linkWidthHalve n) s = .next x ∧ OneLink s x n ∧ (x.link n).active = m ∧
        (x.link n).epoch = k.epoch + 1 ∧ (x.link n).gated = k.gated ||| (k.active &&& ~~~m)) ∧
    (k.carries = true → k.widening = 0 → 0 < (lanesOf k.active).length → 256 ≤ sendQueue s n →
      (lanesOf k.active).length ≤ (lanesOf k.gated).length → exec (.linkWidthDouble n) s = .next (s.setLink n { k with
        widening := lowest (lanesOf k.active).length k.gated, lit := s.now })) ∧
    (k.carries = true → k.widening ≠ 0 → ∃ x, exec (.wideningLit n) s = .next x ∧ OneLink s x n ∧
      (x.link n).active = k.active ||| k.widening ∧ (x.link n).gated = k.gated &&& ~~~k.widening ∧
      (x.link n).widening = 0 ∧ (x.link n).epoch = k.epoch + 1)

/-! ### The matrix unit -/

/-- R84, R141, R345, R353, R357, R359 to R361: a zeroed bank is held, that of a program which has ended retires; the next line of a MUL between the ports takes 64 rows
of each and adds the line's value to every element, rounded once; a MUL with no line left, a ZERO, a DRAIN whose last
element has gone and a STORE leave the queue, with their effect; the waiting program whose bundle started first takes the lowest free slot. -/
def Obligations.MatrixUnit : Prop :=
  ∀ (s : State) (c i : Nat) (o : MxOp),
    let k := s.cluster c
    (∀ b, (k.banks.look Bank.idle b).st = .zeroing → ∃ x, exec (.bankZeroed c b) s = .next x ∧
      x = { s with clusters := x.clusters } ∧ (x.cluster c).acc = k.acc ∧ (x.cluster c).ops = k.ops ∧
      (x.cluster c).banks.look Bank.idle b =
        (if (k.banks.look Bank.idle b).prog ≠ endedProg then { k.banks.look Bank.idle b with st := .held }
         else if k.bankBusy b = true then { k.banks.look Bank.idle b with st := .retiring } else Bank.idle)) ∧
    (FirstOp s c i o (fun q => !q.linesDone) → o.kind = .mul → o.a.port = true → o.b.port = true → o.a.scl = false →
      o.b.scl = false → 64 ≤ k.p0.length → 64 ≤ k.p1.length →
      ∃ x, exec (.mxMulLine c) s = .next x ∧ (x.cluster c).p0 = k.p0.drop 64 ∧ (x.cluster c).p1 = k.p1.drop 64 ∧
        (x.cluster c).ops = k.ops.set i { o with begun := true, line := o.line + 1 } ∧
        ∀ j, j < 4096 → (x.cluster c).tileAt o.tile j = BitVec.ofNat 32 (fp32.arith .rne false
          [(if o.z && !o.begun then 0#32 else k.tileAt o.tile j).toNat,
           lineValue (((portLine o.a.fmt false (k.p0.take 64) []).rows.getD (j / 64) []).zipWith lineProduct
             ((portLine o.b.fmt false (k.p1.take 64) []).rows.getD (j % 64) []))] (opAdd .rne)).1) ∧
    (FirstOp s c i o (fun _ => true) →
      (o.linesDone = true → ∃ x, exec (.mxMulRetire c) s = .next x ∧ (x.cluster c).ops = k.ops.eraseIdx i ∧
        (x.cluster c).acc = k.acc) ∧
      (o.kind = .zero → ∃ x, exec (.mxZeroExecute c) s = .next x ∧ (x.cluster c).ops = k.ops.eraseIdx i ∧
        (∀ j, j < 4096 → (x.cluster c).tileAt o.tile j = 0) ∧
        (setSorted k.tilePsn = true → o.tile ∉ (x.cluster c).tilePsn)) ∧
      (∀ n, o.kind = .drain → k.p2Claims = [] →
        let m := min n (min (4096 - o.line) (8192 - k.p2.length))
        ∃ x, exec (.mxDrainPush c n) s = .next x ∧
          (x.cluster c).p2 = k.p2 ++ (List.range m).map (fun j =>
            (k.tileAt o.tile (o.line + j), k.tilePsn.contains o.tile)) ∧
          (x.cluster c).ops = (if o.line + m = 4096 then k.ops.eraseIdx i else k.ops.set i { o with line := o.line + m })) ∧
      (∀ u, o.kind = .store → s.unit o.a.snap.unit = some u → u.st = .running → u.placed = true → o.ctl.getLsbD 26 = false →
        ∃ x, exec (.mxStoreExecute c) s = .next x ∧ (x.cluster c).ops = k.ops.eraseIdx i ∧
          x.mem = (storeTile s u k o).mem)) ∧
    (∀ id w sl, s.waitProgs.find? (fun e => e.1 == id) = some (id, w) →
      (∀ e ∈ s.waitProgs, e.2.cluster = w.cluster → e.1 ≠ id → startOrder s w < startOrder s e.2) → sl < 4 →
      s.prog w.cluster sl = none → (∀ j, j < sl → s.prog w.cluster j ≠ none) →
      ((s.progs.filter (fun e => e.1 / 4 == w.cluster)).map (·.2.tidCount)).sum + w.tidCount ≤ 256 →
      ∃ x p, exec (.matrixProgramResident id) s = .next x ∧ x.prog w.cluster sl = some p ∧ p.launch = w.launch ∧
        p.job = w.job ∧ p.th.spc = w.entry ∧ p.th.rd 1 = w.arg ∧ p.th.rd 2 = BitVec.ofNat 64 w.cluster ∧
        p.th.rd 3 = w.g3 ∧ (∀ r : BitVec 5, 4 ≤ r.toNat → p.th.rd r = 0) ∧ p.tids = [] ∧
        x.waitProgs = s.waitProgs.filter (fun e => e.1 != id))

namespace Sys2Proof.Claims
open Sys2Proof Sys2Proof.Machine

/-! ### Launches, placement and pre-emption -/

/-- No unit is being resumed where a fence forbids it to run (R406, R463). -/
def NoneOvertaken (s : State) : Prop := ∀ e ∈ s.units, e.2.st = .resuming → placeFenced s e.2 = false

/-- What a save in progress needs to finish at once: the unit is alone in its gang, no other unit is being saved or is to be
resumed on its core, its teams are on that core, nothing of it is in flight, and its save area is free (R408, R410). -/
def Savable (s : State) (v : Nat) (u : UnitRec) : Prop :=
  s.unit v = some u ∧ NoneOvertaken s ∧ areaTaken s v u = false ∧ (∀ e ∈ s.units, e.1 ≠ v → e.2.resumeCore ≠ u.core + 1) ∧ u.gang = 0 ∧ u.core < 0x10000 ∧ s.teams.sorted = true ∧ s.pendings = [] ∧
  (∀ e ∈ s.cmds, e.2.unit ≠ v) ∧ (∀ e ∈ s.teams, e.2.unit = v → e.1 / 32 = u.core) ∧
  (∀ e ∈ s.units, e.1 ≠ v → e.2.st ≠ .requested ∧ e.2.st ≠ .saving) ∧ s.units.sorted = true

/-- Unit `v` is suspended under entry `k` of its die: no team of it is on the core, its core reports SAVED, no longer
busy, and its scratchpad has not changed (R407, R408, R414). -/
def Suspended (s x : State) (v k : Nat) (u : UnitRec) : Prop :=
  (∃ y, x.unit v = some y ∧ y.st = .suspended ∧ y.entry = k) ∧ (∀ e ∈ x.teams, e.2.unit ≠ v) ∧
  (x.darning k).unit = v ∧ (x.darning k).state = 1 ∧ (x.core u.core).pcmdBusy = false ∧
  (x.core u.core).pstat = pstatWord 1 k ∧ x.mem.spad = s.mem.spad

end Sys2Proof.Claims

open Sys2Proof Sys2Proof.Machine Sys2Proof.Claims

/-! ### Bundles, queues and signals -/

/-- R364 to R370, R425 to R430, R433 (outside capture and replay): the front end takes the bundle of the best slot or parks
the slot on its gate; the header of a head whose page is not present is read ahead (the model's reading, log 86); a
header's words reach its launch, a copy list's its list; a copy command that keeps the rules is issued, another completes with FLT; a slot tick starts a waiting bundle whose TIME has come; a complete bundle without a
record, signal or entry goes, one with a record sends it; kicks (before bring-up has ended a kick only writes its register:
the model's reading of R459, log 33), signal updates, ageing and coalescing. -/
def Obligations.Launches : Prop :=
  ∀ (s : State) (n : Nat),
    let k := s.slot n
    (headReady s k = true → gateHolds s k = true → bestSlot s = some n → k.injected = none → k.ahead = 0 →
      s.launch 0 = none → s.cap.mode = 0 →
      ∃ x l r, exec (.bundleTake n) s = .next x ∧ x.launch s.nextId = some l ∧ l.st = .taken ∧ l.slot = n ∧
        l.addr = k.ring + 128 * (k.taken.toNat % 2 ^ k.size) ∧ (x.slot n).taken = k.taken + 1 ∧
        (x.slot n).cpri = k.bpri ∧ x.reqs.find (s.nextId + 1) = some r ∧ r.kind = .header ∧ r.va = l.addr ∧ r.len = 128) ∧
    (k.hasHead = true → k.ahead = 0 → headWord s k = none → ∃ x l r, exec (.bundleTake n) s = .next x ∧
      x.launch s.nextId = some l ∧ l.st = .queued ∧ (x.slot n).ahead = s.nextId ∧ (x.slot n).taken = k.taken ∧
      x.reqs.find (s.nextId + 1) = some r ∧ r.kind = .header ∧ r.va = l.addr ∧ r.len = 128) ∧
    (headReady s k = true → gateHolds s k = false → k.gateHeld = false → exec (.bundleTake n) s = .next
      ({ s with waiters := s.waiters.put k.gsig (s.waiters.look [] k.gsig ++ [Waiter.slot n]) }.setSlot n
        { k with gateHeld := true })) ∧
    (∀ id r l, s.reqs.find id = some r → r.kind = .header → r.st = .returned → r.leg = .back → r.psn.contains true = false →
      s.launch r.cmd = some l → l.st = .taken → ∃ x m, exec (.readResponse id) s = .next x ∧ x.launch r.cmd = some m ∧
        m.hdr = (readWords r.data).take 8 ∧ m.recs = [(readWords r.data).drop 8]) ∧
    (∀ id r y, s.reqs.find id = some r → r.kind = .list → r.st = .returned → r.leg = .back → r.psn.contains true = false →
      s.copies.find r.cmd = some y → exec (.readResponse id) s = .next { s with
        reqs := s.reqs.del id, copies := s.copies.put r.cmd { y with asked := false, words := readWords r.data } }) ∧
    (∀ id y, s.copies.find id = some y → y.words ≠ [] → copyOk y.words = true →
      ∃ x c, exec (.copyCommandIssue id) s = .next x ∧ x.cmds.find s.nextId = some c ∧ c.kind = .copyList ∧
        c.launch = y.launch ∧ c.dstCoord = (y.words[0]?).getD 0 ∧ c.srcCoord = (y.words[1]?).getD 0 ∧
        (y.left ≤ 1 → x.copies.find id = none)) ∧
    (∀ id y l, s.copies.find id = some y → y.words ≠ [] → copyOk y.words = false → s.launch y.launch = some l →
      ∃ x, exec (.copyCommandIssue id) s = .next x ∧ x.cmds = s.cmds ∧
        x.launch y.launch = some { l with copies := l.copies - 1, status := l.status ||| 0x20 }) ∧
    (∀ id l sk, s.now % 1000 = 0 → s.launches.filter (fun e => e.2.st == .waiting && decide (e.2.time ≤ s.now)) = [(id, l)] →
      ∃ x m, exec (.slotTick sk) s = .next x ∧ x.launch id = some m ∧ m.st = .running ∧ m.tstart = s.now) ∧
    (∀ id l, s.launch id = some l → l.st = .running → subsDone s id l = true → l.written = 0 → l.hdr ≠ [] →
      (wordAt l.hdr 5 = 0 → bits (wordAt l.hdr 0) 60 2 = 0 → bits (wordAt l.hdr 4) 8 1 = 0 →
        ∃ x, exec (.bundleComplete id) s = .next x ∧ x.launch id = none) ∧
      (wordAt l.hdr 5 ≠ 0 → wordAt l.hdr 5 % 64 = 0 → ∃ x r, exec (.bundleComplete id) s = .next x ∧
        x.launch id = some { l with st := .completing, tend := s.now, written := 1 } ∧
        x.reqs.find s.nextId = some r ∧ r.kind = .completion ∧ r.va = wordAt l.hdr 5 ∧
        r.data = (recordWords { l with st := .completing, tend := s.now, written := 1 }).flatMap (wordBytes 8))) ∧
    (∀ q w, bootOver s = false → exec (.qkickWrite q w) s = .next { s with qkick := s.qkick.put q w }) ∧
    (∀ q w, bootOver s = true → slotOf s q = some n →
      ∃ x, exec (.qkickWrite q w) s = .next x ∧ x.qkick.look 0 q = w ∧
        (x.slot n) = (if 2 ^ k.size < (w - k.taken).toNat then { k with ovf := true }
          else { k with windex := w, ovf := false })) ∧
    (∀ q w, bootOver s = true → slotOf s q = none → ∃ x, exec (.qkickWrite q w) s = .next x ∧ x.qkick.look 0 q = w ∧ q ∈ x.kickPend ∧
      x.signal 4095 = s.signal 4095 + 1) ∧
    (∀ g op v, g < 4096 → ∃ x, exec (.signalUpdate g op v) s = .next x ∧ (∀ j, j ≠ g → x.signal j = s.signal j) ∧
      x.signal g = (match op with | .set => v | .add => s.signal g + v | .sub => s.signal g - v)) ∧
    (∀ g op v, 4096 ≤ g → exec (.signalUpdate g op v) s = .next s) ∧
    (k.valid = true → k.age + 250000 ≤ s.now → pendingWork s k = true → exec (.cpriAgeing n) s = .next (s.setSlot n { k with
      cpri := min (k.cpri + 1) 7, age := k.age + 250000 })) ∧
    (∀ c, let q := s.cqs.look CompQ.zero c
      bits q.ctl.toNat 16 16 ≠ 0 → q.unannounced ≠ 0 → q.oldest + 1000 * bits q.ctl.toNat 16 16 ≤ s.now →
      ∃ x, exec (.cqCoalesceTimeout c) s = .next x ∧ x.cqs.look CompQ.zero c = { q with unannounced := 0 } ∧
        x.msis = s.msis ++ [(q.msia, q.msid)])

/-! ### Placement -/

/-- R373 to R376, R78 (outside capture and replay): a dispatched unit goes to the shortest queue of the die; the head unit of
a core that fits becomes resident with zero fill, one team in each of its slots, and the index its launch's order gives;
a gang of one goes to the lowest cluster that fits; zero fill ends with the allocation zero; a dry core asks another core
of its die, and is refused or takes its tail unit, which becomes resident there, or stands first in its queue where R377
holds it back or it no longer fits (the model's reading, log 87). -/
def Obligations.Placement : Prop :=
  ∀ (s : State), s.cap.mode = 0 →
    (∀ die q c, dieHead s die = some q → q.gang = 0 → 256 * die ≤ c → c < 256 * die + 256 → c ∉ s.cmFence →
      (s.core c).unitQueue.length < 64 →
      (∀ e, 256 * die ≤ e → e < 256 * die + 256 → e ∉ s.cmFence →
        (s.core c).unitQueue.length < (s.core e).unitQueue.length ∨
        ((s.core c).unitQueue.length = (s.core e).unitQueue.length ∧ c ≤ e)) →
      ∃ x, exec (.unitDispatch die) s = .next x ∧
        (x.core c).unitQueue = (s.core c).unitQueue ++ [{ q with pri := launchPri s q.launch }] ∧
        ∀ b ∈ (x.die die).backlog, ¬(b.launch = q.launch ∧ b.index = q.index)) ∧
    (∀ core q rest l v, core < 1024 → (s.core core).unitQueue = q :: rest → coreFits s core q.need = true →
      ordHolds s q.launch q.pri = false → q.startTime = 0 → s.launch q.launch = some l → l.vec = some v →
      ∃ x u, exec (.unitResident core) s = .next x ∧ x.unit s.nextId = some u ∧ u.st = .zeroing ∧ u.core = core ∧
        u.launch = q.launch ∧ u.index = (if q.ord then l.ordNext else q.index) ∧ u.need = q.need ∧
        (x.core core).unitQueue = rest ∧ u.slots.length = q.need.teams ∧
        ∀ j, j < u.slots.length → ∃ t, x.team core (u.slots.getD j 0) = some t ∧ t.unit = s.nextId ∧ t.index = j ∧
          t.th.spc = v.entry ∧ t.lpc = v.lcb ∧ t.th.rd 1 = v.arg ∧ t.set_ = .zeroFill ∧ t.warps = q.need.warps) ∧
    (∀ die q cl l v, dieHead s die = some q → q.gang ≠ 0 → ordHolds s q.launch (launchPri s q.launch) = false →
      (s.die die).backlog.filter (fun y => y.gang == q.gang) = [q] → q.cluster = none → q.startTime = 0 →
      64 * die ≤ cl → cl < 64 * die + 64 → gangFits s [q] cl = true →
      (∀ e, 64 * die ≤ e → e < cl → gangFits s [q] e = false) → s.launch q.launch = some l → l.vec = some v →
      ∃ x u, exec (.gangPlace die) s = .next x ∧ x.unit s.nextId = some u ∧ u.st = .zeroing ∧
        u.core = 4 * cl + q.member ∧ u.gang = q.gang ∧ u.member = q.member ∧
        (∀ b ∈ (x.die die).backlog, ¬(b.launch = q.launch ∧ b.gang = q.gang))) ∧
    (∀ v u, s.unit v = some u → u.st = .zeroing → ∃ x, exec (.zeroFillDone v) s = .next x ∧
      x.unit v = some { u with st := .running } ∧
      (∀ j, byteAt x.mem.spad j = if spadKey u.core (u.base4k * 4096) ≤ j ∧
        j < spadKey u.core (u.base4k * 4096) + u.need.spad then 0 else byteAt s.mem.spad j) ∧
      ∀ c sl t, c < 0x10000 → s.team c sl = some t → t.unit = v → t.set_ = .zeroFill →
        x.team c sl = some { t with set_ := .pending }) ∧
    (∀ core i, (i = .steal core ∧ (s.core core).stealState = 0) ∨ (i = .stealRetry core ∧ (s.core core).stealState = 2) →
      coreDry s core = true → ∃ x, exec i s = .next x ∧ (x.core core).stealState = 1 ∧
        (x.core core).sent = coreRoom s core ∧ (x.core core).victim ≠ core ∧
        (x.core core).victim / 256 = core / 256 ∧ x = { s with cores := x.cores }) ∧
    (∀ core, (s.core core).stealState = 2 → coreDry s core = false →
      exec (.stealRetry core) s = .next (s.setCore core { s.core core with stealState := 0 })) ∧
    (∀ core, (s.core core).stealState = 1 → (s.core core).victim ≠ core →
      let v := (s.core core).victim
      ((s.core v).unitQueue = [] →
        exec (.stealReply core) s = .next (s.setCore core { s.core core with stealState := 2 })) ∧
      (∀ q, (s.core v).unitQueue.getLast? = some q → q.aff = false → q.need.fits (s.core core).sent = true →
        ownerTakes s v = false → v ∉ s.cmFence →
        ((coreFits s core q.need = false ∨ ordHolds s q.launch q.pri = true) → ∃ x, exec (.stealReply core) s = .next x ∧
          (x.core v).unitQueue = (s.core v).unitQueue.dropLast ∧ (x.core core).stealState = 0 ∧
          (x.core core).unitQueue = { q with aff := true } :: (s.core core).unitQueue) ∧
        (∀ l w, core < 1024 → coreFits s core q.need = true → ordHolds s q.launch q.pri = false → q.startTime = 0 →
          s.launch q.launch = some l → l.vec = some w → ∃ x u, exec (.stealReply core) s = .next x ∧
            (x.core v).unitQueue = (s.core v).unitQueue.dropLast ∧ (x.core core).stealState = 0 ∧
            (x.core core).unitQueue = (s.core core).unitQueue ∧ x.unit s.nextId = some u ∧ u.st = .zeroing ∧
            u.core = core ∧ u.launch = q.launch ∧ u.index = (if q.ord then l.ordNext else q.index) ∧ u.need = q.need)))

/-! ### Pre-emption -/

/-- R2, R407, R408, R413 to R415, R417, R463: REQUEST sets REQ and a deadline in core-clock cycles and waits for the teams that are not blocked; FORCE,
and the deadline of a request, save every team at once and suspend the unit under a free darning entry; RESUME is remembered
while the image is copied; the copied image frees the allocation and diverts what lands later; a loaded image makes the unit
run, each team with the registers that its block in the save area gives. -/
def Obligations.Preemption : Prop :=
  (∀ (s : State) (c : Nat) (sl : BitVec 5) (t : Team) (u : UnitRec), c < 0x10000 → s.team c sl.toNat = some t →
    s.unit t.unit = some u → u.st = .running → u.core = c → u.gang = 0 → (s.core c).pcmdBusy = false →
    (NoneOvertaken s → (∀ e ∈ s.units, e.2.st ≠ .requested ∧ e.2.st ≠ .saving) →
      (∀ e ∈ s.teams, e.2.unit = t.unit → e.2.th.wait = .none ∧ e.2.set_ ≠ .saved ∧ e.2.set_ ≠ .parked ∧
        (e.2.queue = [] ∨ e.2.th.tcause.getLsbD 63 = true)) →
      ∃ x y v, exec (.pcmdRequest c sl) s = .next x ∧ x.unit t.unit = some v ∧ v.st = .requested ∧
        v.save = bits (s.core c).psave.toNat 12 40 * 4096 ∧ v.deadline = dieCycles s (dieOf c) + (s.core c).pdl.toNat ∧
        x.team c sl.toNat = some y ∧ y.th.preq = true ∧ (x.core c).pcmdBusy = true) ∧
    (∀ k, Savable s t.unit u → freeEntry s (dieOf c) = some k →
      ∃ x, exec (.pcmdForce c sl) s = .next x ∧ Suspended s x t.unit k u)) ∧
  (∀ (s : State) (v k : Nat) (u : UnitRec), Savable s v u → u.st = .requested → u.deadline ≤ dieCycles s (dieOf u.core) →
    freeEntry s (dieOf u.core) = some k → ∃ x, exec (.preemptDeadline v) s = .next x ∧ Suspended s x v k u) ∧
  (∀ (s : State) (core v : Nat) (slot : BitVec 5) (u : UnitRec), (s.core core).pcmdBusy = false → resumeAllowed s v u core = true →
    s.units.find? (fun e => e.2.st == .suspended && e.2.save == bits (s.core core).psave.toNat 12 40 * 4096 &&
      e.2.resumeCore == 0) = some (v, u) → (s.darning u.entry).state = 1 →
    exec (.pcmdResume core slot) s = .next ((s.setUnit v { u with resumeCore := core + 1 }).setCore core
      { s.core core with pcmdSlot := slot, pcmdBusy := true })) ∧
  (∀ (s : State) (id : Nat) (r : Req) (c : Cmd) (u : UnitRec), s.reqs.find id = some r → r.kind = .fpost →
    r.answered = true → s.cmds.find r.cmd = some c → s.unit c.unit = some u → u.st = .suspended → u.entry ≠ 0 →
    (s.darning u.entry).unit = c.unit → (s.darning u.entry).state = 2 →
    ∃ x y, exec (.landing id) s = .next x ∧ x.reqs.find id = some y ∧ y.st = .diverted ∧ x.mem = s.mem) ∧
  (∀ (s : State) (die entry : Nat) (u : UnitRec), entry < 64 →
    let k := 64 * die + entry + 1
    let e := s.darning k
    s.unit e.unit = some u →
    (e.state = 1 → u.st = .suspended → s.mem.ecc = [] → ∃ x, exec (.darningCopyDone die entry) s = .next x ∧
      x.unit e.unit = some { u with placed := false } ∧ x.darning k = { e with state := 2 } ∧
      x.mem.spad = s.mem.spad) ∧
    (e.state = 3 → u.st = .resuming → u.entry = k → u.gang = 0 → u.core ∉ s.cmFence → u.core < 0x10000 → e.pend = 0 → u.events = [] →
      u.lostEvents = 0 → s.pendings = [] →
      ∃ x y, exec (.resumeLoadDone die entry) s = .next x ∧ x.unit e.unit = some y ∧ y.st = .running ∧ y.entry = 0 ∧
        y.savedTeams = [] ∧ x.darning k = Darning.free ∧
        (x.core u.core).pcmdBusy = ((s.core u.core).pcmdBusy && u.auto) ∧
        ∀ i t, u.savedTeams = [(i, t)] → ∃ r, x.team u.core (u.slots.getD i 0) = some r ∧ r.th.preq = false ∧
          (areaThere s (teamBlockAt u t) = true → r.th.spc = physWord s (teamBlockAt u t) ∧
            r.lpc = physWord s (teamBlockAt u t + 8) ∧ ∀ g : BitVec 5, g ≠ 0 →
              r.th.rd g = physWord s (teamBlockAt u t + 0x100 + 8 * g.toNat))))

namespace Sys2Proof.Claims
open Sys2Proof Sys2Proof.Machine

/-! ### Steps and words -/

/-- A role's block written, with the notice of its hart where the image was taken (R440, log 101). -/
def startedRole (s : State) (r : Nat) (x : Role) (taken : Prop) [Decidable taken] : State :=
  if taken then raiseOn (s.setRole r x) r 3 else s.setRole r x

/-- The state in which an agent acts: one turn of the schedule is used up (log 1). -/
def ActsIn (s : State) (rest : List Turn) (a : Agent) : State := { s with sched := rest, cur := a }

/-- Nothing that must be saved or turned back, no damaged word or team and no step of bring-up waits in a state (R81, R406,
R408, R459). -/
def Settled (s : State) : Prop :=
  s.mem.ecc = [] ∧ (∀ e ∈ s.units, e.2.st ≠ .requested ∧ e.2.st ≠ .saving) ∧ NoneOvertaken s ∧
    (∀ e ∈ s.teams, e.2.hurt = false) ∧ (s.boot = bootStat 3 0 → ∀ e ∈ s.links, e.2.state ≠ 3) ∧
    s.boot ≠ bootStat 5 0 ∧ s.boot ≠ bootStat 6 0

/-- The scalar instruction at the pc of a stream: no cause waits to be taken, its pc is aligned and canonical, its line is in
the code cache, and the decoder of its core reads `i` there (R208, R231, R390). -/
def FetchesScalar (s : State) (a : Agent) (mcc : Bool) (i : Instr) : Prop :=
  ∃ th w, s.thread a = some th ∧ nextTrap s a = none ∧ th.spc.toNat % 4 = 0 ∧ th.spc.toNat < 2 ^ 56 ∧
    codeParcel s a th.spc.toNat = some w ∧ scalarDecode mcc w = .ok i

/-- A team's scalar stream has its turn: parked in SYSC, or active with no blocking wait that lasts (R228, R284, R379). -/
def HasTurn (s : State) (t : Team) : Prop :=
  t.set_ = .parked ∨ (t.set_ = .active ∧ (t.th.wait.blocks = false ∨ waitOver s t = true))

/-- The turn of an agent is due: by the schedule, or as the agent that acted last (log 1). -/
def TurnOf (s : State) (rest : List Turn) (t : Turn) (a : Agent) : Prop :=
  s.sched = t :: rest ∨ (s.sched = [] ∧ rest = [] ∧ s.cur = a)

/-- The hart may fetch: it exists, its image is not frozen, and no interrupt of it is taken (R436, R440). -/
def HartFree (s : State) (h : Nat) : Prop := h < 4 ∧ (s.role h).state ≠ 3 ∧ hartInterrupt s h = none

/-- A 32-bit word at an even pc of a hart, in far physical memory (R1, R262). -/
def HartWord (s : State) (h w : Nat) : Prop :=
  ∃ lo hi p q, (s.hart h).pc.toNat % 2 = 0 ∧ (s.hart h).pc.toNat < 2 ^ 52 ∧
    physRead s (s.hart h).pc.toNat 2 = some (lo, p) ∧ physRead s ((s.hart h).pc.toNat + 2) 2 = some (hi, q) ∧
    numOfBytes lo % 4 = 3 ∧ w = numOfBytes lo + numOfBytes hi * 65536

/-- Root port `p` lets requests in, and its IOMMU's ddtp has mode `m` (R445, R447). -/
def PortMode (s : State) (p m : Nat) : Prop := contained s p = false ∧ bits (iommuReg s p 0x10).toNat 0 4 = m

/-- The registers of the map that only firmware writes, with the fuses and images (R36, R184, R407, R437, R456, R457). -/
def FirmwareOnlySame (s x : State) : Prop :=
  x.extStaged = s.extStaged ∧ x.mrtStaged = s.mrtStaged ∧ x.links = s.links ∧ x.cores = s.cores ∧ x.roles = s.roles ∧
    x.irqv = s.irqv ∧ x.jobs = s.jobs ∧ x.ceLimit = s.ceLimit ∧ x.pwrCap = s.pwrCap ∧
    x.pwrGate = s.pwrGate ∧ x.ownerDig = s.ownerDig ∧ x.mlog = s.mlog ∧ x.kickPend = s.kickPend ∧ x.harts = s.harts

end Sys2Proof.Claims

open Sys2Proof Sys2Proof.Machine Sys2Proof.Claims

/-! ### Castling, capture, and the host side -/

/-- R437, R439 to R442, R460: a start checks the image's header, and notifies the role's hart where it is taken; a hand-over
that the outgoing image writes freezes it, one of another hart has no effect; a frozen role
whose image is signed and whose block is right goes to PROBATION with its digest measured and its hart, which waits for
nothing, at the image's entry, another returns to IDLE with the reason; a heartbeat within 1,000,000 ns of the last is
noted; one missed brings the outgoing image back with a0 = 1; 500 ms end it; a write that its state does not take has no
effect; the three modes of capture. -/
def Obligations.CastlingAndCapture : Prop :=
  ∀ (s : State) (r : Nat),
    let x := s.role r
    (∀ h p, x.state = 0 → (∀ j, j < 3 → (s.role j).state = 0) →
      physRead s (bits x.img.toNat 9 43 * 512) 0x200 = some (h, p) →
      let w := numOfBytes (h.take 8)
      exec (.castlingStart r) s = .next (startedRole s r
        (if bits w 56 8 = r ∧ bits w 32 16 ≤ x.schema.toNat ∧ x.schema.toNat ≤ bits w 16 16 then
          { x with state := 2, why := 0, image := bits x.img.toNat 9 43 * 512 } else { x with why := 1 })
        (bits w 56 8 = r ∧ bits w 32 16 ≤ x.schema.toNat ∧ x.schema.toNat ≤ bits w 16 16))) ∧
    (x.state ≠ 0 → exec (.castlingStart r) s = .next s) ∧
    ((x.state ≠ 2 ∨ fromRole s r = false) → exec (.handOverWritten r) s = .next s) ∧
    (∀ j, x.state = 0 → j < 3 → (s.role j).state ≠ 0 →
      exec (.castlingStart r) s = .next (s.setRole r { x with why := 2 })) ∧
    (x.state = 2 → fromRole s r = true → exec (.handOverWritten r) s = .next (s.setRole r { x with state := 3 })) ∧
    (∀ h b, x.state = 3 → readImage s x.image = some (h, b) →
      (imageSigned ownerKey h b = false →
        exec (.castlingVerifyDone r) s = .next (s.setRole r { x with state := 0, why := 3 })) ∧
      (imageSigned ownerKey h b = true → handOverOk s r x = false →
        exec (.castlingVerifyDone r) s = .next (s.setRole r { x with state := 0, why := 4 })) ∧
      (imageSigned ownerKey h b = true → handOverOk s r x = true → ∃ y, exec (.castlingVerifyDone r) s = .next y ∧
        (y.role r).state = 4 ∧ lastMidx y = s.mlogCnt % 2 ^ 32 ∧ y.mlogCnt = s.mlogCnt + 1 ∧
        (s.mlogCnt < 256 → y.mlog.find s.mlogCnt = some (imageDigest h b)) ∧
        (y.hart r).pc = BitVec.ofNat 64 (x.image + 0x200 + numOfBytes ((h.drop 0x10).take 8)) ∧
        (y.hart r).rd 10 = BitVec.ofNat 64 (bits x.hob.toNat 7 45 * 128) ∧ (y.hart r).wait = .none ∧
        (s.jobs = [] → (y.heldHarts.look Hart.zero r).pc = (s.hart r).pc))) ∧
    (x.state = 4 → s.now - x.lastBeat < 1000000 →
      exec (.hbeat r) s = .next (s.setRole r { x with lastBeat := s.now })) ∧
    (x.state = 4 → 1000000 ≤ s.now - x.lastBeat → exec (.hbeat r) s = .next s) ∧
    (x.state = 4 → 1000000 ≤ s.now - x.lastBeat → ∃ y, exec (.probationTimeout r) s = .next y ∧
      (y.role r).state = 5 ∧ (y.hart r).rd 10 = 1 ∧ (y.hart r).pc = (s.heldHarts.look Hart.zero r).pc ∧
      y.mlogCnt = s.mlogCnt + 1 ∧ y.heldHarts.find r = none) ∧
    (500000000 ≤ s.now - x.probStart → (x.state = 5 ∨ (x.state = 4 ∧ s.now - x.lastBeat < 1000000)) →
      ∃ y, exec (.probationEnd r) s = .next y ∧ (y.role r).state = 0 ∧ y.heldHarts.find r = none ∧
        (y.role r).digest = (if x.state = 4 then x.newDigest else x.digest) ∧ y.harts = s.harts) ∧
    exec .captureOff s = .next { s with cap := { s.cap with mode := 0 } } ∧
    (s.cap.mode ≠ 1 → exec .capture s = .next { s with cap := { s.cap with mode := 1, ptr := 0 } }) ∧
    (s.cap.mode ≠ 2 → exec .replayMode s = .next { s with cap := { s.cap with
      mode := 2, diff := false, diffAt := 0, index := 0, tiles := 0, replayAt := 0 } })

/-- R285, R448, R449, R454, R456, R457, R447, R446, R459, R48, R36: the oldest interrupt message goes into its ring and sends
its MSI once the accesses that it follows are done; a disabled ring drops it; the error count is cleared; the governor acts
20 µs after it last did: package power stays within the cap, where the cap holds what the lasers need each active lane keeps a
margin of 40 (what they need and what the package draws are free, log 32), the clocks stay in steps of 25 MHz from 900 to
1,500, and the cycles that a die has counted go on; root ports whose IOMMU passes addresses on (its mode Bare; what its modes
are is PRESUMED, log 51) reach far memory, read a revoked extent as poison, are refused while it is off, and let nothing in
while DPC contains them (PRESUMED, log 115); an I/O error is recorded in AER; a reset leaves nothing resident and the modules as they were; a register write of firmware reaches its
field, and one of a control core no register that only firmware writes. -/
def Obligations.HostSide : Prop :=
  ∀ (s : State),
    (s.irqBuf = [] → exec .irqMessageMove s = .next s) ∧
    (∀ m rest, s.irqBuf = m :: rest → messageHeld s m = true → exec .irqMessageMove s = .next s) ∧
    (∀ m rest, s.irqBuf = m :: rest → messageHeld s m = false → ringSize s.irqRing.ctl = 0 →
      exec .irqMessageMove s = .next { s with irqBuf := rest }) ∧
    (∀ m rest, s.irqBuf = m :: rest → messageHeld s m = false → ringSize s.irqRing.ctl ≠ 0 →
      ringFull s.irqRing.prod s.irqRing.head (ringSize s.irqRing.ctl) = false →
      let n := ringSize s.irqRing.ctl
      let w := s.irqv.look 0 (2 * m.vec + 1)
      ∃ x, exec .irqMessageMove s = .next x ∧ x.irqBuf = rest ∧
        x.irqRing = { s.irqRing with prod := s.irqRing.prod + 1 } ∧
        x.msis = s.msis ++ (if w.getLsbD 63 then [(s.irqv.look 0 (2 * m.vec), w.setWidth 32)] else []) ∧
        x.mem = (physWriteWords s (bits s.irqRing.base.toNat 12 40 * 4096 + 32 * (s.irqRing.prod.toNat % n))
          [BitVec.ofNat 64 (phaseBit s.irqRing.prod.toNat n + m.vec), m.payload, m.tid, BitVec.ofNat 64 m.time]).mem) ∧
    (∀ c, exec (.cecntWrite c) s = .next (s.setCore c { s.core c with cecnt := 0 })) ∧
    (s.now < s.settled + 20000 → exec .governorSettle s = .next s) ∧
    (s.settled + 20000 ≤ s.now → ∃ x, exec .governorSettle s = .next x ∧
      x = { s with settled := s.now, freeCtr := x.freeCtr, links := x.links, pwrStat := x.pwrStat, clkBase := x.clkBase,
                   pwrClk := x.pwrClk } ∧
      bits x.pwrStat.toNat 16 16 ≤ bits x.pwrStat.toNat 0 16 ∧ bits x.pwrStat.toNat 0 16 ≤ s.pwrCap.toNat ∧
      (Config.laserNeed s.freeCtr ≤ s.pwrCap.toNat → ∀ n i m, i < 18 → (x.link n).active.getLsbD i = true →
        (x.link n).margins.find i = some m → 40 ≤ m) ∧
      ∀ d, d < 4 → dieCycles x d = dieCycles s d ∧ ∃ j, j ≤ 24 ∧ x.pwrClk.look 0 d = BitVec.ofNat 11 (900 + 25 * j)) ∧
    (∀ p a bs q n, contained s p = true →
      exec (.pcieInboundWrite p a bs q) s = .next s ∧ exec (.pcieInboundRead p a n) s = .next s) ∧
    (∀ p a bs q n, PortMode s p 0 → (iommuReg s p 0x48).getLsbD 48 = false →
      exec (.pcieInboundWrite p a bs q) s = .next { s with pcieOut := s.pcieOut ++ [⟨p, false, [], false⟩] } ∧
      exec (.pcieInboundRead p a n) s = .next { s with pcieOut := s.pcieOut ++ [⟨p, false, [], false⟩] }) ∧
    (∀ p dev a, PortMode s p 1 → a < 2 ^ 52 → ∀ m k h, extentOf s a = .routed m k h → moduleRevokes s m k = false →
      (∀ bs q, bs.length ≤ extentLeft a → ∃ x, exec (.pcieInboundWrite p (dev * 2 ^ 64 + a) bs q) s = .next x ∧
        BytesWritten s.mem.far x.mem.far (farKey m k) bs ∧ x = { s with mem := x.mem }) ∧
      (∀ n, n ≤ extentLeft a → exec (.pcieInboundRead p (dev * 2 ^ 64 + a) n) s = .next { s with
        pcieOut := s.pcieOut ++ [⟨p, true, bytesAt s.mem.far (farKey m k) n,
          (poisonIn s.mem.farPsn (farKey m k) n).isSome⟩] })) ∧
    (∀ p dev a n, PortMode s p 1 → a < 2 ^ 52 → n ≤ extentLeft a → ∀ m k h, extentOf s a = .routed m k h →
      moduleRevokes s m k = true → exec (.pcieInboundRead p (dev * 2 ^ 64 + a) n) s = .next { s with
        pcieOut := s.pcieOut ++ [⟨p, true, List.replicate n 0, true⟩] }) ∧
    (∀ p dev a n, PortMode s p 1 → a < 2 ^ 52 → n ≤ extentLeft a → extentOf s a = .noExtent →
      exec (.pcieInboundRead p (dev * 2 ^ 64 + a) n) s = .next
        { s with pcieOut := s.pcieOut ++ [⟨p, false, [], false⟩] }) ∧
    (∀ p w, ∃ x, exec (.ioerr p w) s = .next x ∧ cfgWord x p 0x41 = cfgWord s p 0x41 ||| errorBits w ∧
      x.errRing.prod = (if ringSize s.errRing.ctl = 0 ∨
          ringFull s.errRing.prod s.errRing.head (ringSize s.errRing.ctl) = true then s.errRing.prod
        else s.errRing.prod + 1)) ∧
    (∃ x, exec .packageReset s = .next x ∧ x.teams = [] ∧ x.progs = [] ∧ x.units = [] ∧ x.launches = [] ∧
      x.reqs = [] ∧ x.cmds = [] ∧ x.extLive = [] ∧ x.controls = [] ∧ x.mem.far = s.mem.far ∧ x.mem.spad = [] ∧ x.now = 0 ∧
      x.cmGen = 0 ∧ x.modSize = s.modSize) ∧
    (∀ k w, k < 8192 → ∃ x, exec (.registerWrite true (0x0010000000200000 + 8 * k) w) s = .next x ∧
      x.extStaged.look 0 k = (if k % 2 = 0 then w &&& 0xFFFFFF01FFFFFFFF#64 else w &&& 0xFF7FFFFFFFFFFFFF#64) ∧
      x.extLive = s.extLive) ∧
    (∀ a w, ∃ x, exec (.registerWrite false a w) s = .next x ∧ FirmwareOnlySame s x)

/-! ### Steps -/

/-- R208, R210, R228, R245, R345, R378, R379, R390, R436: a step runs the instruction that the acting agent's decoder reads at
its pc, or at the head of its lane queue, and then only what R81, R406 and R408 let follow; with nothing of that kind in the
result, it is exec's result itself. A team acts in the active set as its core has settled it: an active team that has
blocked leaves it, and a free place goes to the oldest ready pending team; the datapath's team performs its head pass; the matrix program in turn issues; a cause that
waits is taken first. A firmware hart takes its interrupt, or runs the word at its even pc: one of the six instructions, or
one of the base ISA; a custom-0 word that is none of them is illegal. An occasion of the schedule is exec of it, a control
core's access is the row it writes to, its hart's turn an interrupt or the instruction at its pc (R443), and time passes
as the schedule says (log 1), but not past a TCMP, a slot tick that is awaited or an end of probation (R450, R368, R372,
R440; log 100). -/
def Obligations.StepRunsDecoded : Prop :=
  (∀ (s : State) (rest : List Turn) (c sl : Nat) (t : Team) (i : Instr), c < 1024 → sl < 32 →
    TurnOf s rest (.scalar c sl) (.team c sl) →
    let s1 := settleCore (ActsIn s rest (.team c sl)) c
    s1.team c sl = some t →
    (HasTurn s1 t → FetchesScalar s1 (.team c sl) false i → step s = settle (exec i s1)) ∧
    ((HasTurn s1 t ∨ (t.set_ = .active ∧ ∃ p ∈ t.th.pending, p.shelf = false)) → nextTrap s1 (.team c sl) ≠ none →
      step s = settle (exec (.trapEntry (.team c sl)) s1))) ∧
  (∀ (s : State) (c : Nat),
    let x := dropStuck s c
    ((∀ e ∈ s.teams, e.1 / 32 = c → e.2.set_ = .active → teamStuck s c (e.1 % 32) e.2 = false) → x = s) ∧
    (∀ k t, c < 1024 → k < 32 → s.team c k = some t → t.set_ = .active → teamStuck s c k t = true →
      ∃ y, x.team c k = some y ∧ y = { t with set_ := .pending }) ∧
    (oldestReady x c = none → (x.core c).readySince = 0 → settleCore s c = x) ∧
    (∀ k t, activeTeams x c < 8 → oldestReady x c = some (k, t) →
      settleCore s c = noteReady (fillPlaces c 7 (x.onTeam c k (fun r =>
        { r with set_ := .active, since := dieCycles x (dieOf c) }))) c)) ∧
  (∀ (s : State) (rest : List Turn) (c sl : Nat) (t : Team) (e : LaneEntry) (q : List LaneEntry) (i : Instr), c < 1024 →
    sl < 32 → s.sched = .lane c sl :: rest →
    let s1 := settleCore (ActsIn s rest (.team c sl)) c
    s1.team c sl = some t → t.set_ = .active → t.th.handler = false → nextTrap s1 (.team c sl) = none →
    (passCap s1 c sl = false → onDatapath s1 c = some sl → t.queue = e :: q →
      laneDecode (e.tmode.getLsbD 0) e.parcels = .ok i → step s = settle (exec i (serve s1 c sl t))) ∧
    (passCap s1 c sl = true → step s = settle (exec (.ageingCapDemote c sl) { s1 with cur := .device }))) ∧
  (∀ (s : State) (rest : List Turn) (c sl : Nat) (fresh : Bool) (i : Instr), c < 256 → sl < 4 →
    TurnOf s rest (.matrix c sl) (.prog c sl) → progDue (ActsIn s rest (.prog c sl)) c = some (sl, fresh) →
    let s1 := serveProg (ActsIn s rest (.prog c sl)) c sl fresh
    (FetchesScalar s1 (.prog c sl) true i → step s = settle (exec i s1)) ∧
    (nextTrap s1 (.prog c sl) ≠ none → step s = settle (exec (.trapEntry (.prog c sl)) s1))) ∧
  (∀ (s : State) (rest : List Turn) (h : Nat), TurnOf s rest (.firmware h) (.hart h) →
    let s1 := ActsIn s rest (.hart h)
    (∀ w, HartFree s1 h → HartWord s1 h w →
      (∀ i, firmwareDecode w = some i → step s = settle (exec i s1)) ∧
      (firmwareDecode w = none → w % 128 = 0x0B →
        step s = settle (.next (s1.setHart h (hartTrapped (s1.hart h) 2 (BitVec.ofNat 64 w))))) ∧
      (firmwareDecode w = none → w % 128 ≠ 0x0B → ∀ y x, 
        rvExec s1 (s1.hart h) w 4 (rvSystem s1 h (s1.hart h) w ((s1.hart h).pc + 4)) = .done y x →
        step s = settle (.next (x.setHart h y)))) ∧
    (h < 4 → (s1.role h).state ≠ 3 → s1.fwIrq.look 0 h ≠ 0 → (s1.hart h).mstatus.getLsbD 3 = true →
      (s1.hart h).mie.getLsbD 11 = true → ∃ x, step s = settle (.next x) ∧ (x.hart h).mepc = (s1.hart h).pc ∧
        (x.hart h).mcause = BitVec.ofNat 64 (2 ^ 63 + 11) ∧ (x.hart h).wait = .none ∧ x.fwIrq.look 0 h = 0)) ∧
  (∀ (s : State) (rest : List Turn) (i : Instr), s.sched = .occasion i :: rest → encode i = [] → occasionOk i = true →
    step s = settle (exec i (ActsIn s rest .device))) ∧
  (∀ (s : State) (rest : List Turn) (h : Nat) (op : BusOp) (x : State), s.sched = .control h op :: rest →
    (controlAccess (ActsIn s rest .device) h op = (x, none) → step s = settle (.next x)) ∧
    ∀ i, controlAccess (ActsIn s rest .device) h op = (x, some i) → step s = settle (exec i x)) ∧
  (∀ (s : State) (rest : List Turn) (n : Nat), s.sched = .elapse n :: rest →
    step s = settle (.next { elapse { s with sched := rest } n with cur := .device }) ∧
    (s.links = [] → s.now + n < 2 ^ 64 → (∀ e ∈ s.teams, s.now + n ≤ e.2.th.tcmp.toNat) →
      (∀ e ∈ s.progs, s.now + n ≤ e.2.th.tcmp.toNat) → tickAwaited s = false → roleDue s (s.now + n) = false →
      copyDue s = false → elapse s n = { s with now := s.now + n }) ∧
    (∀ e ∈ s.teams, e.2.th.tcmp.toNat < s.now + n → elapse s n = s) ∧
    (tickAwaited s = true → s.now / 1000 * 1000 + 1000 < s.now + n → elapse s n = s) ∧
    (roleDue s (s.now + n) = true → elapse s n = s)) ∧
  (∀ (s : State) (rest : List Turn) (h : Nat) (x : State), s.sched = .application h :: rest →
    (applicationStep (ActsIn s rest .device) h = (x, none) → step s = settle (.next x)) ∧
    ∀ i, applicationStep (ActsIn s rest .device) h = (x, some i) → step s = settle (exec i x)) ∧
  (∀ x : State, Settled x → settle (.next x) = .next x) ∧
  (∀ f, settle (.fault f) = .fault f) ∧ (∀ r, settle (.refused r) = .refused r)

/-! ### Words -/

/-- R230, R233, R253 to R256, R258, R262: words written out from the field tables decode to the instructions they stand for:
ADD g3, g1, g2; ADDI g5, g4, -1; BEQ; JAL; BK ALL; KANDN; GLD b16z; GATM CAS; FPOST; CSR set; TRAP; BAR INIT; MRED; MX CFG;
IADD v3, v1, v2 in i32; QUNMAP. A reserved opcode and a set reserved bit decode to nothing. -/
def Obligations.DecodesWords : Prop :=
  decodeTableWord 32 0x00611000 = some (.add 3 1 2) ∧
  decodeTableWord 32 0x04A4FFFF = some (.addi 5 4 0xFFFF) ∧
  decodeTableWord 32 0x40220003 = some (.beq 1 2 3) ∧
  decodeTableWord 32 0x5BFFFFFF = some (.jal 0x3FFFFFF) ∧
  decodeTableWord 32 0x60C0FFFE = some (.bkAll 1 0xFFFE) ∧
  decodeTableWord 32 0x91940003 = some (.kandn 3 1 2) ∧
  decodeTableWord 32 0xA0227FFC = some (.gld 1 2 3 0x1FFC) ∧
  decodeTableWord 32 0xA822192A = some (.gatm 1 2 3 4 2 0xA) ∧
  decodeTableWord 32 0xB0221809 = some (.fpost 1 2 3 4 1) ∧
  decodeTableWord 32 0xC0228003 = some (.csrSet 1 2 3) ∧
  decodeTableWord 32 0xD0001234 = some (.trap 0x1234) ∧
  decodeTableWord 32 0xE8011003 = some (.barInit 1 2) ∧
  decodeTableWord 32 0xFC070000 = some (.mred 7) ∧
  decodeTableWord 32 0xF8050007 = some (.mxCfg 5) ∧
  decodeTableWord 96 (0x01000000 + 0x030102FF * 2 ^ 32) =
    some (.iadd ⟨none, 0, 0, 0, 0, 0, 0, 0, 3, 1, 2, 0xFF, 0⟩) ∧
  decodeTableWord 32 0x0001508B = some (.qunmap 1 2) ∧
  decodeTableWord 32 0x28000000 = none ∧ decodeTableWord 32 0x00611040 = none

/-! ### Reset and the memories -/

/-- R459, R192, R407, R431, R185, R456, R457, R375, R84, R20: what reset leaves, where the manual gives the value: no unit, team
or program, the time base at 0, SRAM zero, links DOWN with 512 credits, PDL 0x4E20, every bank FREE, an empty TLB, no
extent and no route valid, PWRCAP 3600 and gating on; the memories are in canonical form. -/
def Obligations.ResetState : Prop :=
  Memory.wf State.reset.mem = true ∧ State.reset.teams = [] ∧ State.reset.progs = [] ∧ State.reset.units = [] ∧
  State.reset.now = 0 ∧ (∀ j, byteAt State.reset.mem.spad j = 0) ∧
  (∀ n, (State.reset.link n).state = 0 ∧ (State.reset.link n).busy = false ∧ (State.reset.link n).out.credits = 512 ∧
    (State.reset.link n).back.credits = 512 ∧ (State.reset.link n).epoch = 0) ∧
  (∀ c, (State.reset.core c).pdl = 0x4E20 ∧ (State.reset.core c).pcmdBusy = false ∧
    (State.reset.core c).steal = 0x9E3779B9#32 ^^^ BitVec.ofNat 32 (c * 0x10003)) ∧
  (∀ c b, ((State.reset.cluster c).banks.look Bank.idle b).st = .free) ∧ (∀ d, (State.reset.die d).tlb = []) ∧
  (∀ pa, extentOf State.reset pa = .noExtent) ∧ (∀ k, (State.reset.mrtLive.look 0 k).getLsbD 0 = false) ∧
  State.reset.extBusy = false ∧
  (∀ r, (State.reset.role r).state = 0) ∧ State.reset.pwrCap = 3600 ∧ State.reset.pwrGate = true ∧ State.reset.cmGen = 0 ∧
  (∀ k, (State.reset.calls.look Call.free k).state = 0)

/-- R230, R231, R233, R243, R245, R253 to R262: every instruction that a decoder's checks pass is read back from its own word
or parcels, with every operand and field, at every value: scalar words on the core that accepts them, lane words with and
without a prefix under the TMODE.QM they are right for, and the words of the firmware harts. -/
def Obligations.DecodeEncode : Prop :=
  (∀ (i : Instr) (mcc : Bool) (w : Nat), encodeScalar i = some w → coreAccepts mcc i = true → scalarBad mcc i = [] →
    w < 2 ^ 32 ∧ scalarDecode mcc w = .ok i ∧ encode i = [w]) ∧
  (∀ (i : Instr) (op : Nat) (l : LaneWord) (qm : Bool), laneOf i = some (op, l) → laneBad qm op l = [] →
    laneDecode qm (encode i) = .ok i ∧ (∀ p ∈ encode i, p < 2 ^ 32) ∧
      (encode i).length = (if l.pfx.isSome then 4 else 3)) ∧
  (∀ (i : Instr) (w : Nat), encodeFirmware i = some w → w < 2 ^ 32 ∧ firmwareDecode w = some i ∧ encode i = [w])

/-- R80, R82, R464, R459: every step keeps the canonical form of the memories: addresses rise, no byte is listed that reads as
an unlisted one does, and the poisoned words rise; so equal memories are equal data. -/
def Obligations.MemoryStaysCanonical : Prop :=
  ∀ s t : State, Memory.wf s.mem = true → step s = .next t → Memory.wf t.mem = true
end

