-- ==== Sys2Proof/Laws/Map.lean ====
section
/-! SUPPORT. The laws of the finite map: reading after writing, and the rising order of its keys. -/

namespace Sys2Proof
variable {α : Type}

theorem FMap.find_put_same (m : FMap α) (k : Nat) (v : α) : (FMap.put m k v).find k = some v := by
  induction m with
  | nil => simp [FMap.put, FMap.find]
  | cons e m ih =>
    simp only [FMap.put]
    cases h : e.1 == k
    · cases Nat.blt k e.1 <;> simp [FMap.find, h, ih]
    · simp [FMap.find]

theorem FMap.find_put_other (m : FMap α) {k j : Nat} (v : α) (h : j ≠ k) : (FMap.put m k v).find j = m.find j := by
  have hk : (k == j) = false := by simpa using fun e => h e.symm
  induction m with
  | nil => simp [FMap.put, FMap.find, hk]
  | cons e m ih =>
    simp only [FMap.put]
    cases he : e.1 == k
    · cases Nat.blt k e.1 <;> simp [FMap.find, hk, ih]
    · have : (e.1 == j) = false := by rw [beq_iff_eq.mp he]; exact hk
      simp [FMap.find, hk, this]

theorem FMap.look_eq_find (d : α) (m : FMap α) (k : Nat) : FMap.look d m k = (m.find k).getD d := by
  induction m with
  | nil => rfl
  | cons e m ih => simp only [FMap.look, FMap.find]; cases e.1 == k <;> simp [ih]

theorem FMap.look_put_same (d : α) (m : FMap α) (k : Nat) (v : α) : FMap.look d (FMap.put m k v) k = v := by
  simp [FMap.look_eq_find, FMap.find_put_same]

theorem FMap.look_put_other (d : α) (m : FMap α) {k j : Nat} (v : α) (h : j ≠ k) :
    FMap.look d (FMap.put m k v) j = FMap.look d m j := by
  simp [FMap.look_eq_find, FMap.find_put_other m v h]

theorem FMap.put_put (m : FMap α) (k : Nat) (v w : α) : FMap.put (FMap.put m k v) k w = FMap.put m k w := by
  induction m with
  | nil => simp [FMap.put]
  | cons e m ih =>
    simp only [FMap.put]
    cases h : e.1 == k
    · cases hb : Nat.blt k e.1 <;> simp [FMap.put, h, hb, ih]
    · simp [FMap.put]

theorem FMap.find_del_same (m : FMap α) (k : Nat) : (FMap.del m k).find k = none := by
  induction m with
  | nil => rfl
  | cons e m ih => simp only [FMap.del]; cases h : e.1 == k <;> simp [FMap.find, h, ih]

theorem FMap.find_del_other (m : FMap α) {k j : Nat} (h : j ≠ k) : (FMap.del m k).find j = m.find j := by
  induction m with
  | nil => rfl
  | cons e m ih =>
    simp only [FMap.del]
    cases he : e.1 == k
    · simp [FMap.find, ih]
    · have : (e.1 == j) = false := by rw [beq_iff_eq.mp he]; simpa using fun e => h e.symm
      simp [FMap.find, this, ih]

theorem FMap.look_del_same (d : α) (m : FMap α) (k : Nat) : FMap.look d (FMap.del m k) k = d := by
  simp [FMap.look_eq_find, FMap.find_del_same]

theorem FMap.look_del_other (d : α) (m : FMap α) {k j : Nat} (h : j ≠ k) :
    FMap.look d (FMap.del m k) j = FMap.look d m j := by
  simp [FMap.look_eq_find, FMap.find_del_other m h]

/-! ### Rising keys -/

/-- Every key of the map is above `b`. -/
def FMap.above (b : Nat) (m : FMap α) : Prop := ∀ e ∈ m, b < e.1

theorem FMap.sorted_cons (e : Nat × α) (m : FMap α) :
    FMap.sorted (e :: m) = true ↔ FMap.above e.1 m ∧ FMap.sorted m = true := by
  induction m generalizing e with
  | nil => simp [FMap.sorted, FMap.above]
  | cons f m ih =>
    simp only [FMap.sorted, Bool.and_eq_true, Nat.blt_eq, ih f, FMap.above, List.mem_cons, forall_eq_or_imp]
    constructor
    · rintro ⟨h, ha, hs⟩; exact ⟨⟨h, fun x hx => h.trans (ha x hx)⟩, ha, hs⟩
    · rintro ⟨⟨h, _⟩, ha, hs⟩; exact ⟨h, ha, hs⟩

theorem FMap.mem_put {m : FMap α} {k : Nat} {v : α} {e : Nat × α} (h : e ∈ FMap.put m k v) : e = (k, v) ∨ e ∈ m := by
  induction m with
  | nil => simpa [FMap.put] using h
  | cons f m ih =>
    simp only [FMap.put] at h
    cases hk : f.1 == k
    · cases hb : Nat.blt k f.1
      · simp only [hk, hb, cond_false, List.mem_cons] at h
        rcases h with h | h
        · exact .inr (by simp [h])
        · rcases ih h with h | h
          · exact .inl h
          · exact .inr (by simp [h])
      · simp only [hk, hb, cond_false, cond_true, List.mem_cons] at h
        rcases h with h | h | h
        · exact .inl h
        · exact .inr (by simp [h])
        · exact .inr (by simp [h])
    · simp only [hk, cond_true, List.mem_cons] at h
      rcases h with h | h
      · exact .inl h
      · exact .inr (by simp [h])

theorem FMap.sorted_put (m : FMap α) (k : Nat) (v : α) (h : m.sorted = true) : (FMap.put m k v).sorted = true := by
  induction m with
  | nil => rfl
  | cons f m ih =>
    obtain ⟨ha, hs⟩ := (FMap.sorted_cons f m).1 h
    simp only [FMap.put]
    cases hk : f.1 == k
    · cases hb : Nat.blt k f.1
      · refine (FMap.sorted_cons _ _).2 ⟨fun e he => ?_, ih hs⟩
        rcases FMap.mem_put he with rfl | he
        · have h1 : ¬ f.1 = k := by simpa using hk
          have h2 : ¬ k < f.1 := fun hc => by rw [show Nat.blt k f.1 = true by simpa using hc] at hb; cases hb
          show f.1 < k
          omega
        · exact ha e he
      · refine (FMap.sorted_cons _ _).2 ⟨fun e he => ?_, h⟩
        have hlt : k < f.1 := by simpa using hb
        rcases List.mem_cons.1 he with rfl | he
        · exact hlt
        · exact hlt.trans (ha e he)
    · have : f.1 = k := by simpa using hk
      exact (FMap.sorted_cons _ _).2 ⟨by rw [← this]; exact ha, hs⟩

theorem FMap.mem_del {m : FMap α} {k : Nat} {e : Nat × α} (h : e ∈ FMap.del m k) : e ∈ m := by
  induction m with
  | nil => exact h
  | cons f m ih =>
    simp only [FMap.del] at h
    cases hk : f.1 == k
    · simp only [hk, cond_false, List.mem_cons] at h
      rcases h with h | h
      · simp [h]
      · simp [ih h]
    · simp only [hk, cond_true] at h
      simp [ih h]

theorem FMap.sorted_del (m : FMap α) (k : Nat) (h : m.sorted = true) : (FMap.del m k).sorted = true := by
  induction m with
  | nil => rfl
  | cons f m ih =>
    obtain ⟨ha, hs⟩ := (FMap.sorted_cons f m).1 h
    simp only [FMap.del]
    cases hk : f.1 == k
    · exact (FMap.sorted_cons _ _).2 ⟨fun e he => ha e (FMap.mem_del he), ih hs⟩
    · exact ih hs

theorem FMap.sorted_filter (m : FMap α) (p : Nat × α → Bool) (h : m.sorted = true) : FMap.sorted (m.filter p) = true := by
  induction m with
  | nil => rfl
  | cons f m ih =>
    obtain ⟨ha, hs⟩ := (FMap.sorted_cons f m).1 h
    cases hp : p f
    · simpa [List.filter, hp] using ih hs
    · simp only [List.filter, hp]
      exact (FMap.sorted_cons _ _).2 ⟨fun e he => ha e (List.mem_filter.1 he).1, ih hs⟩

end Sys2Proof
end

