-- ==== Sys2Proof/Laws/Memory.lean ====
section
/-! SUPPORT. The laws of memory: a byte after a write, and the canonical form that every memory operation keeps. -/

namespace Sys2Proof.Machine
open Sys2Proof

/-! ### Bytes -/

/-- Bytes read as one number and written out again are the same bytes. -/
theorem bytesOfNum_numOfBytes (bs : List Byte) : bytesOfNum bs.length (numOfBytes bs) = bs := by
  induction bs with
  | nil => rfl
  | cons b bs ih =>
    have hb := b.isLt
    have h1 : (b.toNat + 256 * numOfBytes bs) / 256 = numOfBytes bs := by omega
    have h2 : BitVec.ofNat 8 (b.toNat + 256 * numOfBytes bs) = b := by
      apply BitVec.eq_of_toNat_eq; rw [BitVec.toNat_ofNat]; omega
    rw [List.length_cons, numOfBytes, bytesOfNum, h1, h2, ih]

theorem byteAt_putByte (m : FMap Byte) (k j : Nat) (b : Byte) :
    byteAt (putByte m k b) j = if j = k then b else byteAt m j := by
  unfold byteAt putByte
  by_cases hb : b = blankByte
  · rw [if_pos hb]
    by_cases h : j = k
    · rw [if_pos h, h, FMap.look_del_same, hb]
    · rw [if_neg h, FMap.look_del_other _ _ h]
  · rw [if_neg hb]
    by_cases h : j = k
    · rw [if_pos h, h, FMap.look_put_same]
    · rw [if_neg h, FMap.look_put_other _ _ _ h]

theorem byteAt_putBytes (bs : List Byte) (m : FMap Byte) (k j : Nat) :
    byteAt (putBytes m k bs) j = if k ≤ j ∧ j < k + bs.length then (bs[j - k]?).getD 0 else byteAt m j := by
  induction bs generalizing m k with
  | nil => rw [if_neg (by simp)]; rfl
  | cons b bs ih =>
    rw [putBytes, ih, byteAt_putByte]
    by_cases h : j = k
    · subst h; simp
    · by_cases h2 : k + 1 ≤ j ∧ j < k + 1 + bs.length
      · rw [if_pos h2, if_pos (by simp; omega), show j - k = (j - (k + 1)) + 1 by omega, List.getElem?_cons_succ]
      · rw [if_neg h2, if_neg h, if_neg (by simp; omega)]

theorem bytesAt_length (m : FMap Byte) (k n : Nat) : (bytesAt m k n).length = n := by
  induction n generalizing k with
  | zero => rfl
  | succ n ih => simp [bytesAt, ih]

theorem bytesAt_getElem? (m : FMap Byte) (k n i : Nat) (h : i < n) : (bytesAt m k n)[i]? = some (byteAt m (k + i)) := by
  induction n generalizing k i with
  | zero => omega
  | succ n ih =>
    cases i with
    | zero => rfl
    | succ i => rw [bytesAt, List.getElem?_cons_succ, ih (k + 1) i (by omega), show k + 1 + i = k + (i + 1) by omega]

/-! ### The canonical form -/

theorem noBlank_iff (m : FMap Byte) : noBlank m = true ↔ ∀ e ∈ m, e.2 ≠ blankByte := by
  induction m with
  | nil => simp [noBlank]
  | cons e m ih => simp [noBlank, ih]

theorem noBlank_putByte (m : FMap Byte) (k : Nat) (b : Byte) (h : noBlank m = true) : noBlank (putByte m k b) = true := by
  rw [noBlank_iff] at h ⊢
  intro e he
  unfold putByte at he
  split at he
  · exact h e (FMap.mem_del he)
  · rcases FMap.mem_put he with rfl | he
    · assumption
    · exact h e he

theorem sorted_putByte (m : FMap Byte) (k : Nat) (b : Byte) (h : m.sorted = true) : (putByte m k b).sorted = true := by
  unfold putByte
  split
  · exact FMap.sorted_del m k h
  · exact FMap.sorted_put m k b h

theorem sorted_putBytes (bs : List Byte) (m : FMap Byte) (k : Nat) (h : m.sorted = true) :
    (putBytes m k bs).sorted = true := by
  induction bs generalizing m k with
  | nil => exact h
  | cons b bs ih => exact ih _ _ (sorted_putByte m k b h)

theorem noBlank_putBytes (bs : List Byte) (m : FMap Byte) (k : Nat) (h : noBlank m = true) :
    noBlank (putBytes m k bs) = true := by
  induction bs generalizing m k with
  | nil => exact h
  | cons b bs ih => exact ih _ _ (noBlank_putByte m k b h)

theorem setSorted_cons (j : Nat) (l : List Nat) :
    setSorted (j :: l) = true ↔ (∀ x ∈ l, j < x) ∧ setSorted l = true := by
  induction l generalizing j with
  | nil => simp [setSorted]
  | cons k l ih =>
    simp only [setSorted, Bool.and_eq_true, Nat.blt_eq, ih k, List.mem_cons, forall_eq_or_imp]
    constructor
    · rintro ⟨h, ha, hs⟩; exact ⟨⟨h, fun x hx => h.trans (ha x hx)⟩, ha, hs⟩
    · rintro ⟨⟨h, _⟩, ha, hs⟩; exact ⟨h, ha, hs⟩

theorem mem_setIns {l : List Nat} {k x : Nat} (h : x ∈ setIns l k) : x = k ∨ x ∈ l := by
  induction l with
  | nil => simpa [setIns] using h
  | cons j l ih =>
    simp only [setIns] at h
    cases hj : j == k
    · cases hb : Nat.blt k j
      · simp only [hj, hb, cond_false, List.mem_cons] at h
        rcases h with h | h
        · simp [h]
        · rcases ih h with h | h <;> simp [h]
      · simp only [hj, hb, cond_false, cond_true, List.mem_cons] at h
        rcases h with h | h | h <;> simp [h]
    · simp only [hj, cond_true, List.mem_cons] at h
      rcases h with h | h <;> simp [h]

theorem setSorted_setIns (l : List Nat) (k : Nat) (h : setSorted l = true) : setSorted (setIns l k) = true := by
  induction l with
  | nil => rfl
  | cons j l ih =>
    obtain ⟨ha, hs⟩ := (setSorted_cons j l).1 h
    simp only [setIns]
    cases hj : j == k
    · have h1 : j ≠ k := by simpa using hj
      cases hb : Nat.blt k j
      · refine (setSorted_cons _ _).2 ⟨fun x hx => ?_, ih hs⟩
        have h2 : ¬ k < j := fun hc => by rw [show Nat.blt k j = true by simpa using hc] at hb; cases hb
        rcases mem_setIns hx with rfl | hx
        · omega
        · exact ha x hx
      · have hlt : k < j := by simpa using hb
        refine (setSorted_cons _ _).2 ⟨fun x hx => ?_, h⟩
        rcases List.mem_cons.1 hx with rfl | hx
        · exact hlt
        · exact hlt.trans (ha x hx)
    · exact h

theorem mem_setDel {l : List Nat} {k x : Nat} (h : x ∈ setDel l k) : x ∈ l := by
  induction l with
  | nil => exact h
  | cons j l ih =>
    simp only [setDel] at h
    cases hj : j == k
    · simp only [hj, cond_false, List.mem_cons] at h
      rcases h with h | h
      · simp [h]
      · simp [ih h]
    · simp only [hj, cond_true] at h
      simp [h]

theorem setSorted_setDel (l : List Nat) (k : Nat) (h : setSorted l = true) : setSorted (setDel l k) = true := by
  induction l with
  | nil => rfl
  | cons j l ih =>
    obtain ⟨ha, hs⟩ := (setSorted_cons j l).1 h
    simp only [setDel]
    cases hj : j == k
    · exact (setSorted_cons _ _).2 ⟨fun x hx => ha x (mem_setDel hx), ih hs⟩
    · exact hs

theorem setSorted_filter (l : List Nat) (p : Nat → Bool) (h : setSorted l = true) : setSorted (l.filter p) = true := by
  induction l with
  | nil => rfl
  | cons j l ih =>
    obtain ⟨ha, hs⟩ := (setSorted_cons j l).1 h
    cases hp : p j
    · simpa [List.filter, hp] using ih hs
    · simp only [List.filter, hp]
      exact (setSorted_cons _ _).2 ⟨fun x hx => ha x (List.mem_filter.1 hx).1, ih hs⟩

theorem setSorted_poisonAfter (p : List Nat) (k n : Nat) (psn : Bool) (h : setSorted p = true) :
    setSorted (poisonAfter p k n psn) = true := by
  unfold poisonAfter
  generalize wordsOf k n = ws
  induction ws generalizing p with
  | nil => exact h
  | cons w ws ih =>
    refine ih _ ?_
    show setSorted (if psn then setIns p w else if k ≤ 8 * w && 8 * w + 8 ≤ k + n then setDel p w else p) = true
    split
    · exact setSorted_setIns p w h
    · split
      · exact setSorted_setDel p w h
      · exact h

/-! ### Every memory operation keeps it -/

theorem wf_iff (m : Mem) : Memory.wf m = true ↔ m.far.sorted = true ∧ noBlank m.far = true ∧ m.spad.sorted = true ∧
    noBlank m.spad = true ∧ setSorted m.farPsn = true ∧ setSorted m.spadPsn = true := by
  simp [Memory.wf, and_assoc]

theorem wf_reset : Memory.wf State.reset.mem = true := rfl

theorem wf_spadWrite (s : State) (core off : Nat) (bs : List Byte) (psn : Bool) (h : Memory.wf s.mem = true) :
    Memory.wf (spadWrite s core off bs psn).mem = true := by
  obtain ⟨h1, h2, h3, h4, h5, h6⟩ := (wf_iff _).1 h
  exact (wf_iff _).2 ⟨h1, h2, sorted_putBytes bs _ _ h3, noBlank_putBytes bs _ _ h4, h5,
    setSorted_poisonAfter _ _ _ _ h6⟩

theorem wf_spadClear (s : State) (core off n : Nat) (h : Memory.wf s.mem = true) :
    Memory.wf (spadClear s core off n).mem = true := by
  obtain ⟨h1, h2, h3, h4, h5, h6⟩ := (wf_iff _).1 h
  refine (wf_iff _).2 ⟨h1, h2, FMap.sorted_filter _ _ h3, ?_, h5, setSorted_filter _ _ h6⟩
  rw [noBlank_iff] at h4 ⊢
  exact fun e he => h4 e (List.mem_filter.1 he).1

theorem wf_eccRead (s : State) (core off n : Nat) (h : Memory.wf s.mem = true) :
    Memory.wf (eccRead s core off n).mem = true := by
  unfold eccRead
  split
  · exact h
  · exact h

theorem wf_moduleWrite (s : State) (m a : Nat) (bs : List Byte) (psn : Bool) (h : Memory.wf s.mem = true) :
    Memory.wf (moduleWrite s m a bs psn).mem = true := by
  obtain ⟨h1, h2, h3, h4, h5, h6⟩ := (wf_iff _).1 h
  exact (wf_iff _).2 ⟨sorted_putBytes bs _ _ h1, noBlank_putBytes bs _ _ h2, h3, h4,
    setSorted_poisonAfter _ _ _ _ h5, h6⟩

theorem wf_extentWrite (s : State) (pa : Nat) (bs : List Byte) (psn : Bool) (h : Memory.wf s.mem = true) :
    Memory.wf (extentWrite s pa bs psn).mem = true := by
  unfold extentWrite
  split
  · split
    · exact h
    · exact wf_moduleWrite s _ _ bs psn h
  · exact h

theorem wf_physWrite (s : State) (pa : Nat) (bs : List Byte) (psn : Bool) (h : Memory.wf s.mem = true) :
    Memory.wf (physWrite s pa bs psn).mem = true := by
  unfold physWrite
  split
  · exact wf_extentWrite s pa bs psn h
  · generalize extentPieces pa bs.length = ps
    induction ps generalizing s with
    | nil => exact h
    | cons p ps ih => exact ih _ (wf_extentWrite s _ _ psn h)

theorem wf_physWriteWords (s : State) (pa : Nat) (ws : List Word64) (h : Memory.wf s.mem = true) :
    Memory.wf (physWriteWords s pa ws).mem = true := wf_physWrite s pa _ _ h

/-! ### A read after a write -/

theorem spadWrite_byte (s : State) (core off : Nat) (bs : List Byte) (psn : Bool) (j : Nat) :
    byteAt (spadWrite s core off bs psn).mem.spad j =
      if spadKey core off ≤ j ∧ j < spadKey core off + bs.length then (bs[j - spadKey core off]?).getD 0
      else byteAt s.mem.spad j := byteAt_putBytes bs _ _ j

theorem moduleWrite_byte (s : State) (m a : Nat) (bs : List Byte) (psn : Bool) (j : Nat) :
    byteAt (moduleWrite s m a bs psn).mem.far j =
      if farKey m a ≤ j ∧ j < farKey m a + bs.length then (bs[j - farKey m a]?).getD 0
      else byteAt s.mem.far j := byteAt_putBytes bs _ _ j

end Sys2Proof.Machine
end

