-- ==== Sys2Proof/Laws/State.lean ====
section
/-! SUPPORT. What each update of State leaves, field by field, and what each operation on a scalar stream leaves of it. -/

namespace Sys2Proof.Machine
open Sys2Proof

section
variable (s : State) (c k : Nat) (r : Prog)
@[simp] theorem State.setProg_sched : (s.setProg c k r).sched = s.sched := rfl
@[simp] theorem State.setProg_cur : (s.setProg c k r).cur = s.cur := rfl
@[simp] theorem State.setProg_freeCtr : (s.setProg c k r).freeCtr = s.freeCtr := rfl
@[simp] theorem State.setProg_nextId : (s.setProg c k r).nextId = s.nextId := rfl
@[simp] theorem State.setProg_teams : (s.setProg c k r).teams = s.teams := rfl
@[simp] theorem State.setProg_harts : (s.setProg c k r).harts = s.harts := rfl
@[simp] theorem State.setProg_fwIrq : (s.setProg c k r).fwIrq = s.fwIrq := rfl
@[simp] theorem State.setProg_controls : (s.setProg c k r).controls = s.controls := rfl
@[simp] theorem State.setProg_units : (s.setProg c k r).units = s.units := rfl
@[simp] theorem State.setProg_clusters : (s.setProg c k r).clusters = s.clusters := rfl
@[simp] theorem State.setProg_cores : (s.setProg c k r).cores = s.cores := rfl
@[simp] theorem State.setProg_dies : (s.setProg c k r).dies = s.dies := rfl
@[simp] theorem State.setProg_links : (s.setProg c k r).links = s.links := rfl
@[simp] theorem State.setProg_pendings : (s.setProg c k r).pendings = s.pendings := rfl
@[simp] theorem State.setProg_gangAcc : (s.setProg c k r).gangAcc = s.gangAcc := rfl
@[simp] theorem State.setProg_gangArr : (s.setProg c k r).gangArr = s.gangArr := rfl
@[simp] theorem State.setProg_cmds : (s.setProg c k r).cmds = s.cmds := rfl
@[simp] theorem State.setProg_reqs : (s.setProg c k r).reqs = s.reqs := rfl
@[simp] theorem State.setProg_launches : (s.setProg c k r).launches = s.launches := rfl
@[simp] theorem State.setProg_waitProgs : (s.setProg c k r).waitProgs = s.waitProgs := rfl
@[simp] theorem State.setProg_copies : (s.setProg c k r).copies = s.copies := rfl
@[simp] theorem State.setProg_graphs : (s.setProg c k r).graphs = s.graphs := rfl
@[simp] theorem State.setProg_phases : (s.setProg c k r).phases = s.phases := rfl
@[simp] theorem State.setProg_jobCtr : (s.setProg c k r).jobCtr = s.jobCtr := rfl
@[simp] theorem State.setProg_slots : (s.setProg c k r).slots = s.slots := rfl
@[simp] theorem State.setProg_injSaved : (s.setProg c k r).injSaved = s.injSaved := rfl
@[simp] theorem State.setProg_cqs : (s.setProg c k r).cqs = s.cqs := rfl
@[simp] theorem State.setProg_mem : (s.setProg c k r).mem = s.mem := rfl
@[simp] theorem State.setProg_code : (s.setProg c k r).code = s.code := rfl
@[simp] theorem State.setProg_now : (s.setProg c k r).now = s.now := rfl
@[simp] theorem State.setProg_boot : (s.setProg c k r).boot = s.boot := rfl
@[simp] theorem State.setProg_jobs : (s.setProg c k r).jobs = s.jobs := rfl
@[simp] theorem State.setProg_extStaged : (s.setProg c k r).extStaged = s.extStaged := rfl
@[simp] theorem State.setProg_extLive : (s.setProg c k r).extLive = s.extLive := rfl
@[simp] theorem State.setProg_mrtStaged : (s.setProg c k r).mrtStaged = s.mrtStaged := rfl
@[simp] theorem State.setProg_mrtLive : (s.setProg c k r).mrtLive = s.mrtLive := rfl
@[simp] theorem State.setProg_extBusy : (s.setProg c k r).extBusy = s.extBusy := rfl
@[simp] theorem State.setProg_cinv : (s.setProg c k r).cinv = s.cinv := rfl
@[simp] theorem State.setProg_modSize : (s.setProg c k r).modSize = s.modSize := rfl
@[simp] theorem State.setProg_modRevoked : (s.setProg c k r).modRevoked = s.modRevoked := rfl
@[simp] theorem State.setProg_modDead : (s.setProg c k r).modDead = s.modDead := rfl
@[simp] theorem State.setProg_signals : (s.setProg c k r).signals = s.signals := rfl
@[simp] theorem State.setProg_waiters : (s.setProg c k r).waiters = s.waiters := rfl
@[simp] theorem State.setProg_qkick : (s.setProg c k r).qkick = s.qkick := rfl
@[simp] theorem State.setProg_kickPend : (s.setProg c k r).kickPend = s.kickPend := rfl
@[simp] theorem State.setProg_event : (s.setProg c k r).event = s.event := rfl
@[simp] theorem State.setProg_roles : (s.setProg c k r).roles = s.roles := rfl
@[simp] theorem State.setProg_heldHarts : (s.setProg c k r).heldHarts = s.heldHarts := rfl
@[simp] theorem State.setProg_mlog : (s.setProg c k r).mlog = s.mlog := rfl
@[simp] theorem State.setProg_mlogCnt : (s.setProg c k r).mlogCnt = s.mlogCnt := rfl
@[simp] theorem State.setProg_mlogOvf : (s.setProg c k r).mlogOvf = s.mlogOvf := rfl
@[simp] theorem State.setProg_ownerDig : (s.setProg c k r).ownerDig = s.ownerDig := rfl
@[simp] theorem State.setProg_cap : (s.setProg c k r).cap = s.cap := rfl
@[simp] theorem State.setProg_irqBuf : (s.setProg c k r).irqBuf = s.irqBuf := rfl
@[simp] theorem State.setProg_irqRing : (s.setProg c k r).irqRing = s.irqRing := rfl
@[simp] theorem State.setProg_irqv : (s.setProg c k r).irqv = s.irqv := rfl
@[simp] theorem State.setProg_errRing : (s.setProg c k r).errRing = s.errRing := rfl
@[simp] theorem State.setProg_calls : (s.setProg c k r).calls = s.calls := rfl
@[simp] theorem State.setProg_cmGen : (s.setProg c k r).cmGen = s.cmGen := rfl
@[simp] theorem State.setProg_cmFence : (s.setProg c k r).cmFence = s.cmFence := rfl
@[simp] theorem State.setProg_ceLimit : (s.setProg c k r).ceLimit = s.ceLimit := rfl
@[simp] theorem State.setProg_pwrCap : (s.setProg c k r).pwrCap = s.pwrCap := rfl
@[simp] theorem State.setProg_pwrStat : (s.setProg c k r).pwrStat = s.pwrStat := rfl
@[simp] theorem State.setProg_pwrGate : (s.setProg c k r).pwrGate = s.pwrGate := rfl
@[simp] theorem State.setProg_pwrClk : (s.setProg c k r).pwrClk = s.pwrClk := rfl
@[simp] theorem State.setProg_clkBase : (s.setProg c k r).clkBase = s.clkBase := rfl
@[simp] theorem State.setProg_settled : (s.setProg c k r).settled = s.settled := rfl
@[simp] theorem State.setProg_ticked : (s.setProg c k r).ticked = s.ticked := rfl
@[simp] theorem State.setProg_msis : (s.setProg c k r).msis = s.msis := rfl
@[simp] theorem State.setProg_imsic : (s.setProg c k r).imsic = s.imsic := rfl
@[simp] theorem State.setProg_imsicEie : (s.setProg c k r).imsicEie = s.imsicEie := rfl
@[simp] theorem State.setProg_imsicDel : (s.setProg c k r).imsicDel = s.imsicDel := rfl
@[simp] theorem State.setProg_imsicThr : (s.setProg c k r).imsicThr = s.imsicThr := rfl
@[simp] theorem State.setProg_pcieOut : (s.setProg c k r).pcieOut = s.pcieOut := rfl
@[simp] theorem State.setProg_pcieReqs : (s.setProg c k r).pcieReqs = s.pcieReqs := rfl
@[simp] theorem State.setProg_rootCfg : (s.setProg c k r).rootCfg = s.rootCfg := rfl
@[simp] theorem State.setProg_regs : (s.setProg c k r).regs = s.regs := rfl
end

section
variable (s : State) (k : Nat) (r : UnitRec)
@[simp] theorem State.setUnit_sched : (s.setUnit k r).sched = s.sched := rfl
@[simp] theorem State.setUnit_cur : (s.setUnit k r).cur = s.cur := rfl
@[simp] theorem State.setUnit_freeCtr : (s.setUnit k r).freeCtr = s.freeCtr := rfl
@[simp] theorem State.setUnit_nextId : (s.setUnit k r).nextId = s.nextId := rfl
@[simp] theorem State.setUnit_teams : (s.setUnit k r).teams = s.teams := rfl
@[simp] theorem State.setUnit_progs : (s.setUnit k r).progs = s.progs := rfl
@[simp] theorem State.setUnit_harts : (s.setUnit k r).harts = s.harts := rfl
@[simp] theorem State.setUnit_fwIrq : (s.setUnit k r).fwIrq = s.fwIrq := rfl
@[simp] theorem State.setUnit_controls : (s.setUnit k r).controls = s.controls := rfl
@[simp] theorem State.setUnit_clusters : (s.setUnit k r).clusters = s.clusters := rfl
@[simp] theorem State.setUnit_cores : (s.setUnit k r).cores = s.cores := rfl
@[simp] theorem State.setUnit_dies : (s.setUnit k r).dies = s.dies := rfl
@[simp] theorem State.setUnit_links : (s.setUnit k r).links = s.links := rfl
@[simp] theorem State.setUnit_pendings : (s.setUnit k r).pendings = s.pendings := rfl
@[simp] theorem State.setUnit_gangAcc : (s.setUnit k r).gangAcc = s.gangAcc := rfl
@[simp] theorem State.setUnit_gangArr : (s.setUnit k r).gangArr = s.gangArr := rfl
@[simp] theorem State.setUnit_cmds : (s.setUnit k r).cmds = s.cmds := rfl
@[simp] theorem State.setUnit_reqs : (s.setUnit k r).reqs = s.reqs := rfl
@[simp] theorem State.setUnit_launches : (s.setUnit k r).launches = s.launches := rfl
@[simp] theorem State.setUnit_waitProgs : (s.setUnit k r).waitProgs = s.waitProgs := rfl
@[simp] theorem State.setUnit_copies : (s.setUnit k r).copies = s.copies := rfl
@[simp] theorem State.setUnit_graphs : (s.setUnit k r).graphs = s.graphs := rfl
@[simp] theorem State.setUnit_phases : (s.setUnit k r).phases = s.phases := rfl
@[simp] theorem State.setUnit_jobCtr : (s.setUnit k r).jobCtr = s.jobCtr := rfl
@[simp] theorem State.setUnit_slots : (s.setUnit k r).slots = s.slots := rfl
@[simp] theorem State.setUnit_injSaved : (s.setUnit k r).injSaved = s.injSaved := rfl
@[simp] theorem State.setUnit_cqs : (s.setUnit k r).cqs = s.cqs := rfl
@[simp] theorem State.setUnit_mem : (s.setUnit k r).mem = s.mem := rfl
@[simp] theorem State.setUnit_code : (s.setUnit k r).code = s.code := rfl
@[simp] theorem State.setUnit_now : (s.setUnit k r).now = s.now := rfl
@[simp] theorem State.setUnit_boot : (s.setUnit k r).boot = s.boot := rfl
@[simp] theorem State.setUnit_jobs : (s.setUnit k r).jobs = s.jobs := rfl
@[simp] theorem State.setUnit_extStaged : (s.setUnit k r).extStaged = s.extStaged := rfl
@[simp] theorem State.setUnit_extLive : (s.setUnit k r).extLive = s.extLive := rfl
@[simp] theorem State.setUnit_mrtStaged : (s.setUnit k r).mrtStaged = s.mrtStaged := rfl
@[simp] theorem State.setUnit_mrtLive : (s.setUnit k r).mrtLive = s.mrtLive := rfl
@[simp] theorem State.setUnit_extBusy : (s.setUnit k r).extBusy = s.extBusy := rfl
@[simp] theorem State.setUnit_cinv : (s.setUnit k r).cinv = s.cinv := rfl
@[simp] theorem State.setUnit_modSize : (s.setUnit k r).modSize = s.modSize := rfl
@[simp] theorem State.setUnit_modRevoked : (s.setUnit k r).modRevoked = s.modRevoked := rfl
@[simp] theorem State.setUnit_modDead : (s.setUnit k r).modDead = s.modDead := rfl
@[simp] theorem State.setUnit_signals : (s.setUnit k r).signals = s.signals := rfl
@[simp] theorem State.setUnit_waiters : (s.setUnit k r).waiters = s.waiters := rfl
@[simp] theorem State.setUnit_qkick : (s.setUnit k r).qkick = s.qkick := rfl
@[simp] theorem State.setUnit_kickPend : (s.setUnit k r).kickPend = s.kickPend := rfl
@[simp] theorem State.setUnit_event : (s.setUnit k r).event = s.event := rfl
@[simp] theorem State.setUnit_roles : (s.setUnit k r).roles = s.roles := rfl
@[simp] theorem State.setUnit_heldHarts : (s.setUnit k r).heldHarts = s.heldHarts := rfl
@[simp] theorem State.setUnit_mlog : (s.setUnit k r).mlog = s.mlog := rfl
@[simp] theorem State.setUnit_mlogCnt : (s.setUnit k r).mlogCnt = s.mlogCnt := rfl
@[simp] theorem State.setUnit_mlogOvf : (s.setUnit k r).mlogOvf = s.mlogOvf := rfl
@[simp] theorem State.setUnit_ownerDig : (s.setUnit k r).ownerDig = s.ownerDig := rfl
@[simp] theorem State.setUnit_cap : (s.setUnit k r).cap = s.cap := rfl
@[simp] theorem State.setUnit_irqBuf : (s.setUnit k r).irqBuf = s.irqBuf := rfl
@[simp] theorem State.setUnit_irqRing : (s.setUnit k r).irqRing = s.irqRing := rfl
@[simp] theorem State.setUnit_irqv : (s.setUnit k r).irqv = s.irqv := rfl
@[simp] theorem State.setUnit_errRing : (s.setUnit k r).errRing = s.errRing := rfl
@[simp] theorem State.setUnit_calls : (s.setUnit k r).calls = s.calls := rfl
@[simp] theorem State.setUnit_cmGen : (s.setUnit k r).cmGen = s.cmGen := rfl
@[simp] theorem State.setUnit_cmFence : (s.setUnit k r).cmFence = s.cmFence := rfl
@[simp] theorem State.setUnit_ceLimit : (s.setUnit k r).ceLimit = s.ceLimit := rfl
@[simp] theorem State.setUnit_pwrCap : (s.setUnit k r).pwrCap = s.pwrCap := rfl
@[simp] theorem State.setUnit_pwrStat : (s.setUnit k r).pwrStat = s.pwrStat := rfl
@[simp] theorem State.setUnit_pwrGate : (s.setUnit k r).pwrGate = s.pwrGate := rfl
@[simp] theorem State.setUnit_pwrClk : (s.setUnit k r).pwrClk = s.pwrClk := rfl
@[simp] theorem State.setUnit_clkBase : (s.setUnit k r).clkBase = s.clkBase := rfl
@[simp] theorem State.setUnit_settled : (s.setUnit k r).settled = s.settled := rfl
@[simp] theorem State.setUnit_ticked : (s.setUnit k r).ticked = s.ticked := rfl
@[simp] theorem State.setUnit_msis : (s.setUnit k r).msis = s.msis := rfl
@[simp] theorem State.setUnit_imsic : (s.setUnit k r).imsic = s.imsic := rfl
@[simp] theorem State.setUnit_imsicEie : (s.setUnit k r).imsicEie = s.imsicEie := rfl
@[simp] theorem State.setUnit_imsicDel : (s.setUnit k r).imsicDel = s.imsicDel := rfl
@[simp] theorem State.setUnit_imsicThr : (s.setUnit k r).imsicThr = s.imsicThr := rfl
@[simp] theorem State.setUnit_pcieOut : (s.setUnit k r).pcieOut = s.pcieOut := rfl
@[simp] theorem State.setUnit_pcieReqs : (s.setUnit k r).pcieReqs = s.pcieReqs := rfl
@[simp] theorem State.setUnit_rootCfg : (s.setUnit k r).rootCfg = s.rootCfg := rfl
@[simp] theorem State.setUnit_regs : (s.setUnit k r).regs = s.regs := rfl
end

section
variable (s : State) (k : Nat) (r : Launch)
@[simp] theorem State.setLaunch_sched : (s.setLaunch k r).sched = s.sched := rfl
@[simp] theorem State.setLaunch_cur : (s.setLaunch k r).cur = s.cur := rfl
@[simp] theorem State.setLaunch_freeCtr : (s.setLaunch k r).freeCtr = s.freeCtr := rfl
@[simp] theorem State.setLaunch_nextId : (s.setLaunch k r).nextId = s.nextId := rfl
@[simp] theorem State.setLaunch_teams : (s.setLaunch k r).teams = s.teams := rfl
@[simp] theorem State.setLaunch_progs : (s.setLaunch k r).progs = s.progs := rfl
@[simp] theorem State.setLaunch_harts : (s.setLaunch k r).harts = s.harts := rfl
@[simp] theorem State.setLaunch_fwIrq : (s.setLaunch k r).fwIrq = s.fwIrq := rfl
@[simp] theorem State.setLaunch_controls : (s.setLaunch k r).controls = s.controls := rfl
@[simp] theorem State.setLaunch_units : (s.setLaunch k r).units = s.units := rfl
@[simp] theorem State.setLaunch_clusters : (s.setLaunch k r).clusters = s.clusters := rfl
@[simp] theorem State.setLaunch_cores : (s.setLaunch k r).cores = s.cores := rfl
@[simp] theorem State.setLaunch_dies : (s.setLaunch k r).dies = s.dies := rfl
@[simp] theorem State.setLaunch_links : (s.setLaunch k r).links = s.links := rfl
@[simp] theorem State.setLaunch_pendings : (s.setLaunch k r).pendings = s.pendings := rfl
@[simp] theorem State.setLaunch_gangAcc : (s.setLaunch k r).gangAcc = s.gangAcc := rfl
@[simp] theorem State.setLaunch_gangArr : (s.setLaunch k r).gangArr = s.gangArr := rfl
@[simp] theorem State.setLaunch_cmds : (s.setLaunch k r).cmds = s.cmds := rfl
@[simp] theorem State.setLaunch_reqs : (s.setLaunch k r).reqs = s.reqs := rfl
@[simp] theorem State.setLaunch_waitProgs : (s.setLaunch k r).waitProgs = s.waitProgs := rfl
@[simp] theorem State.setLaunch_copies : (s.setLaunch k r).copies = s.copies := rfl
@[simp] theorem State.setLaunch_graphs : (s.setLaunch k r).graphs = s.graphs := rfl
@[simp] theorem State.setLaunch_phases : (s.setLaunch k r).phases = s.phases := rfl
@[simp] theorem State.setLaunch_jobCtr : (s.setLaunch k r).jobCtr = s.jobCtr := rfl
@[simp] theorem State.setLaunch_slots : (s.setLaunch k r).slots = s.slots := rfl
@[simp] theorem State.setLaunch_injSaved : (s.setLaunch k r).injSaved = s.injSaved := rfl
@[simp] theorem State.setLaunch_cqs : (s.setLaunch k r).cqs = s.cqs := rfl
@[simp] theorem State.setLaunch_mem : (s.setLaunch k r).mem = s.mem := rfl
@[simp] theorem State.setLaunch_code : (s.setLaunch k r).code = s.code := rfl
@[simp] theorem State.setLaunch_now : (s.setLaunch k r).now = s.now := rfl
@[simp] theorem State.setLaunch_boot : (s.setLaunch k r).boot = s.boot := rfl
@[simp] theorem State.setLaunch_jobs : (s.setLaunch k r).jobs = s.jobs := rfl
@[simp] theorem State.setLaunch_extStaged : (s.setLaunch k r).extStaged = s.extStaged := rfl
@[simp] theorem State.setLaunch_extLive : (s.setLaunch k r).extLive = s.extLive := rfl
@[simp] theorem State.setLaunch_mrtStaged : (s.setLaunch k r).mrtStaged = s.mrtStaged := rfl
@[simp] theorem State.setLaunch_mrtLive : (s.setLaunch k r).mrtLive = s.mrtLive := rfl
@[simp] theorem State.setLaunch_extBusy : (s.setLaunch k r).extBusy = s.extBusy := rfl
@[simp] theorem State.setLaunch_cinv : (s.setLaunch k r).cinv = s.cinv := rfl
@[simp] theorem State.setLaunch_modSize : (s.setLaunch k r).modSize = s.modSize := rfl
@[simp] theorem State.setLaunch_modRevoked : (s.setLaunch k r).modRevoked = s.modRevoked := rfl
@[simp] theorem State.setLaunch_modDead : (s.setLaunch k r).modDead = s.modDead := rfl
@[simp] theorem State.setLaunch_signals : (s.setLaunch k r).signals = s.signals := rfl
@[simp] theorem State.setLaunch_waiters : (s.setLaunch k r).waiters = s.waiters := rfl
@[simp] theorem State.setLaunch_qkick : (s.setLaunch k r).qkick = s.qkick := rfl
@[simp] theorem State.setLaunch_kickPend : (s.setLaunch k r).kickPend = s.kickPend := rfl
@[simp] theorem State.setLaunch_event : (s.setLaunch k r).event = s.event := rfl
@[simp] theorem State.setLaunch_roles : (s.setLaunch k r).roles = s.roles := rfl
@[simp] theorem State.setLaunch_heldHarts : (s.setLaunch k r).heldHarts = s.heldHarts := rfl
@[simp] theorem State.setLaunch_mlog : (s.setLaunch k r).mlog = s.mlog := rfl
@[simp] theorem State.setLaunch_mlogCnt : (s.setLaunch k r).mlogCnt = s.mlogCnt := rfl
@[simp] theorem State.setLaunch_mlogOvf : (s.setLaunch k r).mlogOvf = s.mlogOvf := rfl
@[simp] theorem State.setLaunch_ownerDig : (s.setLaunch k r).ownerDig = s.ownerDig := rfl
@[simp] theorem State.setLaunch_cap : (s.setLaunch k r).cap = s.cap := rfl
@[simp] theorem State.setLaunch_irqBuf : (s.setLaunch k r).irqBuf = s.irqBuf := rfl
@[simp] theorem State.setLaunch_irqRing : (s.setLaunch k r).irqRing = s.irqRing := rfl
@[simp] theorem State.setLaunch_irqv : (s.setLaunch k r).irqv = s.irqv := rfl
@[simp] theorem State.setLaunch_errRing : (s.setLaunch k r).errRing = s.errRing := rfl
@[simp] theorem State.setLaunch_calls : (s.setLaunch k r).calls = s.calls := rfl
@[simp] theorem State.setLaunch_cmGen : (s.setLaunch k r).cmGen = s.cmGen := rfl
@[simp] theorem State.setLaunch_cmFence : (s.setLaunch k r).cmFence = s.cmFence := rfl
@[simp] theorem State.setLaunch_ceLimit : (s.setLaunch k r).ceLimit = s.ceLimit := rfl
@[simp] theorem State.setLaunch_pwrCap : (s.setLaunch k r).pwrCap = s.pwrCap := rfl
@[simp] theorem State.setLaunch_pwrStat : (s.setLaunch k r).pwrStat = s.pwrStat := rfl
@[simp] theorem State.setLaunch_pwrGate : (s.setLaunch k r).pwrGate = s.pwrGate := rfl
@[simp] theorem State.setLaunch_pwrClk : (s.setLaunch k r).pwrClk = s.pwrClk := rfl
@[simp] theorem State.setLaunch_clkBase : (s.setLaunch k r).clkBase = s.clkBase := rfl
@[simp] theorem State.setLaunch_settled : (s.setLaunch k r).settled = s.settled := rfl
@[simp] theorem State.setLaunch_ticked : (s.setLaunch k r).ticked = s.ticked := rfl
@[simp] theorem State.setLaunch_msis : (s.setLaunch k r).msis = s.msis := rfl
@[simp] theorem State.setLaunch_imsic : (s.setLaunch k r).imsic = s.imsic := rfl
@[simp] theorem State.setLaunch_imsicEie : (s.setLaunch k r).imsicEie = s.imsicEie := rfl
@[simp] theorem State.setLaunch_imsicDel : (s.setLaunch k r).imsicDel = s.imsicDel := rfl
@[simp] theorem State.setLaunch_imsicThr : (s.setLaunch k r).imsicThr = s.imsicThr := rfl
@[simp] theorem State.setLaunch_pcieOut : (s.setLaunch k r).pcieOut = s.pcieOut := rfl
@[simp] theorem State.setLaunch_pcieReqs : (s.setLaunch k r).pcieReqs = s.pcieReqs := rfl
@[simp] theorem State.setLaunch_rootCfg : (s.setLaunch k r).rootCfg = s.rootCfg := rfl
@[simp] theorem State.setLaunch_regs : (s.setLaunch k r).regs = s.regs := rfl
end

section
variable (s : State) (k : Nat) (r : Cluster)
@[simp] theorem State.setCluster_sched : (s.setCluster k r).sched = s.sched := rfl
@[simp] theorem State.setCluster_cur : (s.setCluster k r).cur = s.cur := rfl
@[simp] theorem State.setCluster_freeCtr : (s.setCluster k r).freeCtr = s.freeCtr := rfl
@[simp] theorem State.setCluster_nextId : (s.setCluster k r).nextId = s.nextId := rfl
@[simp] theorem State.setCluster_teams : (s.setCluster k r).teams = s.teams := rfl
@[simp] theorem State.setCluster_progs : (s.setCluster k r).progs = s.progs := rfl
@[simp] theorem State.setCluster_harts : (s.setCluster k r).harts = s.harts := rfl
@[simp] theorem State.setCluster_fwIrq : (s.setCluster k r).fwIrq = s.fwIrq := rfl
@[simp] theorem State.setCluster_controls : (s.setCluster k r).controls = s.controls := rfl
@[simp] theorem State.setCluster_units : (s.setCluster k r).units = s.units := rfl
@[simp] theorem State.setCluster_cores : (s.setCluster k r).cores = s.cores := rfl
@[simp] theorem State.setCluster_dies : (s.setCluster k r).dies = s.dies := rfl
@[simp] theorem State.setCluster_links : (s.setCluster k r).links = s.links := rfl
@[simp] theorem State.setCluster_pendings : (s.setCluster k r).pendings = s.pendings := rfl
@[simp] theorem State.setCluster_gangAcc : (s.setCluster k r).gangAcc = s.gangAcc := rfl
@[simp] theorem State.setCluster_gangArr : (s.setCluster k r).gangArr = s.gangArr := rfl
@[simp] theorem State.setCluster_cmds : (s.setCluster k r).cmds = s.cmds := rfl
@[simp] theorem State.setCluster_reqs : (s.setCluster k r).reqs = s.reqs := rfl
@[simp] theorem State.setCluster_launches : (s.setCluster k r).launches = s.launches := rfl
@[simp] theorem State.setCluster_waitProgs : (s.setCluster k r).waitProgs = s.waitProgs := rfl
@[simp] theorem State.setCluster_copies : (s.setCluster k r).copies = s.copies := rfl
@[simp] theorem State.setCluster_graphs : (s.setCluster k r).graphs = s.graphs := rfl
@[simp] theorem State.setCluster_phases : (s.setCluster k r).phases = s.phases := rfl
@[simp] theorem State.setCluster_jobCtr : (s.setCluster k r).jobCtr = s.jobCtr := rfl
@[simp] theorem State.setCluster_slots : (s.setCluster k r).slots = s.slots := rfl
@[simp] theorem State.setCluster_injSaved : (s.setCluster k r).injSaved = s.injSaved := rfl
@[simp] theorem State.setCluster_cqs : (s.setCluster k r).cqs = s.cqs := rfl
@[simp] theorem State.setCluster_mem : (s.setCluster k r).mem = s.mem := rfl
@[simp] theorem State.setCluster_code : (s.setCluster k r).code = s.code := rfl
@[simp] theorem State.setCluster_now : (s.setCluster k r).now = s.now := rfl
@[simp] theorem State.setCluster_boot : (s.setCluster k r).boot = s.boot := rfl
@[simp] theorem State.setCluster_jobs : (s.setCluster k r).jobs = s.jobs := rfl
@[simp] theorem State.setCluster_extStaged : (s.setCluster k r).extStaged = s.extStaged := rfl
@[simp] theorem State.setCluster_extLive : (s.setCluster k r).extLive = s.extLive := rfl
@[simp] theorem State.setCluster_mrtStaged : (s.setCluster k r).mrtStaged = s.mrtStaged := rfl
@[simp] theorem State.setCluster_mrtLive : (s.setCluster k r).mrtLive = s.mrtLive := rfl
@[simp] theorem State.setCluster_extBusy : (s.setCluster k r).extBusy = s.extBusy := rfl
@[simp] theorem State.setCluster_cinv : (s.setCluster k r).cinv = s.cinv := rfl
@[simp] theorem State.setCluster_modSize : (s.setCluster k r).modSize = s.modSize := rfl
@[simp] theorem State.setCluster_modRevoked : (s.setCluster k r).modRevoked = s.modRevoked := rfl
@[simp] theorem State.setCluster_modDead : (s.setCluster k r).modDead = s.modDead := rfl
@[simp] theorem State.setCluster_signals : (s.setCluster k r).signals = s.signals := rfl
@[simp] theorem State.setCluster_waiters : (s.setCluster k r).waiters = s.waiters := rfl
@[simp] theorem State.setCluster_qkick : (s.setCluster k r).qkick = s.qkick := rfl
@[simp] theorem State.setCluster_kickPend : (s.setCluster k r).kickPend = s.kickPend := rfl
@[simp] theorem State.setCluster_event : (s.setCluster k r).event = s.event := rfl
@[simp] theorem State.setCluster_roles : (s.setCluster k r).roles = s.roles := rfl
@[simp] theorem State.setCluster_heldHarts : (s.setCluster k r).heldHarts = s.heldHarts := rfl
@[simp] theorem State.setCluster_mlog : (s.setCluster k r).mlog = s.mlog := rfl
@[simp] theorem State.setCluster_mlogCnt : (s.setCluster k r).mlogCnt = s.mlogCnt := rfl
@[simp] theorem State.setCluster_mlogOvf : (s.setCluster k r).mlogOvf = s.mlogOvf := rfl
@[simp] theorem State.setCluster_ownerDig : (s.setCluster k r).ownerDig = s.ownerDig := rfl
@[simp] theorem State.setCluster_cap : (s.setCluster k r).cap = s.cap := rfl
@[simp] theorem State.setCluster_irqBuf : (s.setCluster k r).irqBuf = s.irqBuf := rfl
@[simp] theorem State.setCluster_irqRing : (s.setCluster k r).irqRing = s.irqRing := rfl
@[simp] theorem State.setCluster_irqv : (s.setCluster k r).irqv = s.irqv := rfl
@[simp] theorem State.setCluster_errRing : (s.setCluster k r).errRing = s.errRing := rfl
@[simp] theorem State.setCluster_calls : (s.setCluster k r).calls = s.calls := rfl
@[simp] theorem State.setCluster_cmGen : (s.setCluster k r).cmGen = s.cmGen := rfl
@[simp] theorem State.setCluster_cmFence : (s.setCluster k r).cmFence = s.cmFence := rfl
@[simp] theorem State.setCluster_ceLimit : (s.setCluster k r).ceLimit = s.ceLimit := rfl
@[simp] theorem State.setCluster_pwrCap : (s.setCluster k r).pwrCap = s.pwrCap := rfl
@[simp] theorem State.setCluster_pwrStat : (s.setCluster k r).pwrStat = s.pwrStat := rfl
@[simp] theorem State.setCluster_pwrGate : (s.setCluster k r).pwrGate = s.pwrGate := rfl
@[simp] theorem State.setCluster_pwrClk : (s.setCluster k r).pwrClk = s.pwrClk := rfl
@[simp] theorem State.setCluster_clkBase : (s.setCluster k r).clkBase = s.clkBase := rfl
@[simp] theorem State.setCluster_settled : (s.setCluster k r).settled = s.settled := rfl
@[simp] theorem State.setCluster_ticked : (s.setCluster k r).ticked = s.ticked := rfl
@[simp] theorem State.setCluster_msis : (s.setCluster k r).msis = s.msis := rfl
@[simp] theorem State.setCluster_imsic : (s.setCluster k r).imsic = s.imsic := rfl
@[simp] theorem State.setCluster_imsicEie : (s.setCluster k r).imsicEie = s.imsicEie := rfl
@[simp] theorem State.setCluster_imsicDel : (s.setCluster k r).imsicDel = s.imsicDel := rfl
@[simp] theorem State.setCluster_imsicThr : (s.setCluster k r).imsicThr = s.imsicThr := rfl
@[simp] theorem State.setCluster_pcieOut : (s.setCluster k r).pcieOut = s.pcieOut := rfl
@[simp] theorem State.setCluster_pcieReqs : (s.setCluster k r).pcieReqs = s.pcieReqs := rfl
@[simp] theorem State.setCluster_rootCfg : (s.setCluster k r).rootCfg = s.rootCfg := rfl
@[simp] theorem State.setCluster_regs : (s.setCluster k r).regs = s.regs := rfl
end

section
variable (s : State) (k : Nat) (r : Die)
@[simp] theorem State.setDie_sched : (s.setDie k r).sched = s.sched := rfl
@[simp] theorem State.setDie_cur : (s.setDie k r).cur = s.cur := rfl
@[simp] theorem State.setDie_freeCtr : (s.setDie k r).freeCtr = s.freeCtr := rfl
@[simp] theorem State.setDie_nextId : (s.setDie k r).nextId = s.nextId := rfl
@[simp] theorem State.setDie_teams : (s.setDie k r).teams = s.teams := rfl
@[simp] theorem State.setDie_progs : (s.setDie k r).progs = s.progs := rfl
@[simp] theorem State.setDie_harts : (s.setDie k r).harts = s.harts := rfl
@[simp] theorem State.setDie_fwIrq : (s.setDie k r).fwIrq = s.fwIrq := rfl
@[simp] theorem State.setDie_controls : (s.setDie k r).controls = s.controls := rfl
@[simp] theorem State.setDie_units : (s.setDie k r).units = s.units := rfl
@[simp] theorem State.setDie_clusters : (s.setDie k r).clusters = s.clusters := rfl
@[simp] theorem State.setDie_cores : (s.setDie k r).cores = s.cores := rfl
@[simp] theorem State.setDie_links : (s.setDie k r).links = s.links := rfl
@[simp] theorem State.setDie_pendings : (s.setDie k r).pendings = s.pendings := rfl
@[simp] theorem State.setDie_gangAcc : (s.setDie k r).gangAcc = s.gangAcc := rfl
@[simp] theorem State.setDie_gangArr : (s.setDie k r).gangArr = s.gangArr := rfl
@[simp] theorem State.setDie_cmds : (s.setDie k r).cmds = s.cmds := rfl
@[simp] theorem State.setDie_reqs : (s.setDie k r).reqs = s.reqs := rfl
@[simp] theorem State.setDie_launches : (s.setDie k r).launches = s.launches := rfl
@[simp] theorem State.setDie_waitProgs : (s.setDie k r).waitProgs = s.waitProgs := rfl
@[simp] theorem State.setDie_copies : (s.setDie k r).copies = s.copies := rfl
@[simp] theorem State.setDie_graphs : (s.setDie k r).graphs = s.graphs := rfl
@[simp] theorem State.setDie_phases : (s.setDie k r).phases = s.phases := rfl
@[simp] theorem State.setDie_jobCtr : (s.setDie k r).jobCtr = s.jobCtr := rfl
@[simp] theorem State.setDie_slots : (s.setDie k r).slots = s.slots := rfl
@[simp] theorem State.setDie_injSaved : (s.setDie k r).injSaved = s.injSaved := rfl
@[simp] theorem State.setDie_cqs : (s.setDie k r).cqs = s.cqs := rfl
@[simp] theorem State.setDie_mem : (s.setDie k r).mem = s.mem := rfl
@[simp] theorem State.setDie_code : (s.setDie k r).code = s.code := rfl
@[simp] theorem State.setDie_now : (s.setDie k r).now = s.now := rfl
@[simp] theorem State.setDie_boot : (s.setDie k r).boot = s.boot := rfl
@[simp] theorem State.setDie_jobs : (s.setDie k r).jobs = s.jobs := rfl
@[simp] theorem State.setDie_extStaged : (s.setDie k r).extStaged = s.extStaged := rfl
@[simp] theorem State.setDie_extLive : (s.setDie k r).extLive = s.extLive := rfl
@[simp] theorem State.setDie_mrtStaged : (s.setDie k r).mrtStaged = s.mrtStaged := rfl
@[simp] theorem State.setDie_mrtLive : (s.setDie k r).mrtLive = s.mrtLive := rfl
@[simp] theorem State.setDie_extBusy : (s.setDie k r).extBusy = s.extBusy := rfl
@[simp] theorem State.setDie_cinv : (s.setDie k r).cinv = s.cinv := rfl
@[simp] theorem State.setDie_modSize : (s.setDie k r).modSize = s.modSize := rfl
@[simp] theorem State.setDie_modRevoked : (s.setDie k r).modRevoked = s.modRevoked := rfl
@[simp] theorem State.setDie_modDead : (s.setDie k r).modDead = s.modDead := rfl
@[simp] theorem State.setDie_signals : (s.setDie k r).signals = s.signals := rfl
@[simp] theorem State.setDie_waiters : (s.setDie k r).waiters = s.waiters := rfl
@[simp] theorem State.setDie_qkick : (s.setDie k r).qkick = s.qkick := rfl
@[simp] theorem State.setDie_kickPend : (s.setDie k r).kickPend = s.kickPend := rfl
@[simp] theorem State.setDie_event : (s.setDie k r).event = s.event := rfl
@[simp] theorem State.setDie_roles : (s.setDie k r).roles = s.roles := rfl
@[simp] theorem State.setDie_heldHarts : (s.setDie k r).heldHarts = s.heldHarts := rfl
@[simp] theorem State.setDie_mlog : (s.setDie k r).mlog = s.mlog := rfl
@[simp] theorem State.setDie_mlogCnt : (s.setDie k r).mlogCnt = s.mlogCnt := rfl
@[simp] theorem State.setDie_mlogOvf : (s.setDie k r).mlogOvf = s.mlogOvf := rfl
@[simp] theorem State.setDie_ownerDig : (s.setDie k r).ownerDig = s.ownerDig := rfl
@[simp] theorem State.setDie_cap : (s.setDie k r).cap = s.cap := rfl
@[simp] theorem State.setDie_irqBuf : (s.setDie k r).irqBuf = s.irqBuf := rfl
@[simp] theorem State.setDie_irqRing : (s.setDie k r).irqRing = s.irqRing := rfl
@[simp] theorem State.setDie_irqv : (s.setDie k r).irqv = s.irqv := rfl
@[simp] theorem State.setDie_errRing : (s.setDie k r).errRing = s.errRing := rfl
@[simp] theorem State.setDie_calls : (s.setDie k r).calls = s.calls := rfl
@[simp] theorem State.setDie_cmGen : (s.setDie k r).cmGen = s.cmGen := rfl
@[simp] theorem State.setDie_cmFence : (s.setDie k r).cmFence = s.cmFence := rfl
@[simp] theorem State.setDie_ceLimit : (s.setDie k r).ceLimit = s.ceLimit := rfl
@[simp] theorem State.setDie_pwrCap : (s.setDie k r).pwrCap = s.pwrCap := rfl
@[simp] theorem State.setDie_pwrStat : (s.setDie k r).pwrStat = s.pwrStat := rfl
@[simp] theorem State.setDie_pwrGate : (s.setDie k r).pwrGate = s.pwrGate := rfl
@[simp] theorem State.setDie_pwrClk : (s.setDie k r).pwrClk = s.pwrClk := rfl
@[simp] theorem State.setDie_clkBase : (s.setDie k r).clkBase = s.clkBase := rfl
@[simp] theorem State.setDie_settled : (s.setDie k r).settled = s.settled := rfl
@[simp] theorem State.setDie_ticked : (s.setDie k r).ticked = s.ticked := rfl
@[simp] theorem State.setDie_msis : (s.setDie k r).msis = s.msis := rfl
@[simp] theorem State.setDie_imsic : (s.setDie k r).imsic = s.imsic := rfl
@[simp] theorem State.setDie_imsicEie : (s.setDie k r).imsicEie = s.imsicEie := rfl
@[simp] theorem State.setDie_imsicDel : (s.setDie k r).imsicDel = s.imsicDel := rfl
@[simp] theorem State.setDie_imsicThr : (s.setDie k r).imsicThr = s.imsicThr := rfl
@[simp] theorem State.setDie_pcieOut : (s.setDie k r).pcieOut = s.pcieOut := rfl
@[simp] theorem State.setDie_pcieReqs : (s.setDie k r).pcieReqs = s.pcieReqs := rfl
@[simp] theorem State.setDie_rootCfg : (s.setDie k r).rootCfg = s.rootCfg := rfl
@[simp] theorem State.setDie_regs : (s.setDie k r).regs = s.regs := rfl
end

section
variable (s : State) (k : Nat) (r : Core)
@[simp] theorem State.setCore_sched : (s.setCore k r).sched = s.sched := rfl
@[simp] theorem State.setCore_cur : (s.setCore k r).cur = s.cur := rfl
@[simp] theorem State.setCore_freeCtr : (s.setCore k r).freeCtr = s.freeCtr := rfl
@[simp] theorem State.setCore_nextId : (s.setCore k r).nextId = s.nextId := rfl
@[simp] theorem State.setCore_teams : (s.setCore k r).teams = s.teams := rfl
@[simp] theorem State.setCore_progs : (s.setCore k r).progs = s.progs := rfl
@[simp] theorem State.setCore_harts : (s.setCore k r).harts = s.harts := rfl
@[simp] theorem State.setCore_fwIrq : (s.setCore k r).fwIrq = s.fwIrq := rfl
@[simp] theorem State.setCore_controls : (s.setCore k r).controls = s.controls := rfl
@[simp] theorem State.setCore_units : (s.setCore k r).units = s.units := rfl
@[simp] theorem State.setCore_clusters : (s.setCore k r).clusters = s.clusters := rfl
@[simp] theorem State.setCore_dies : (s.setCore k r).dies = s.dies := rfl
@[simp] theorem State.setCore_links : (s.setCore k r).links = s.links := rfl
@[simp] theorem State.setCore_pendings : (s.setCore k r).pendings = s.pendings := rfl
@[simp] theorem State.setCore_gangAcc : (s.setCore k r).gangAcc = s.gangAcc := rfl
@[simp] theorem State.setCore_gangArr : (s.setCore k r).gangArr = s.gangArr := rfl
@[simp] theorem State.setCore_cmds : (s.setCore k r).cmds = s.cmds := rfl
@[simp] theorem State.setCore_reqs : (s.setCore k r).reqs = s.reqs := rfl
@[simp] theorem State.setCore_launches : (s.setCore k r).launches = s.launches := rfl
@[simp] theorem State.setCore_waitProgs : (s.setCore k r).waitProgs = s.waitProgs := rfl
@[simp] theorem State.setCore_copies : (s.setCore k r).copies = s.copies := rfl
@[simp] theorem State.setCore_graphs : (s.setCore k r).graphs = s.graphs := rfl
@[simp] theorem State.setCore_phases : (s.setCore k r).phases = s.phases := rfl
@[simp] theorem State.setCore_jobCtr : (s.setCore k r).jobCtr = s.jobCtr := rfl
@[simp] theorem State.setCore_slots : (s.setCore k r).slots = s.slots := rfl
@[simp] theorem State.setCore_injSaved : (s.setCore k r).injSaved = s.injSaved := rfl
@[simp] theorem State.setCore_cqs : (s.setCore k r).cqs = s.cqs := rfl
@[simp] theorem State.setCore_mem : (s.setCore k r).mem = s.mem := rfl
@[simp] theorem State.setCore_code : (s.setCore k r).code = s.code := rfl
@[simp] theorem State.setCore_now : (s.setCore k r).now = s.now := rfl
@[simp] theorem State.setCore_boot : (s.setCore k r).boot = s.boot := rfl
@[simp] theorem State.setCore_jobs : (s.setCore k r).jobs = s.jobs := rfl
@[simp] theorem State.setCore_extStaged : (s.setCore k r).extStaged = s.extStaged := rfl
@[simp] theorem State.setCore_extLive : (s.setCore k r).extLive = s.extLive := rfl
@[simp] theorem State.setCore_mrtStaged : (s.setCore k r).mrtStaged = s.mrtStaged := rfl
@[simp] theorem State.setCore_mrtLive : (s.setCore k r).mrtLive = s.mrtLive := rfl
@[simp] theorem State.setCore_extBusy : (s.setCore k r).extBusy = s.extBusy := rfl
@[simp] theorem State.setCore_cinv : (s.setCore k r).cinv = s.cinv := rfl
@[simp] theorem State.setCore_modSize : (s.setCore k r).modSize = s.modSize := rfl
@[simp] theorem State.setCore_modRevoked : (s.setCore k r).modRevoked = s.modRevoked := rfl
@[simp] theorem State.setCore_modDead : (s.setCore k r).modDead = s.modDead := rfl
@[simp] theorem State.setCore_signals : (s.setCore k r).signals = s.signals := rfl
@[simp] theorem State.setCore_waiters : (s.setCore k r).waiters = s.waiters := rfl
@[simp] theorem State.setCore_qkick : (s.setCore k r).qkick = s.qkick := rfl
@[simp] theorem State.setCore_kickPend : (s.setCore k r).kickPend = s.kickPend := rfl
@[simp] theorem State.setCore_event : (s.setCore k r).event = s.event := rfl
@[simp] theorem State.setCore_roles : (s.setCore k r).roles = s.roles := rfl
@[simp] theorem State.setCore_heldHarts : (s.setCore k r).heldHarts = s.heldHarts := rfl
@[simp] theorem State.setCore_mlog : (s.setCore k r).mlog = s.mlog := rfl
@[simp] theorem State.setCore_mlogCnt : (s.setCore k r).mlogCnt = s.mlogCnt := rfl
@[simp] theorem State.setCore_mlogOvf : (s.setCore k r).mlogOvf = s.mlogOvf := rfl
@[simp] theorem State.setCore_ownerDig : (s.setCore k r).ownerDig = s.ownerDig := rfl
@[simp] theorem State.setCore_cap : (s.setCore k r).cap = s.cap := rfl
@[simp] theorem State.setCore_irqBuf : (s.setCore k r).irqBuf = s.irqBuf := rfl
@[simp] theorem State.setCore_irqRing : (s.setCore k r).irqRing = s.irqRing := rfl
@[simp] theorem State.setCore_irqv : (s.setCore k r).irqv = s.irqv := rfl
@[simp] theorem State.setCore_errRing : (s.setCore k r).errRing = s.errRing := rfl
@[simp] theorem State.setCore_calls : (s.setCore k r).calls = s.calls := rfl
@[simp] theorem State.setCore_cmGen : (s.setCore k r).cmGen = s.cmGen := rfl
@[simp] theorem State.setCore_cmFence : (s.setCore k r).cmFence = s.cmFence := rfl
@[simp] theorem State.setCore_ceLimit : (s.setCore k r).ceLimit = s.ceLimit := rfl
@[simp] theorem State.setCore_pwrCap : (s.setCore k r).pwrCap = s.pwrCap := rfl
@[simp] theorem State.setCore_pwrStat : (s.setCore k r).pwrStat = s.pwrStat := rfl
@[simp] theorem State.setCore_pwrGate : (s.setCore k r).pwrGate = s.pwrGate := rfl
@[simp] theorem State.setCore_pwrClk : (s.setCore k r).pwrClk = s.pwrClk := rfl
@[simp] theorem State.setCore_clkBase : (s.setCore k r).clkBase = s.clkBase := rfl
@[simp] theorem State.setCore_settled : (s.setCore k r).settled = s.settled := rfl
@[simp] theorem State.setCore_ticked : (s.setCore k r).ticked = s.ticked := rfl
@[simp] theorem State.setCore_msis : (s.setCore k r).msis = s.msis := rfl
@[simp] theorem State.setCore_imsic : (s.setCore k r).imsic = s.imsic := rfl
@[simp] theorem State.setCore_imsicEie : (s.setCore k r).imsicEie = s.imsicEie := rfl
@[simp] theorem State.setCore_imsicDel : (s.setCore k r).imsicDel = s.imsicDel := rfl
@[simp] theorem State.setCore_imsicThr : (s.setCore k r).imsicThr = s.imsicThr := rfl
@[simp] theorem State.setCore_pcieOut : (s.setCore k r).pcieOut = s.pcieOut := rfl
@[simp] theorem State.setCore_pcieReqs : (s.setCore k r).pcieReqs = s.pcieReqs := rfl
@[simp] theorem State.setCore_rootCfg : (s.setCore k r).rootCfg = s.rootCfg := rfl
@[simp] theorem State.setCore_regs : (s.setCore k r).regs = s.regs := rfl
end

section
variable (s : State) (k : Nat) (r : Link)
@[simp] theorem State.setLink_sched : (s.setLink k r).sched = s.sched := rfl
@[simp] theorem State.setLink_cur : (s.setLink k r).cur = s.cur := rfl
@[simp] theorem State.setLink_freeCtr : (s.setLink k r).freeCtr = s.freeCtr := rfl
@[simp] theorem State.setLink_nextId : (s.setLink k r).nextId = s.nextId := rfl
@[simp] theorem State.setLink_teams : (s.setLink k r).teams = s.teams := rfl
@[simp] theorem State.setLink_progs : (s.setLink k r).progs = s.progs := rfl
@[simp] theorem State.setLink_harts : (s.setLink k r).harts = s.harts := rfl
@[simp] theorem State.setLink_fwIrq : (s.setLink k r).fwIrq = s.fwIrq := rfl
@[simp] theorem State.setLink_controls : (s.setLink k r).controls = s.controls := rfl
@[simp] theorem State.setLink_units : (s.setLink k r).units = s.units := rfl
@[simp] theorem State.setLink_clusters : (s.setLink k r).clusters = s.clusters := rfl
@[simp] theorem State.setLink_cores : (s.setLink k r).cores = s.cores := rfl
@[simp] theorem State.setLink_dies : (s.setLink k r).dies = s.dies := rfl
@[simp] theorem State.setLink_pendings : (s.setLink k r).pendings = s.pendings := rfl
@[simp] theorem State.setLink_gangAcc : (s.setLink k r).gangAcc = s.gangAcc := rfl
@[simp] theorem State.setLink_gangArr : (s.setLink k r).gangArr = s.gangArr := rfl
@[simp] theorem State.setLink_cmds : (s.setLink k r).cmds = s.cmds := rfl
@[simp] theorem State.setLink_reqs : (s.setLink k r).reqs = s.reqs := rfl
@[simp] theorem State.setLink_launches : (s.setLink k r).launches = s.launches := rfl
@[simp] theorem State.setLink_waitProgs : (s.setLink k r).waitProgs = s.waitProgs := rfl
@[simp] theorem State.setLink_copies : (s.setLink k r).copies = s.copies := rfl
@[simp] theorem State.setLink_graphs : (s.setLink k r).graphs = s.graphs := rfl
@[simp] theorem State.setLink_phases : (s.setLink k r).phases = s.phases := rfl
@[simp] theorem State.setLink_jobCtr : (s.setLink k r).jobCtr = s.jobCtr := rfl
@[simp] theorem State.setLink_slots : (s.setLink k r).slots = s.slots := rfl
@[simp] theorem State.setLink_injSaved : (s.setLink k r).injSaved = s.injSaved := rfl
@[simp] theorem State.setLink_cqs : (s.setLink k r).cqs = s.cqs := rfl
@[simp] theorem State.setLink_mem : (s.setLink k r).mem = s.mem := rfl
@[simp] theorem State.setLink_code : (s.setLink k r).code = s.code := rfl
@[simp] theorem State.setLink_now : (s.setLink k r).now = s.now := rfl
@[simp] theorem State.setLink_boot : (s.setLink k r).boot = s.boot := rfl
@[simp] theorem State.setLink_jobs : (s.setLink k r).jobs = s.jobs := rfl
@[simp] theorem State.setLink_extStaged : (s.setLink k r).extStaged = s.extStaged := rfl
@[simp] theorem State.setLink_extLive : (s.setLink k r).extLive = s.extLive := rfl
@[simp] theorem State.setLink_mrtStaged : (s.setLink k r).mrtStaged = s.mrtStaged := rfl
@[simp] theorem State.setLink_mrtLive : (s.setLink k r).mrtLive = s.mrtLive := rfl
@[simp] theorem State.setLink_extBusy : (s.setLink k r).extBusy = s.extBusy := rfl
@[simp] theorem State.setLink_cinv : (s.setLink k r).cinv = s.cinv := rfl
@[simp] theorem State.setLink_modSize : (s.setLink k r).modSize = s.modSize := rfl
@[simp] theorem State.setLink_modRevoked : (s.setLink k r).modRevoked = s.modRevoked := rfl
@[simp] theorem State.setLink_modDead : (s.setLink k r).modDead = s.modDead := rfl
@[simp] theorem State.setLink_signals : (s.setLink k r).signals = s.signals := rfl
@[simp] theorem State.setLink_waiters : (s.setLink k r).waiters = s.waiters := rfl
@[simp] theorem State.setLink_qkick : (s.setLink k r).qkick = s.qkick := rfl
@[simp] theorem State.setLink_kickPend : (s.setLink k r).kickPend = s.kickPend := rfl
@[simp] theorem State.setLink_event : (s.setLink k r).event = s.event := rfl
@[simp] theorem State.setLink_roles : (s.setLink k r).roles = s.roles := rfl
@[simp] theorem State.setLink_heldHarts : (s.setLink k r).heldHarts = s.heldHarts := rfl
@[simp] theorem State.setLink_mlog : (s.setLink k r).mlog = s.mlog := rfl
@[simp] theorem State.setLink_mlogCnt : (s.setLink k r).mlogCnt = s.mlogCnt := rfl
@[simp] theorem State.setLink_mlogOvf : (s.setLink k r).mlogOvf = s.mlogOvf := rfl
@[simp] theorem State.setLink_ownerDig : (s.setLink k r).ownerDig = s.ownerDig := rfl
@[simp] theorem State.setLink_cap : (s.setLink k r).cap = s.cap := rfl
@[simp] theorem State.setLink_irqBuf : (s.setLink k r).irqBuf = s.irqBuf := rfl
@[simp] theorem State.setLink_irqRing : (s.setLink k r).irqRing = s.irqRing := rfl
@[simp] theorem State.setLink_irqv : (s.setLink k r).irqv = s.irqv := rfl
@[simp] theorem State.setLink_errRing : (s.setLink k r).errRing = s.errRing := rfl
@[simp] theorem State.setLink_calls : (s.setLink k r).calls = s.calls := rfl
@[simp] theorem State.setLink_cmGen : (s.setLink k r).cmGen = s.cmGen := rfl
@[simp] theorem State.setLink_cmFence : (s.setLink k r).cmFence = s.cmFence := rfl
@[simp] theorem State.setLink_ceLimit : (s.setLink k r).ceLimit = s.ceLimit := rfl
@[simp] theorem State.setLink_pwrCap : (s.setLink k r).pwrCap = s.pwrCap := rfl
@[simp] theorem State.setLink_pwrStat : (s.setLink k r).pwrStat = s.pwrStat := rfl
@[simp] theorem State.setLink_pwrGate : (s.setLink k r).pwrGate = s.pwrGate := rfl
@[simp] theorem State.setLink_pwrClk : (s.setLink k r).pwrClk = s.pwrClk := rfl
@[simp] theorem State.setLink_clkBase : (s.setLink k r).clkBase = s.clkBase := rfl
@[simp] theorem State.setLink_settled : (s.setLink k r).settled = s.settled := rfl
@[simp] theorem State.setLink_ticked : (s.setLink k r).ticked = s.ticked := rfl
@[simp] theorem State.setLink_msis : (s.setLink k r).msis = s.msis := rfl
@[simp] theorem State.setLink_imsic : (s.setLink k r).imsic = s.imsic := rfl
@[simp] theorem State.setLink_imsicEie : (s.setLink k r).imsicEie = s.imsicEie := rfl
@[simp] theorem State.setLink_imsicDel : (s.setLink k r).imsicDel = s.imsicDel := rfl
@[simp] theorem State.setLink_imsicThr : (s.setLink k r).imsicThr = s.imsicThr := rfl
@[simp] theorem State.setLink_pcieOut : (s.setLink k r).pcieOut = s.pcieOut := rfl
@[simp] theorem State.setLink_pcieReqs : (s.setLink k r).pcieReqs = s.pcieReqs := rfl
@[simp] theorem State.setLink_rootCfg : (s.setLink k r).rootCfg = s.rootCfg := rfl
@[simp] theorem State.setLink_regs : (s.setLink k r).regs = s.regs := rfl
end

section
variable (s : State) (k : Nat) (r : Slot)
@[simp] theorem State.setSlot_sched : (s.setSlot k r).sched = s.sched := rfl
@[simp] theorem State.setSlot_cur : (s.setSlot k r).cur = s.cur := rfl
@[simp] theorem State.setSlot_freeCtr : (s.setSlot k r).freeCtr = s.freeCtr := rfl
@[simp] theorem State.setSlot_nextId : (s.setSlot k r).nextId = s.nextId := rfl
@[simp] theorem State.setSlot_teams : (s.setSlot k r).teams = s.teams := rfl
@[simp] theorem State.setSlot_progs : (s.setSlot k r).progs = s.progs := rfl
@[simp] theorem State.setSlot_harts : (s.setSlot k r).harts = s.harts := rfl
@[simp] theorem State.setSlot_fwIrq : (s.setSlot k r).fwIrq = s.fwIrq := rfl
@[simp] theorem State.setSlot_controls : (s.setSlot k r).controls = s.controls := rfl
@[simp] theorem State.setSlot_units : (s.setSlot k r).units = s.units := rfl
@[simp] theorem State.setSlot_clusters : (s.setSlot k r).clusters = s.clusters := rfl
@[simp] theorem State.setSlot_cores : (s.setSlot k r).cores = s.cores := rfl
@[simp] theorem State.setSlot_dies : (s.setSlot k r).dies = s.dies := rfl
@[simp] theorem State.setSlot_links : (s.setSlot k r).links = s.links := rfl
@[simp] theorem State.setSlot_pendings : (s.setSlot k r).pendings = s.pendings := rfl
@[simp] theorem State.setSlot_gangAcc : (s.setSlot k r).gangAcc = s.gangAcc := rfl
@[simp] theorem State.setSlot_gangArr : (s.setSlot k r).gangArr = s.gangArr := rfl
@[simp] theorem State.setSlot_cmds : (s.setSlot k r).cmds = s.cmds := rfl
@[simp] theorem State.setSlot_reqs : (s.setSlot k r).reqs = s.reqs := rfl
@[simp] theorem State.setSlot_launches : (s.setSlot k r).launches = s.launches := rfl
@[simp] theorem State.setSlot_waitProgs : (s.setSlot k r).waitProgs = s.waitProgs := rfl
@[simp] theorem State.setSlot_copies : (s.setSlot k r).copies = s.copies := rfl
@[simp] theorem State.setSlot_graphs : (s.setSlot k r).graphs = s.graphs := rfl
@[simp] theorem State.setSlot_phases : (s.setSlot k r).phases = s.phases := rfl
@[simp] theorem State.setSlot_jobCtr : (s.setSlot k r).jobCtr = s.jobCtr := rfl
@[simp] theorem State.setSlot_injSaved : (s.setSlot k r).injSaved = s.injSaved := rfl
@[simp] theorem State.setSlot_cqs : (s.setSlot k r).cqs = s.cqs := rfl
@[simp] theorem State.setSlot_mem : (s.setSlot k r).mem = s.mem := rfl
@[simp] theorem State.setSlot_code : (s.setSlot k r).code = s.code := rfl
@[simp] theorem State.setSlot_now : (s.setSlot k r).now = s.now := rfl
@[simp] theorem State.setSlot_boot : (s.setSlot k r).boot = s.boot := rfl
@[simp] theorem State.setSlot_jobs : (s.setSlot k r).jobs = s.jobs := rfl
@[simp] theorem State.setSlot_extStaged : (s.setSlot k r).extStaged = s.extStaged := rfl
@[simp] theorem State.setSlot_extLive : (s.setSlot k r).extLive = s.extLive := rfl
@[simp] theorem State.setSlot_mrtStaged : (s.setSlot k r).mrtStaged = s.mrtStaged := rfl
@[simp] theorem State.setSlot_mrtLive : (s.setSlot k r).mrtLive = s.mrtLive := rfl
@[simp] theorem State.setSlot_extBusy : (s.setSlot k r).extBusy = s.extBusy := rfl
@[simp] theorem State.setSlot_cinv : (s.setSlot k r).cinv = s.cinv := rfl
@[simp] theorem State.setSlot_modSize : (s.setSlot k r).modSize = s.modSize := rfl
@[simp] theorem State.setSlot_modRevoked : (s.setSlot k r).modRevoked = s.modRevoked := rfl
@[simp] theorem State.setSlot_modDead : (s.setSlot k r).modDead = s.modDead := rfl
@[simp] theorem State.setSlot_signals : (s.setSlot k r).signals = s.signals := rfl
@[simp] theorem State.setSlot_waiters : (s.setSlot k r).waiters = s.waiters := rfl
@[simp] theorem State.setSlot_qkick : (s.setSlot k r).qkick = s.qkick := rfl
@[simp] theorem State.setSlot_kickPend : (s.setSlot k r).kickPend = s.kickPend := rfl
@[simp] theorem State.setSlot_event : (s.setSlot k r).event = s.event := rfl
@[simp] theorem State.setSlot_roles : (s.setSlot k r).roles = s.roles := rfl
@[simp] theorem State.setSlot_heldHarts : (s.setSlot k r).heldHarts = s.heldHarts := rfl
@[simp] theorem State.setSlot_mlog : (s.setSlot k r).mlog = s.mlog := rfl
@[simp] theorem State.setSlot_mlogCnt : (s.setSlot k r).mlogCnt = s.mlogCnt := rfl
@[simp] theorem State.setSlot_mlogOvf : (s.setSlot k r).mlogOvf = s.mlogOvf := rfl
@[simp] theorem State.setSlot_ownerDig : (s.setSlot k r).ownerDig = s.ownerDig := rfl
@[simp] theorem State.setSlot_cap : (s.setSlot k r).cap = s.cap := rfl
@[simp] theorem State.setSlot_irqBuf : (s.setSlot k r).irqBuf = s.irqBuf := rfl
@[simp] theorem State.setSlot_irqRing : (s.setSlot k r).irqRing = s.irqRing := rfl
@[simp] theorem State.setSlot_irqv : (s.setSlot k r).irqv = s.irqv := rfl
@[simp] theorem State.setSlot_errRing : (s.setSlot k r).errRing = s.errRing := rfl
@[simp] theorem State.setSlot_calls : (s.setSlot k r).calls = s.calls := rfl
@[simp] theorem State.setSlot_cmGen : (s.setSlot k r).cmGen = s.cmGen := rfl
@[simp] theorem State.setSlot_cmFence : (s.setSlot k r).cmFence = s.cmFence := rfl
@[simp] theorem State.setSlot_ceLimit : (s.setSlot k r).ceLimit = s.ceLimit := rfl
@[simp] theorem State.setSlot_pwrCap : (s.setSlot k r).pwrCap = s.pwrCap := rfl
@[simp] theorem State.setSlot_pwrStat : (s.setSlot k r).pwrStat = s.pwrStat := rfl
@[simp] theorem State.setSlot_pwrGate : (s.setSlot k r).pwrGate = s.pwrGate := rfl
@[simp] theorem State.setSlot_pwrClk : (s.setSlot k r).pwrClk = s.pwrClk := rfl
@[simp] theorem State.setSlot_clkBase : (s.setSlot k r).clkBase = s.clkBase := rfl
@[simp] theorem State.setSlot_settled : (s.setSlot k r).settled = s.settled := rfl
@[simp] theorem State.setSlot_ticked : (s.setSlot k r).ticked = s.ticked := rfl
@[simp] theorem State.setSlot_msis : (s.setSlot k r).msis = s.msis := rfl
@[simp] theorem State.setSlot_imsic : (s.setSlot k r).imsic = s.imsic := rfl
@[simp] theorem State.setSlot_imsicEie : (s.setSlot k r).imsicEie = s.imsicEie := rfl
@[simp] theorem State.setSlot_imsicDel : (s.setSlot k r).imsicDel = s.imsicDel := rfl
@[simp] theorem State.setSlot_imsicThr : (s.setSlot k r).imsicThr = s.imsicThr := rfl
@[simp] theorem State.setSlot_pcieOut : (s.setSlot k r).pcieOut = s.pcieOut := rfl
@[simp] theorem State.setSlot_pcieReqs : (s.setSlot k r).pcieReqs = s.pcieReqs := rfl
@[simp] theorem State.setSlot_rootCfg : (s.setSlot k r).rootCfg = s.rootCfg := rfl
@[simp] theorem State.setSlot_regs : (s.setSlot k r).regs = s.regs := rfl
end

section
variable (s : State) (k : Nat) (r : Hart)
@[simp] theorem State.setHart_sched : (s.setHart k r).sched = s.sched := rfl
@[simp] theorem State.setHart_cur : (s.setHart k r).cur = s.cur := rfl
@[simp] theorem State.setHart_freeCtr : (s.setHart k r).freeCtr = s.freeCtr := rfl
@[simp] theorem State.setHart_nextId : (s.setHart k r).nextId = s.nextId := rfl
@[simp] theorem State.setHart_teams : (s.setHart k r).teams = s.teams := rfl
@[simp] theorem State.setHart_progs : (s.setHart k r).progs = s.progs := rfl
@[simp] theorem State.setHart_fwIrq : (s.setHart k r).fwIrq = s.fwIrq := rfl
@[simp] theorem State.setHart_controls : (s.setHart k r).controls = s.controls := rfl
@[simp] theorem State.setHart_units : (s.setHart k r).units = s.units := rfl
@[simp] theorem State.setHart_clusters : (s.setHart k r).clusters = s.clusters := rfl
@[simp] theorem State.setHart_cores : (s.setHart k r).cores = s.cores := rfl
@[simp] theorem State.setHart_dies : (s.setHart k r).dies = s.dies := rfl
@[simp] theorem State.setHart_links : (s.setHart k r).links = s.links := rfl
@[simp] theorem State.setHart_pendings : (s.setHart k r).pendings = s.pendings := rfl
@[simp] theorem State.setHart_gangAcc : (s.setHart k r).gangAcc = s.gangAcc := rfl
@[simp] theorem State.setHart_gangArr : (s.setHart k r).gangArr = s.gangArr := rfl
@[simp] theorem State.setHart_cmds : (s.setHart k r).cmds = s.cmds := rfl
@[simp] theorem State.setHart_reqs : (s.setHart k r).reqs = s.reqs := rfl
@[simp] theorem State.setHart_launches : (s.setHart k r).launches = s.launches := rfl
@[simp] theorem State.setHart_waitProgs : (s.setHart k r).waitProgs = s.waitProgs := rfl
@[simp] theorem State.setHart_copies : (s.setHart k r).copies = s.copies := rfl
@[simp] theorem State.setHart_graphs : (s.setHart k r).graphs = s.graphs := rfl
@[simp] theorem State.setHart_phases : (s.setHart k r).phases = s.phases := rfl
@[simp] theorem State.setHart_jobCtr : (s.setHart k r).jobCtr = s.jobCtr := rfl
@[simp] theorem State.setHart_slots : (s.setHart k r).slots = s.slots := rfl
@[simp] theorem State.setHart_injSaved : (s.setHart k r).injSaved = s.injSaved := rfl
@[simp] theorem State.setHart_cqs : (s.setHart k r).cqs = s.cqs := rfl
@[simp] theorem State.setHart_mem : (s.setHart k r).mem = s.mem := rfl
@[simp] theorem State.setHart_code : (s.setHart k r).code = s.code := rfl
@[simp] theorem State.setHart_now : (s.setHart k r).now = s.now := rfl
@[simp] theorem State.setHart_boot : (s.setHart k r).boot = s.boot := rfl
@[simp] theorem State.setHart_jobs : (s.setHart k r).jobs = s.jobs := rfl
@[simp] theorem State.setHart_extStaged : (s.setHart k r).extStaged = s.extStaged := rfl
@[simp] theorem State.setHart_extLive : (s.setHart k r).extLive = s.extLive := rfl
@[simp] theorem State.setHart_mrtStaged : (s.setHart k r).mrtStaged = s.mrtStaged := rfl
@[simp] theorem State.setHart_mrtLive : (s.setHart k r).mrtLive = s.mrtLive := rfl
@[simp] theorem State.setHart_extBusy : (s.setHart k r).extBusy = s.extBusy := rfl
@[simp] theorem State.setHart_cinv : (s.setHart k r).cinv = s.cinv := rfl
@[simp] theorem State.setHart_modSize : (s.setHart k r).modSize = s.modSize := rfl
@[simp] theorem State.setHart_modRevoked : (s.setHart k r).modRevoked = s.modRevoked := rfl
@[simp] theorem State.setHart_modDead : (s.setHart k r).modDead = s.modDead := rfl
@[simp] theorem State.setHart_signals : (s.setHart k r).signals = s.signals := rfl
@[simp] theorem State.setHart_waiters : (s.setHart k r).waiters = s.waiters := rfl
@[simp] theorem State.setHart_qkick : (s.setHart k r).qkick = s.qkick := rfl
@[simp] theorem State.setHart_kickPend : (s.setHart k r).kickPend = s.kickPend := rfl
@[simp] theorem State.setHart_event : (s.setHart k r).event = s.event := rfl
@[simp] theorem State.setHart_roles : (s.setHart k r).roles = s.roles := rfl
@[simp] theorem State.setHart_heldHarts : (s.setHart k r).heldHarts = s.heldHarts := rfl
@[simp] theorem State.setHart_mlog : (s.setHart k r).mlog = s.mlog := rfl
@[simp] theorem State.setHart_mlogCnt : (s.setHart k r).mlogCnt = s.mlogCnt := rfl
@[simp] theorem State.setHart_mlogOvf : (s.setHart k r).mlogOvf = s.mlogOvf := rfl
@[simp] theorem State.setHart_ownerDig : (s.setHart k r).ownerDig = s.ownerDig := rfl
@[simp] theorem State.setHart_cap : (s.setHart k r).cap = s.cap := rfl
@[simp] theorem State.setHart_irqBuf : (s.setHart k r).irqBuf = s.irqBuf := rfl
@[simp] theorem State.setHart_irqRing : (s.setHart k r).irqRing = s.irqRing := rfl
@[simp] theorem State.setHart_irqv : (s.setHart k r).irqv = s.irqv := rfl
@[simp] theorem State.setHart_errRing : (s.setHart k r).errRing = s.errRing := rfl
@[simp] theorem State.setHart_calls : (s.setHart k r).calls = s.calls := rfl
@[simp] theorem State.setHart_cmGen : (s.setHart k r).cmGen = s.cmGen := rfl
@[simp] theorem State.setHart_cmFence : (s.setHart k r).cmFence = s.cmFence := rfl
@[simp] theorem State.setHart_ceLimit : (s.setHart k r).ceLimit = s.ceLimit := rfl
@[simp] theorem State.setHart_pwrCap : (s.setHart k r).pwrCap = s.pwrCap := rfl
@[simp] theorem State.setHart_pwrStat : (s.setHart k r).pwrStat = s.pwrStat := rfl
@[simp] theorem State.setHart_pwrGate : (s.setHart k r).pwrGate = s.pwrGate := rfl
@[simp] theorem State.setHart_pwrClk : (s.setHart k r).pwrClk = s.pwrClk := rfl
@[simp] theorem State.setHart_clkBase : (s.setHart k r).clkBase = s.clkBase := rfl
@[simp] theorem State.setHart_settled : (s.setHart k r).settled = s.settled := rfl
@[simp] theorem State.setHart_ticked : (s.setHart k r).ticked = s.ticked := rfl
@[simp] theorem State.setHart_msis : (s.setHart k r).msis = s.msis := rfl
@[simp] theorem State.setHart_imsic : (s.setHart k r).imsic = s.imsic := rfl
@[simp] theorem State.setHart_imsicEie : (s.setHart k r).imsicEie = s.imsicEie := rfl
@[simp] theorem State.setHart_imsicDel : (s.setHart k r).imsicDel = s.imsicDel := rfl
@[simp] theorem State.setHart_imsicThr : (s.setHart k r).imsicThr = s.imsicThr := rfl
@[simp] theorem State.setHart_pcieOut : (s.setHart k r).pcieOut = s.pcieOut := rfl
@[simp] theorem State.setHart_pcieReqs : (s.setHart k r).pcieReqs = s.pcieReqs := rfl
@[simp] theorem State.setHart_rootCfg : (s.setHart k r).rootCfg = s.rootCfg := rfl
@[simp] theorem State.setHart_regs : (s.setHart k r).regs = s.regs := rfl
end

section
variable (s : State) (k : Nat) (r : Job)
@[simp] theorem State.setJob_sched : (s.setJob k r).sched = s.sched := rfl
@[simp] theorem State.setJob_cur : (s.setJob k r).cur = s.cur := rfl
@[simp] theorem State.setJob_freeCtr : (s.setJob k r).freeCtr = s.freeCtr := rfl
@[simp] theorem State.setJob_nextId : (s.setJob k r).nextId = s.nextId := rfl
@[simp] theorem State.setJob_teams : (s.setJob k r).teams = s.teams := rfl
@[simp] theorem State.setJob_progs : (s.setJob k r).progs = s.progs := rfl
@[simp] theorem State.setJob_harts : (s.setJob k r).harts = s.harts := rfl
@[simp] theorem State.setJob_fwIrq : (s.setJob k r).fwIrq = s.fwIrq := rfl
@[simp] theorem State.setJob_controls : (s.setJob k r).controls = s.controls := rfl
@[simp] theorem State.setJob_units : (s.setJob k r).units = s.units := rfl
@[simp] theorem State.setJob_clusters : (s.setJob k r).clusters = s.clusters := rfl
@[simp] theorem State.setJob_cores : (s.setJob k r).cores = s.cores := rfl
@[simp] theorem State.setJob_dies : (s.setJob k r).dies = s.dies := rfl
@[simp] theorem State.setJob_links : (s.setJob k r).links = s.links := rfl
@[simp] theorem State.setJob_pendings : (s.setJob k r).pendings = s.pendings := rfl
@[simp] theorem State.setJob_gangAcc : (s.setJob k r).gangAcc = s.gangAcc := rfl
@[simp] theorem State.setJob_gangArr : (s.setJob k r).gangArr = s.gangArr := rfl
@[simp] theorem State.setJob_cmds : (s.setJob k r).cmds = s.cmds := rfl
@[simp] theorem State.setJob_reqs : (s.setJob k r).reqs = s.reqs := rfl
@[simp] theorem State.setJob_launches : (s.setJob k r).launches = s.launches := rfl
@[simp] theorem State.setJob_waitProgs : (s.setJob k r).waitProgs = s.waitProgs := rfl
@[simp] theorem State.setJob_copies : (s.setJob k r).copies = s.copies := rfl
@[simp] theorem State.setJob_graphs : (s.setJob k r).graphs = s.graphs := rfl
@[simp] theorem State.setJob_phases : (s.setJob k r).phases = s.phases := rfl
@[simp] theorem State.setJob_jobCtr : (s.setJob k r).jobCtr = s.jobCtr := rfl
@[simp] theorem State.setJob_slots : (s.setJob k r).slots = s.slots := rfl
@[simp] theorem State.setJob_injSaved : (s.setJob k r).injSaved = s.injSaved := rfl
@[simp] theorem State.setJob_cqs : (s.setJob k r).cqs = s.cqs := rfl
@[simp] theorem State.setJob_mem : (s.setJob k r).mem = s.mem := rfl
@[simp] theorem State.setJob_code : (s.setJob k r).code = s.code := rfl
@[simp] theorem State.setJob_now : (s.setJob k r).now = s.now := rfl
@[simp] theorem State.setJob_boot : (s.setJob k r).boot = s.boot := rfl
@[simp] theorem State.setJob_extStaged : (s.setJob k r).extStaged = s.extStaged := rfl
@[simp] theorem State.setJob_extLive : (s.setJob k r).extLive = s.extLive := rfl
@[simp] theorem State.setJob_mrtStaged : (s.setJob k r).mrtStaged = s.mrtStaged := rfl
@[simp] theorem State.setJob_mrtLive : (s.setJob k r).mrtLive = s.mrtLive := rfl
@[simp] theorem State.setJob_extBusy : (s.setJob k r).extBusy = s.extBusy := rfl
@[simp] theorem State.setJob_cinv : (s.setJob k r).cinv = s.cinv := rfl
@[simp] theorem State.setJob_modSize : (s.setJob k r).modSize = s.modSize := rfl
@[simp] theorem State.setJob_modRevoked : (s.setJob k r).modRevoked = s.modRevoked := rfl
@[simp] theorem State.setJob_modDead : (s.setJob k r).modDead = s.modDead := rfl
@[simp] theorem State.setJob_signals : (s.setJob k r).signals = s.signals := rfl
@[simp] theorem State.setJob_waiters : (s.setJob k r).waiters = s.waiters := rfl
@[simp] theorem State.setJob_qkick : (s.setJob k r).qkick = s.qkick := rfl
@[simp] theorem State.setJob_kickPend : (s.setJob k r).kickPend = s.kickPend := rfl
@[simp] theorem State.setJob_event : (s.setJob k r).event = s.event := rfl
@[simp] theorem State.setJob_roles : (s.setJob k r).roles = s.roles := rfl
@[simp] theorem State.setJob_heldHarts : (s.setJob k r).heldHarts = s.heldHarts := rfl
@[simp] theorem State.setJob_mlog : (s.setJob k r).mlog = s.mlog := rfl
@[simp] theorem State.setJob_mlogCnt : (s.setJob k r).mlogCnt = s.mlogCnt := rfl
@[simp] theorem State.setJob_mlogOvf : (s.setJob k r).mlogOvf = s.mlogOvf := rfl
@[simp] theorem State.setJob_ownerDig : (s.setJob k r).ownerDig = s.ownerDig := rfl
@[simp] theorem State.setJob_cap : (s.setJob k r).cap = s.cap := rfl
@[simp] theorem State.setJob_irqBuf : (s.setJob k r).irqBuf = s.irqBuf := rfl
@[simp] theorem State.setJob_irqRing : (s.setJob k r).irqRing = s.irqRing := rfl
@[simp] theorem State.setJob_irqv : (s.setJob k r).irqv = s.irqv := rfl
@[simp] theorem State.setJob_errRing : (s.setJob k r).errRing = s.errRing := rfl
@[simp] theorem State.setJob_calls : (s.setJob k r).calls = s.calls := rfl
@[simp] theorem State.setJob_cmGen : (s.setJob k r).cmGen = s.cmGen := rfl
@[simp] theorem State.setJob_cmFence : (s.setJob k r).cmFence = s.cmFence := rfl
@[simp] theorem State.setJob_ceLimit : (s.setJob k r).ceLimit = s.ceLimit := rfl
@[simp] theorem State.setJob_pwrCap : (s.setJob k r).pwrCap = s.pwrCap := rfl
@[simp] theorem State.setJob_pwrStat : (s.setJob k r).pwrStat = s.pwrStat := rfl
@[simp] theorem State.setJob_pwrGate : (s.setJob k r).pwrGate = s.pwrGate := rfl
@[simp] theorem State.setJob_pwrClk : (s.setJob k r).pwrClk = s.pwrClk := rfl
@[simp] theorem State.setJob_clkBase : (s.setJob k r).clkBase = s.clkBase := rfl
@[simp] theorem State.setJob_settled : (s.setJob k r).settled = s.settled := rfl
@[simp] theorem State.setJob_ticked : (s.setJob k r).ticked = s.ticked := rfl
@[simp] theorem State.setJob_msis : (s.setJob k r).msis = s.msis := rfl
@[simp] theorem State.setJob_imsic : (s.setJob k r).imsic = s.imsic := rfl
@[simp] theorem State.setJob_imsicEie : (s.setJob k r).imsicEie = s.imsicEie := rfl
@[simp] theorem State.setJob_imsicDel : (s.setJob k r).imsicDel = s.imsicDel := rfl
@[simp] theorem State.setJob_imsicThr : (s.setJob k r).imsicThr = s.imsicThr := rfl
@[simp] theorem State.setJob_pcieOut : (s.setJob k r).pcieOut = s.pcieOut := rfl
@[simp] theorem State.setJob_pcieReqs : (s.setJob k r).pcieReqs = s.pcieReqs := rfl
@[simp] theorem State.setJob_rootCfg : (s.setJob k r).rootCfg = s.rootCfg := rfl
@[simp] theorem State.setJob_regs : (s.setJob k r).regs = s.regs := rfl
end

section
variable (s : State) (k : Nat) (r : Role)
@[simp] theorem State.setRole_sched : (s.setRole k r).sched = s.sched := rfl
@[simp] theorem State.setRole_cur : (s.setRole k r).cur = s.cur := rfl
@[simp] theorem State.setRole_freeCtr : (s.setRole k r).freeCtr = s.freeCtr := rfl
@[simp] theorem State.setRole_nextId : (s.setRole k r).nextId = s.nextId := rfl
@[simp] theorem State.setRole_teams : (s.setRole k r).teams = s.teams := rfl
@[simp] theorem State.setRole_progs : (s.setRole k r).progs = s.progs := rfl
@[simp] theorem State.setRole_harts : (s.setRole k r).harts = s.harts := rfl
@[simp] theorem State.setRole_fwIrq : (s.setRole k r).fwIrq = s.fwIrq := rfl
@[simp] theorem State.setRole_controls : (s.setRole k r).controls = s.controls := rfl
@[simp] theorem State.setRole_units : (s.setRole k r).units = s.units := rfl
@[simp] theorem State.setRole_clusters : (s.setRole k r).clusters = s.clusters := rfl
@[simp] theorem State.setRole_cores : (s.setRole k r).cores = s.cores := rfl
@[simp] theorem State.setRole_dies : (s.setRole k r).dies = s.dies := rfl
@[simp] theorem State.setRole_links : (s.setRole k r).links = s.links := rfl
@[simp] theorem State.setRole_pendings : (s.setRole k r).pendings = s.pendings := rfl
@[simp] theorem State.setRole_gangAcc : (s.setRole k r).gangAcc = s.gangAcc := rfl
@[simp] theorem State.setRole_gangArr : (s.setRole k r).gangArr = s.gangArr := rfl
@[simp] theorem State.setRole_cmds : (s.setRole k r).cmds = s.cmds := rfl
@[simp] theorem State.setRole_reqs : (s.setRole k r).reqs = s.reqs := rfl
@[simp] theorem State.setRole_launches : (s.setRole k r).launches = s.launches := rfl
@[simp] theorem State.setRole_waitProgs : (s.setRole k r).waitProgs = s.waitProgs := rfl
@[simp] theorem State.setRole_copies : (s.setRole k r).copies = s.copies := rfl
@[simp] theorem State.setRole_graphs : (s.setRole k r).graphs = s.graphs := rfl
@[simp] theorem State.setRole_phases : (s.setRole k r).phases = s.phases := rfl
@[simp] theorem State.setRole_jobCtr : (s.setRole k r).jobCtr = s.jobCtr := rfl
@[simp] theorem State.setRole_slots : (s.setRole k r).slots = s.slots := rfl
@[simp] theorem State.setRole_injSaved : (s.setRole k r).injSaved = s.injSaved := rfl
@[simp] theorem State.setRole_cqs : (s.setRole k r).cqs = s.cqs := rfl
@[simp] theorem State.setRole_mem : (s.setRole k r).mem = s.mem := rfl
@[simp] theorem State.setRole_code : (s.setRole k r).code = s.code := rfl
@[simp] theorem State.setRole_now : (s.setRole k r).now = s.now := rfl
@[simp] theorem State.setRole_boot : (s.setRole k r).boot = s.boot := rfl
@[simp] theorem State.setRole_jobs : (s.setRole k r).jobs = s.jobs := rfl
@[simp] theorem State.setRole_extStaged : (s.setRole k r).extStaged = s.extStaged := rfl
@[simp] theorem State.setRole_extLive : (s.setRole k r).extLive = s.extLive := rfl
@[simp] theorem State.setRole_mrtStaged : (s.setRole k r).mrtStaged = s.mrtStaged := rfl
@[simp] theorem State.setRole_mrtLive : (s.setRole k r).mrtLive = s.mrtLive := rfl
@[simp] theorem State.setRole_extBusy : (s.setRole k r).extBusy = s.extBusy := rfl
@[simp] theorem State.setRole_cinv : (s.setRole k r).cinv = s.cinv := rfl
@[simp] theorem State.setRole_modSize : (s.setRole k r).modSize = s.modSize := rfl
@[simp] theorem State.setRole_modRevoked : (s.setRole k r).modRevoked = s.modRevoked := rfl
@[simp] theorem State.setRole_modDead : (s.setRole k r).modDead = s.modDead := rfl
@[simp] theorem State.setRole_signals : (s.setRole k r).signals = s.signals := rfl
@[simp] theorem State.setRole_waiters : (s.setRole k r).waiters = s.waiters := rfl
@[simp] theorem State.setRole_qkick : (s.setRole k r).qkick = s.qkick := rfl
@[simp] theorem State.setRole_kickPend : (s.setRole k r).kickPend = s.kickPend := rfl
@[simp] theorem State.setRole_event : (s.setRole k r).event = s.event := rfl
@[simp] theorem State.setRole_heldHarts : (s.setRole k r).heldHarts = s.heldHarts := rfl
@[simp] theorem State.setRole_mlog : (s.setRole k r).mlog = s.mlog := rfl
@[simp] theorem State.setRole_mlogCnt : (s.setRole k r).mlogCnt = s.mlogCnt := rfl
@[simp] theorem State.setRole_mlogOvf : (s.setRole k r).mlogOvf = s.mlogOvf := rfl
@[simp] theorem State.setRole_ownerDig : (s.setRole k r).ownerDig = s.ownerDig := rfl
@[simp] theorem State.setRole_cap : (s.setRole k r).cap = s.cap := rfl
@[simp] theorem State.setRole_irqBuf : (s.setRole k r).irqBuf = s.irqBuf := rfl
@[simp] theorem State.setRole_irqRing : (s.setRole k r).irqRing = s.irqRing := rfl
@[simp] theorem State.setRole_irqv : (s.setRole k r).irqv = s.irqv := rfl
@[simp] theorem State.setRole_errRing : (s.setRole k r).errRing = s.errRing := rfl
@[simp] theorem State.setRole_calls : (s.setRole k r).calls = s.calls := rfl
@[simp] theorem State.setRole_cmGen : (s.setRole k r).cmGen = s.cmGen := rfl
@[simp] theorem State.setRole_cmFence : (s.setRole k r).cmFence = s.cmFence := rfl
@[simp] theorem State.setRole_ceLimit : (s.setRole k r).ceLimit = s.ceLimit := rfl
@[simp] theorem State.setRole_pwrCap : (s.setRole k r).pwrCap = s.pwrCap := rfl
@[simp] theorem State.setRole_pwrStat : (s.setRole k r).pwrStat = s.pwrStat := rfl
@[simp] theorem State.setRole_pwrGate : (s.setRole k r).pwrGate = s.pwrGate := rfl
@[simp] theorem State.setRole_pwrClk : (s.setRole k r).pwrClk = s.pwrClk := rfl
@[simp] theorem State.setRole_clkBase : (s.setRole k r).clkBase = s.clkBase := rfl
@[simp] theorem State.setRole_settled : (s.setRole k r).settled = s.settled := rfl
@[simp] theorem State.setRole_ticked : (s.setRole k r).ticked = s.ticked := rfl
@[simp] theorem State.setRole_msis : (s.setRole k r).msis = s.msis := rfl
@[simp] theorem State.setRole_imsic : (s.setRole k r).imsic = s.imsic := rfl
@[simp] theorem State.setRole_imsicEie : (s.setRole k r).imsicEie = s.imsicEie := rfl
@[simp] theorem State.setRole_imsicDel : (s.setRole k r).imsicDel = s.imsicDel := rfl
@[simp] theorem State.setRole_imsicThr : (s.setRole k r).imsicThr = s.imsicThr := rfl
@[simp] theorem State.setRole_pcieOut : (s.setRole k r).pcieOut = s.pcieOut := rfl
@[simp] theorem State.setRole_pcieReqs : (s.setRole k r).pcieReqs = s.pcieReqs := rfl
@[simp] theorem State.setRole_rootCfg : (s.setRole k r).rootCfg = s.rootCfg := rfl
@[simp] theorem State.setRole_regs : (s.setRole k r).regs = s.regs := rfl
end

section
variable (s : State) (k : Nat) (r : Control)
@[simp] theorem State.setControl_sched : (s.setControl k r).sched = s.sched := rfl
@[simp] theorem State.setControl_cur : (s.setControl k r).cur = s.cur := rfl
@[simp] theorem State.setControl_freeCtr : (s.setControl k r).freeCtr = s.freeCtr := rfl
@[simp] theorem State.setControl_nextId : (s.setControl k r).nextId = s.nextId := rfl
@[simp] theorem State.setControl_teams : (s.setControl k r).teams = s.teams := rfl
@[simp] theorem State.setControl_progs : (s.setControl k r).progs = s.progs := rfl
@[simp] theorem State.setControl_harts : (s.setControl k r).harts = s.harts := rfl
@[simp] theorem State.setControl_fwIrq : (s.setControl k r).fwIrq = s.fwIrq := rfl
@[simp] theorem State.setControl_units : (s.setControl k r).units = s.units := rfl
@[simp] theorem State.setControl_clusters : (s.setControl k r).clusters = s.clusters := rfl
@[simp] theorem State.setControl_cores : (s.setControl k r).cores = s.cores := rfl
@[simp] theorem State.setControl_dies : (s.setControl k r).dies = s.dies := rfl
@[simp] theorem State.setControl_links : (s.setControl k r).links = s.links := rfl
@[simp] theorem State.setControl_pendings : (s.setControl k r).pendings = s.pendings := rfl
@[simp] theorem State.setControl_gangAcc : (s.setControl k r).gangAcc = s.gangAcc := rfl
@[simp] theorem State.setControl_gangArr : (s.setControl k r).gangArr = s.gangArr := rfl
@[simp] theorem State.setControl_cmds : (s.setControl k r).cmds = s.cmds := rfl
@[simp] theorem State.setControl_reqs : (s.setControl k r).reqs = s.reqs := rfl
@[simp] theorem State.setControl_launches : (s.setControl k r).launches = s.launches := rfl
@[simp] theorem State.setControl_waitProgs : (s.setControl k r).waitProgs = s.waitProgs := rfl
@[simp] theorem State.setControl_copies : (s.setControl k r).copies = s.copies := rfl
@[simp] theorem State.setControl_graphs : (s.setControl k r).graphs = s.graphs := rfl
@[simp] theorem State.setControl_phases : (s.setControl k r).phases = s.phases := rfl
@[simp] theorem State.setControl_jobCtr : (s.setControl k r).jobCtr = s.jobCtr := rfl
@[simp] theorem State.setControl_slots : (s.setControl k r).slots = s.slots := rfl
@[simp] theorem State.setControl_injSaved : (s.setControl k r).injSaved = s.injSaved := rfl
@[simp] theorem State.setControl_cqs : (s.setControl k r).cqs = s.cqs := rfl
@[simp] theorem State.setControl_mem : (s.setControl k r).mem = s.mem := rfl
@[simp] theorem State.setControl_code : (s.setControl k r).code = s.code := rfl
@[simp] theorem State.setControl_now : (s.setControl k r).now = s.now := rfl
@[simp] theorem State.setControl_boot : (s.setControl k r).boot = s.boot := rfl
@[simp] theorem State.setControl_jobs : (s.setControl k r).jobs = s.jobs := rfl
@[simp] theorem State.setControl_extStaged : (s.setControl k r).extStaged = s.extStaged := rfl
@[simp] theorem State.setControl_extLive : (s.setControl k r).extLive = s.extLive := rfl
@[simp] theorem State.setControl_mrtStaged : (s.setControl k r).mrtStaged = s.mrtStaged := rfl
@[simp] theorem State.setControl_mrtLive : (s.setControl k r).mrtLive = s.mrtLive := rfl
@[simp] theorem State.setControl_extBusy : (s.setControl k r).extBusy = s.extBusy := rfl
@[simp] theorem State.setControl_cinv : (s.setControl k r).cinv = s.cinv := rfl
@[simp] theorem State.setControl_modSize : (s.setControl k r).modSize = s.modSize := rfl
@[simp] theorem State.setControl_modRevoked : (s.setControl k r).modRevoked = s.modRevoked := rfl
@[simp] theorem State.setControl_modDead : (s.setControl k r).modDead = s.modDead := rfl
@[simp] theorem State.setControl_signals : (s.setControl k r).signals = s.signals := rfl
@[simp] theorem State.setControl_waiters : (s.setControl k r).waiters = s.waiters := rfl
@[simp] theorem State.setControl_qkick : (s.setControl k r).qkick = s.qkick := rfl
@[simp] theorem State.setControl_kickPend : (s.setControl k r).kickPend = s.kickPend := rfl
@[simp] theorem State.setControl_event : (s.setControl k r).event = s.event := rfl
@[simp] theorem State.setControl_roles : (s.setControl k r).roles = s.roles := rfl
@[simp] theorem State.setControl_heldHarts : (s.setControl k r).heldHarts = s.heldHarts := rfl
@[simp] theorem State.setControl_mlog : (s.setControl k r).mlog = s.mlog := rfl
@[simp] theorem State.setControl_mlogCnt : (s.setControl k r).mlogCnt = s.mlogCnt := rfl
@[simp] theorem State.setControl_mlogOvf : (s.setControl k r).mlogOvf = s.mlogOvf := rfl
@[simp] theorem State.setControl_ownerDig : (s.setControl k r).ownerDig = s.ownerDig := rfl
@[simp] theorem State.setControl_cap : (s.setControl k r).cap = s.cap := rfl
@[simp] theorem State.setControl_irqBuf : (s.setControl k r).irqBuf = s.irqBuf := rfl
@[simp] theorem State.setControl_irqRing : (s.setControl k r).irqRing = s.irqRing := rfl
@[simp] theorem State.setControl_irqv : (s.setControl k r).irqv = s.irqv := rfl
@[simp] theorem State.setControl_errRing : (s.setControl k r).errRing = s.errRing := rfl
@[simp] theorem State.setControl_calls : (s.setControl k r).calls = s.calls := rfl
@[simp] theorem State.setControl_cmGen : (s.setControl k r).cmGen = s.cmGen := rfl
@[simp] theorem State.setControl_cmFence : (s.setControl k r).cmFence = s.cmFence := rfl
@[simp] theorem State.setControl_ceLimit : (s.setControl k r).ceLimit = s.ceLimit := rfl
@[simp] theorem State.setControl_pwrCap : (s.setControl k r).pwrCap = s.pwrCap := rfl
@[simp] theorem State.setControl_pwrStat : (s.setControl k r).pwrStat = s.pwrStat := rfl
@[simp] theorem State.setControl_pwrGate : (s.setControl k r).pwrGate = s.pwrGate := rfl
@[simp] theorem State.setControl_pwrClk : (s.setControl k r).pwrClk = s.pwrClk := rfl
@[simp] theorem State.setControl_clkBase : (s.setControl k r).clkBase = s.clkBase := rfl
@[simp] theorem State.setControl_settled : (s.setControl k r).settled = s.settled := rfl
@[simp] theorem State.setControl_ticked : (s.setControl k r).ticked = s.ticked := rfl
@[simp] theorem State.setControl_msis : (s.setControl k r).msis = s.msis := rfl
@[simp] theorem State.setControl_imsic : (s.setControl k r).imsic = s.imsic := rfl
@[simp] theorem State.setControl_imsicEie : (s.setControl k r).imsicEie = s.imsicEie := rfl
@[simp] theorem State.setControl_imsicDel : (s.setControl k r).imsicDel = s.imsicDel := rfl
@[simp] theorem State.setControl_imsicThr : (s.setControl k r).imsicThr = s.imsicThr := rfl
@[simp] theorem State.setControl_pcieOut : (s.setControl k r).pcieOut = s.pcieOut := rfl
@[simp] theorem State.setControl_pcieReqs : (s.setControl k r).pcieReqs = s.pcieReqs := rfl
@[simp] theorem State.setControl_rootCfg : (s.setControl k r).rootCfg = s.rootCfg := rfl
@[simp] theorem State.setControl_regs : (s.setControl k r).regs = s.regs := rfl
end

section
variable (s : State) (c k : Nat) (t : Team)
@[simp] theorem State.setTeam_sched : (s.setTeam c k t).sched = s.sched := by
  unfold State.setTeam; split <;> (try split) <;> rfl
@[simp] theorem State.setTeam_cur : (s.setTeam c k t).cur = s.cur := by
  unfold State.setTeam; split <;> (try split) <;> rfl
@[simp] theorem State.setTeam_freeCtr : (s.setTeam c k t).freeCtr = s.freeCtr := by
  unfold State.setTeam; split <;> (try split) <;> rfl
@[simp] theorem State.setTeam_nextId : (s.setTeam c k t).nextId = s.nextId := by
  unfold State.setTeam; split <;> (try split) <;> rfl
@[simp] theorem State.setTeam_progs : (s.setTeam c k t).progs = s.progs := by
  unfold State.setTeam; split <;> (try split) <;> rfl
@[simp] theorem State.setTeam_harts : (s.setTeam c k t).harts = s.harts := by
  unfold State.setTeam; split <;> (try split) <;> rfl
@[simp] theorem State.setTeam_fwIrq : (s.setTeam c k t).fwIrq = s.fwIrq := by
  unfold State.setTeam; split <;> (try split) <;> rfl
@[simp] theorem State.setTeam_controls : (s.setTeam c k t).controls = s.controls := by
  unfold State.setTeam; split <;> (try split) <;> rfl
@[simp] theorem State.setTeam_clusters : (s.setTeam c k t).clusters = s.clusters := by
  unfold State.setTeam; split <;> (try split) <;> rfl
@[simp] theorem State.setTeam_cores : (s.setTeam c k t).cores = s.cores := by
  unfold State.setTeam; split <;> (try split) <;> rfl
@[simp] theorem State.setTeam_dies : (s.setTeam c k t).dies = s.dies := by
  unfold State.setTeam; split <;> (try split) <;> rfl
@[simp] theorem State.setTeam_links : (s.setTeam c k t).links = s.links := by
  unfold State.setTeam; split <;> (try split) <;> rfl
@[simp] theorem State.setTeam_pendings : (s.setTeam c k t).pendings = s.pendings := by
  unfold State.setTeam; split <;> (try split) <;> rfl
@[simp] theorem State.setTeam_gangAcc : (s.setTeam c k t).gangAcc = s.gangAcc := by
  unfold State.setTeam; split <;> (try split) <;> rfl
@[simp] theorem State.setTeam_gangArr : (s.setTeam c k t).gangArr = s.gangArr := by
  unfold State.setTeam; split <;> (try split) <;> rfl
@[simp] theorem State.setTeam_cmds : (s.setTeam c k t).cmds = s.cmds := by
  unfold State.setTeam; split <;> (try split) <;> rfl
@[simp] theorem State.setTeam_reqs : (s.setTeam c k t).reqs = s.reqs := by
  unfold State.setTeam; split <;> (try split) <;> rfl
@[simp] theorem State.setTeam_launches : (s.setTeam c k t).launches = s.launches := by
  unfold State.setTeam; split <;> (try split) <;> rfl
@[simp] theorem State.setTeam_waitProgs : (s.setTeam c k t).waitProgs = s.waitProgs := by
  unfold State.setTeam; split <;> (try split) <;> rfl
@[simp] theorem State.setTeam_copies : (s.setTeam c k t).copies = s.copies := by
  unfold State.setTeam; split <;> (try split) <;> rfl
@[simp] theorem State.setTeam_graphs : (s.setTeam c k t).graphs = s.graphs := by
  unfold State.setTeam; split <;> (try split) <;> rfl
@[simp] theorem State.setTeam_phases : (s.setTeam c k t).phases = s.phases := by
  unfold State.setTeam; split <;> (try split) <;> rfl
@[simp] theorem State.setTeam_jobCtr : (s.setTeam c k t).jobCtr = s.jobCtr := by
  unfold State.setTeam; split <;> (try split) <;> rfl
@[simp] theorem State.setTeam_slots : (s.setTeam c k t).slots = s.slots := by
  unfold State.setTeam; split <;> (try split) <;> rfl
@[simp] theorem State.setTeam_injSaved : (s.setTeam c k t).injSaved = s.injSaved := by
  unfold State.setTeam; split <;> (try split) <;> rfl
@[simp] theorem State.setTeam_cqs : (s.setTeam c k t).cqs = s.cqs := by
  unfold State.setTeam; split <;> (try split) <;> rfl
@[simp] theorem State.setTeam_mem : (s.setTeam c k t).mem = s.mem := by
  unfold State.setTeam; split <;> (try split) <;> rfl
@[simp] theorem State.setTeam_code : (s.setTeam c k t).code = s.code := by
  unfold State.setTeam; split <;> (try split) <;> rfl
@[simp] theorem State.setTeam_now : (s.setTeam c k t).now = s.now := by
  unfold State.setTeam; split <;> (try split) <;> rfl
@[simp] theorem State.setTeam_boot : (s.setTeam c k t).boot = s.boot := by
  unfold State.setTeam; split <;> (try split) <;> rfl
@[simp] theorem State.setTeam_jobs : (s.setTeam c k t).jobs = s.jobs := by
  unfold State.setTeam; split <;> (try split) <;> rfl
@[simp] theorem State.setTeam_extStaged : (s.setTeam c k t).extStaged = s.extStaged := by
  unfold State.setTeam; split <;> (try split) <;> rfl
@[simp] theorem State.setTeam_extLive : (s.setTeam c k t).extLive = s.extLive := by
  unfold State.setTeam; split <;> (try split) <;> rfl
@[simp] theorem State.setTeam_mrtStaged : (s.setTeam c k t).mrtStaged = s.mrtStaged := by
  unfold State.setTeam; split <;> (try split) <;> rfl
@[simp] theorem State.setTeam_mrtLive : (s.setTeam c k t).mrtLive = s.mrtLive := by
  unfold State.setTeam; split <;> (try split) <;> rfl
@[simp] theorem State.setTeam_extBusy : (s.setTeam c k t).extBusy = s.extBusy := by
  unfold State.setTeam; split <;> (try split) <;> rfl
@[simp] theorem State.setTeam_cinv : (s.setTeam c k t).cinv = s.cinv := by
  unfold State.setTeam; split <;> (try split) <;> rfl
@[simp] theorem State.setTeam_modSize : (s.setTeam c k t).modSize = s.modSize := by
  unfold State.setTeam; split <;> (try split) <;> rfl
@[simp] theorem State.setTeam_modRevoked : (s.setTeam c k t).modRevoked = s.modRevoked := by
  unfold State.setTeam; split <;> (try split) <;> rfl
@[simp] theorem State.setTeam_modDead : (s.setTeam c k t).modDead = s.modDead := by
  unfold State.setTeam; split <;> (try split) <;> rfl
@[simp] theorem State.setTeam_signals : (s.setTeam c k t).signals = s.signals := by
  unfold State.setTeam; split <;> (try split) <;> rfl
@[simp] theorem State.setTeam_waiters : (s.setTeam c k t).waiters = s.waiters := by
  unfold State.setTeam; split <;> (try split) <;> rfl
@[simp] theorem State.setTeam_qkick : (s.setTeam c k t).qkick = s.qkick := by
  unfold State.setTeam; split <;> (try split) <;> rfl
@[simp] theorem State.setTeam_kickPend : (s.setTeam c k t).kickPend = s.kickPend := by
  unfold State.setTeam; split <;> (try split) <;> rfl
@[simp] theorem State.setTeam_event : (s.setTeam c k t).event = s.event := by
  unfold State.setTeam; split <;> (try split) <;> rfl
@[simp] theorem State.setTeam_roles : (s.setTeam c k t).roles = s.roles := by
  unfold State.setTeam; split <;> (try split) <;> rfl
@[simp] theorem State.setTeam_heldHarts : (s.setTeam c k t).heldHarts = s.heldHarts := by
  unfold State.setTeam; split <;> (try split) <;> rfl
@[simp] theorem State.setTeam_mlog : (s.setTeam c k t).mlog = s.mlog := by
  unfold State.setTeam; split <;> (try split) <;> rfl
@[simp] theorem State.setTeam_mlogCnt : (s.setTeam c k t).mlogCnt = s.mlogCnt := by
  unfold State.setTeam; split <;> (try split) <;> rfl
@[simp] theorem State.setTeam_mlogOvf : (s.setTeam c k t).mlogOvf = s.mlogOvf := by
  unfold State.setTeam; split <;> (try split) <;> rfl
@[simp] theorem State.setTeam_ownerDig : (s.setTeam c k t).ownerDig = s.ownerDig := by
  unfold State.setTeam; split <;> (try split) <;> rfl
@[simp] theorem State.setTeam_cap : (s.setTeam c k t).cap = s.cap := by
  unfold State.setTeam; split <;> (try split) <;> rfl
@[simp] theorem State.setTeam_irqBuf : (s.setTeam c k t).irqBuf = s.irqBuf := by
  unfold State.setTeam; split <;> (try split) <;> rfl
@[simp] theorem State.setTeam_irqRing : (s.setTeam c k t).irqRing = s.irqRing := by
  unfold State.setTeam; split <;> (try split) <;> rfl
@[simp] theorem State.setTeam_irqv : (s.setTeam c k t).irqv = s.irqv := by
  unfold State.setTeam; split <;> (try split) <;> rfl
@[simp] theorem State.setTeam_errRing : (s.setTeam c k t).errRing = s.errRing := by
  unfold State.setTeam; split <;> (try split) <;> rfl
@[simp] theorem State.setTeam_calls : (s.setTeam c k t).calls = s.calls := by
  unfold State.setTeam; split <;> (try split) <;> rfl
@[simp] theorem State.setTeam_cmGen : (s.setTeam c k t).cmGen = s.cmGen := by
  unfold State.setTeam; split <;> (try split) <;> rfl
@[simp] theorem State.setTeam_cmFence : (s.setTeam c k t).cmFence = s.cmFence := by
  unfold State.setTeam; split <;> (try split) <;> rfl
@[simp] theorem State.setTeam_ceLimit : (s.setTeam c k t).ceLimit = s.ceLimit := by
  unfold State.setTeam; split <;> (try split) <;> rfl
@[simp] theorem State.setTeam_pwrCap : (s.setTeam c k t).pwrCap = s.pwrCap := by
  unfold State.setTeam; split <;> (try split) <;> rfl
@[simp] theorem State.setTeam_pwrStat : (s.setTeam c k t).pwrStat = s.pwrStat := by
  unfold State.setTeam; split <;> (try split) <;> rfl
@[simp] theorem State.setTeam_pwrGate : (s.setTeam c k t).pwrGate = s.pwrGate := by
  unfold State.setTeam; split <;> (try split) <;> rfl
@[simp] theorem State.setTeam_pwrClk : (s.setTeam c k t).pwrClk = s.pwrClk := by
  unfold State.setTeam; split <;> (try split) <;> rfl
@[simp] theorem State.setTeam_clkBase : (s.setTeam c k t).clkBase = s.clkBase := by
  unfold State.setTeam; split <;> (try split) <;> rfl
@[simp] theorem State.setTeam_settled : (s.setTeam c k t).settled = s.settled := by
  unfold State.setTeam; split <;> (try split) <;> rfl
@[simp] theorem State.setTeam_ticked : (s.setTeam c k t).ticked = s.ticked := by
  unfold State.setTeam; split <;> (try split) <;> rfl
@[simp] theorem State.setTeam_msis : (s.setTeam c k t).msis = s.msis := by
  unfold State.setTeam; split <;> (try split) <;> rfl
@[simp] theorem State.setTeam_imsic : (s.setTeam c k t).imsic = s.imsic := by
  unfold State.setTeam; split <;> (try split) <;> rfl
@[simp] theorem State.setTeam_imsicEie : (s.setTeam c k t).imsicEie = s.imsicEie := by
  unfold State.setTeam; split <;> (try split) <;> rfl
@[simp] theorem State.setTeam_imsicDel : (s.setTeam c k t).imsicDel = s.imsicDel := by
  unfold State.setTeam; split <;> (try split) <;> rfl
@[simp] theorem State.setTeam_imsicThr : (s.setTeam c k t).imsicThr = s.imsicThr := by
  unfold State.setTeam; split <;> (try split) <;> rfl
@[simp] theorem State.setTeam_pcieOut : (s.setTeam c k t).pcieOut = s.pcieOut := by
  unfold State.setTeam; split <;> (try split) <;> rfl
@[simp] theorem State.setTeam_pcieReqs : (s.setTeam c k t).pcieReqs = s.pcieReqs := by
  unfold State.setTeam; split <;> (try split) <;> rfl
@[simp] theorem State.setTeam_rootCfg : (s.setTeam c k t).rootCfg = s.rootCfg := by
  unfold State.setTeam; split <;> (try split) <;> rfl
@[simp] theorem State.setTeam_regs : (s.setTeam c k t).regs = s.regs := by
  unfold State.setTeam; split <;> (try split) <;> rfl
end

section
variable (t : Thread) (pc : Word64)
@[simp] theorem Thread.goto_g : (t.goto pc).g = t.g := rfl
@[simp] theorem Thread.goto_gPend : (t.goto pc).gPend = t.gPend := rfl
@[simp] theorem Thread.goto_tvec : (t.goto pc).tvec = t.tvec := rfl
@[simp] theorem Thread.goto_tcause : (t.goto pc).tcause = t.tcause := rfl
@[simp] theorem Thread.goto_tepc : (t.goto pc).tepc = t.tepc := rfl
@[simp] theorem Thread.goto_tinfo : (t.goto pc).tinfo = t.tinfo := rfl
@[simp] theorem Thread.goto_preq : (t.goto pc).preq = t.preq := rfl
@[simp] theorem Thread.goto_tcmp : (t.goto pc).tcmp = t.tcmp := rfl
@[simp] theorem Thread.goto_pending : (t.goto pc).pending = t.pending := rfl
end

section
variable (t : Thread) (g : Stage)
@[simp] theorem Thread.setStage_spc : (t.setStage g).spc = t.spc := rfl
@[simp] theorem Thread.setStage_g : (t.setStage g).g = t.g := rfl
@[simp] theorem Thread.setStage_gPend : (t.setStage g).gPend = t.gPend := rfl
@[simp] theorem Thread.setStage_tvec : (t.setStage g).tvec = t.tvec := rfl
@[simp] theorem Thread.setStage_tcause : (t.setStage g).tcause = t.tcause := rfl
@[simp] theorem Thread.setStage_tepc : (t.setStage g).tepc = t.tepc := rfl
@[simp] theorem Thread.setStage_tinfo : (t.setStage g).tinfo = t.tinfo := rfl
@[simp] theorem Thread.setStage_preq : (t.setStage g).preq = t.preq := rfl
@[simp] theorem Thread.setStage_tcmp : (t.setStage g).tcmp = t.tcmp := rfl
@[simp] theorem Thread.setStage_pending : (t.setStage g).pending = t.pending := rfl
@[simp] theorem Thread.setStage_wait : (t.setStage g).wait = t.wait := rfl
end

section
variable (t : Thread)
@[simp] theorem Thread.leave_g : (t.leave).g = t.g := rfl
@[simp] theorem Thread.leave_gPend : (t.leave).gPend = t.gPend := rfl
@[simp] theorem Thread.leave_tvec : (t.leave).tvec = t.tvec := rfl
@[simp] theorem Thread.leave_tepc : (t.leave).tepc = t.tepc := rfl
@[simp] theorem Thread.leave_tinfo : (t.leave).tinfo = t.tinfo := rfl
@[simp] theorem Thread.leave_preq : (t.leave).preq = t.preq := rfl
@[simp] theorem Thread.leave_tcmp : (t.leave).tcmp = t.tcmp := rfl
end

section
variable (t : Thread) (cause sub : Nat) (epc info : Word64)
@[simp] theorem Thread.enter_g : (t.enter cause sub epc info).g = t.g := rfl
@[simp] theorem Thread.enter_gPend : (t.enter cause sub epc info).gPend = t.gPend := rfl
@[simp] theorem Thread.enter_tvec : (t.enter cause sub epc info).tvec = t.tvec := rfl
@[simp] theorem Thread.enter_preq : (t.enter cause sub epc info).preq = t.preq := rfl
@[simp] theorem Thread.enter_tcmp : (t.enter cause sub epc info).tcmp = t.tcmp := rfl
@[simp] theorem Thread.enter_stage : (t.enter cause sub epc info).stage = t.stage := rfl
end

section
variable (t : Thread) (r : BitVec 5) (v : Word64)
@[simp] theorem Thread.wr_spc : (t.wr r v).spc = t.spc := by unfold Thread.wr; split <;> rfl
@[simp] theorem Thread.wr_gPend : (t.wr r v).gPend = t.gPend := by unfold Thread.wr; split <;> rfl
@[simp] theorem Thread.wr_tvec : (t.wr r v).tvec = t.tvec := by unfold Thread.wr; split <;> rfl
@[simp] theorem Thread.wr_tcause : (t.wr r v).tcause = t.tcause := by unfold Thread.wr; split <;> rfl
@[simp] theorem Thread.wr_tepc : (t.wr r v).tepc = t.tepc := by unfold Thread.wr; split <;> rfl
@[simp] theorem Thread.wr_tinfo : (t.wr r v).tinfo = t.tinfo := by unfold Thread.wr; split <;> rfl
@[simp] theorem Thread.wr_preq : (t.wr r v).preq = t.preq := by unfold Thread.wr; split <;> rfl
@[simp] theorem Thread.wr_tcmp : (t.wr r v).tcmp = t.tcmp := by unfold Thread.wr; split <;> rfl
@[simp] theorem Thread.wr_pending : (t.wr r v).pending = t.pending := by unfold Thread.wr; split <;> rfl
@[simp] theorem Thread.wr_wait : (t.wr r v).wait = t.wait := by unfold Thread.wr; split <;> rfl
@[simp] theorem Thread.wr_stage : (t.wr r v).stage = t.stage := by unfold Thread.wr; split <;> rfl
end

@[simp] theorem Thread.goto_spc (t : Thread) (pc : Word64) : (t.goto pc).spc = pc := rfl
@[simp] theorem Thread.goto_wait (t : Thread) (pc : Word64) : (t.goto pc).wait = .none := rfl
@[simp] theorem Thread.leave_spc (t : Thread) : t.leave.spc = t.tepc := rfl
@[simp] theorem Thread.enter_spc (t : Thread) (cause sub : Nat) (epc info : Word64) :
    (t.enter cause sub epc info).spc = t.tvec := rfl
@[simp] theorem Thread.enter_tepc (t : Thread) (cause sub : Nat) (epc info : Word64) :
    (t.enter cause sub epc info).tepc = epc := rfl
@[simp] theorem Thread.enter_tinfo (t : Thread) (cause sub : Nat) (epc info : Word64) :
    (t.enter cause sub epc info).tinfo = info := rfl

end Sys2Proof.Machine
end

