-- ==== Sys2Proof/Laws/Streams.lean ====
section
/-! SUPPORT. What the shared operations of Ops lead to: lookups after updates, registers, and the wrappers that reach
the acting stream. -/

namespace Sys2Proof.Machine
open Sys2Proof

/-! ### Teams, programs and units -/

theorem State.team_low (s : State) {c : Nat} (k : Nat) (h : c < 0x10000) : s.team c k = s.teams.find (teamKey c k) := by
  unfold State.team; rw [if_pos h]

theorem State.setTeam_low (s : State) {c : Nat} (k : Nat) (t : Team) (h : c < 0x10000) :
    s.setTeam c k t = { s with teams := s.teams.put (teamKey c k) t } := by
  unfold State.setTeam; rw [if_pos h]

theorem State.team_setTeam_same (s : State) {c : Nat} (k : Nat) (t : Team) (h : c < 0x10000) :
    (s.setTeam c k t).team c k = some t := by
  rw [State.setTeam_low _ _ _ h, State.team_low _ _ h]; exact FMap.find_put_same _ _ _

theorem State.team_setTeam_other (s : State) {c d : Nat} {k j : Nat} (t : Team) (h : c < 0x10000) (hd : d < 0x10000)
    (hk : teamKey d j ≠ teamKey c k) : (s.setTeam c k t).team d j = s.team d j := by
  rw [State.setTeam_low _ _ _ h, State.team_low _ _ hd, State.team_low _ _ hd]; exact FMap.find_put_other _ _ hk

theorem State.setTeam_setTeam (s : State) {c : Nat} (k : Nat) (t r : Team) (h : c < 0x10000) :
    (s.setTeam c k t).setTeam c k r = s.setTeam c k r := by
  simp only [State.setTeam_low _ _ _ h, FMap.put_put]

theorem State.unit_setUnit_same (s : State) (u : Nat) (r : UnitRec) : (s.setUnit u r).unit u = some r :=
  FMap.find_put_same _ _ _

theorem State.unit_setUnit_other (s : State) {u v : Nat} (r : UnitRec) (h : v ≠ u) : (s.setUnit u r).unit v = s.unit v :=
  FMap.find_put_other _ _ h

theorem State.prog_setProg_same (s : State) (c k : Nat) (p : Prog) : (s.setProg c k p).prog c k = some p :=
  FMap.find_put_same _ _ _

theorem State.onTeam_of (s : State) {c k : Nat} {t : Team} (f : Team → Team) (h : s.team c k = some t) :
    s.onTeam c k f = s.setTeam c k (f t) := by
  unfold State.onTeam; rw [h]

theorem State.onUnit_of (s : State) {u : Nat} {r : UnitRec} (f : UnitRec → UnitRec) (h : s.unit u = some r) :
    s.onUnit u f = s.setUnit u (f r) := by
  unfold State.onUnit; rw [h]

theorem State.onProg_of (s : State) {c k : Nat} {p : Prog} (f : Prog → Prog) (h : s.prog c k = some p) :
    s.onProg c k f = s.setProg c k (f p) := by
  unfold State.onProg; rw [h]

theorem State.onLaunch_of (s : State) {l : Nat} {r : Launch} (f : Launch → Launch) (h : s.launch l = some r) :
    s.onLaunch l f = s.setLaunch l (f r) := by
  unfold State.onLaunch; rw [h]

theorem State.thread_team (s : State) (c k : Nat) : s.thread (.team c k) = (s.team c k).map (·.th) := rfl

theorem State.onThread_team (s : State) {c k : Nat} {t : Team} (f : Thread → Thread) (h : s.team c k = some t) :
    s.onThread (.team c k) f = s.setTeam c k { t with th := f t.th } := State.onTeam_of _ _ h

theorem State.onThread_prog (s : State) {c k : Nat} {p : Prog} (f : Thread → Thread) (h : s.prog c k = some p) :
    s.onThread (.prog c k) f = s.setProg c k { p with th := f p.th } := State.onProg_of _ _ h

/-! ### Registers -/

@[simp] theorem Thread.rd_zero (t : Thread) : t.rd 0 = 0 := rfl

@[simp] theorem Thread.full_zero (t : Thread) : t.full 0 = true := rfl

theorem Thread.rd_wr_same (t : Thread) (r : BitVec 5) (v : Word64) : (t.wr r v).rd r = if r = 0 then 0 else v := by
  unfold Thread.rd Thread.wr
  by_cases h : r = 0
  · rw [if_pos h, if_pos h]
  · rw [if_neg h, if_neg h, if_neg h]; exact FMap.look_put_same _ _ _ _

theorem Thread.rd_wr_other (t : Thread) {r q : BitVec 5} (v : Word64) (h : q ≠ r) : (t.wr r v).rd q = t.rd q := by
  unfold Thread.rd Thread.wr
  by_cases hr : r = 0
  · rw [if_pos hr]
  · rw [if_neg hr]
    by_cases hq : q = 0
    · rw [if_pos hq, if_pos hq]
    · rw [if_neg hq, if_neg hq]
      exact FMap.look_put_other _ _ _ (fun e => h (BitVec.eq_of_toNat_eq e))

@[simp] theorem Thread.rd_goto (t : Thread) (pc : Word64) (r : BitVec 5) : (t.goto pc).rd r = t.rd r := rfl
@[simp] theorem Thread.spc_goto (t : Thread) (pc : Word64) : (t.goto pc).spc = pc := rfl
@[simp] theorem Thread.wait_goto (t : Thread) (pc : Word64) : (t.goto pc).wait = .none := rfl
@[simp] theorem Thread.g_goto (t : Thread) (pc : Word64) : (t.goto pc).g = t.g := rfl
@[simp] theorem Thread.pending_goto (t : Thread) (pc : Word64) : (t.goto pc).pending = t.pending := rfl
@[simp] theorem Thread.tcause_goto (t : Thread) (pc : Word64) : (t.goto pc).tcause = t.tcause := rfl
@[simp] theorem Thread.spc_setStage (t : Thread) (g : Stage) : (t.setStage g).spc = t.spc := rfl
@[simp] theorem Thread.g_setStage (t : Thread) (g : Stage) : (t.setStage g).g = t.g := rfl

theorem Thread.firstEmpty_none (th : Thread) (l : List (BitVec 5)) (h : ∀ r ∈ l, th.full r = true) :
    th.firstEmpty l = none := by
  induction l with
  | nil => rfl
  | cons r l ih =>
    unfold Thread.firstEmpty
    rw [if_pos (h r (List.mem_cons_self ..))]
    exact ih (fun x hx => h x (List.mem_cons_of_mem _ hx))

/-! ### The acting stream -/

/-- With every register full, an instruction acts. -/
theorem withRegs_full {s : State} {th : Thread} {l : List (BitVec 5)} {k : Thread → Result}
    (h : s.thread s.cur = some th) (hf : ∀ r ∈ l, th.full r = true) : withRegs s l k = k th := by
  unfold withRegs
  rw [h]
  show (match th.firstEmpty l with | some r => _ | none => k th) = _
  rw [th.firstEmpty_none l hf]

theorem withTeam_of {s : State} {c sl : Nat} {t : Team} {u : UnitRec} {k : Nat → Nat → Team → UnitRec → Result}
    (hc : s.cur = .team c sl) (ht : s.team c sl = some t) (hu : s.unit t.unit = some u) : withTeam s k = k c sl t u := by
  unfold withTeam
  simp only [hc, ht, hu]

theorem withProg_of {s : State} {c sl : Nat} {p : Prog} {k : Nat → Nat → Prog → Result}
    (hc : s.cur = .prog c sl) (hp : s.prog c sl = some p) : withProg s k = k c sl p := by
  unfold withProg
  simp only [hc, hp]

theorem trapNow_of {s : State} {th : Thread} (cause : Nat) (info : Word64) (h : s.thread s.cur = some th) :
    trapNow s cause info = .next (takeTrap s s.cur cause 0 th.spc none info) := by
  unfold trapNow; rw [h]

/-- An instruction that retires moves its stream 4 bytes on. -/
theorem retire_team {s : State} {c sl : Nat} {t : Team} (hc : s.cur = .team c sl) (ht : s.team c sl = some t) :
    retire s = s.setTeam c sl { t with th := t.th.goto (t.th.spc + 4) } := by
  unfold retire; rw [hc]; exact State.onThread_team _ _ ht

theorem retireWith_team {s : State} {c sl : Nat} {t : Team} (d : BitVec 5) (v : Word64) (hc : s.cur = .team c sl)
    (ht : s.team c sl = some t) :
    retireWith s d v = s.setTeam c sl { t with th := (t.th.wr d v).goto (t.th.spc + 4) } := by
  unfold retireWith
  rw [hc, State.onThread_team _ _ ht]
  simp [Thread.next_]

end Sys2Proof.Machine
end

