-- ==== Sys2Proof/Tests/Slice0.lean ====
section
/-! SUPPORT. Tests of the model, and a witness for the hypotheses of each statement. -/

namespace Sys2Proof.Tests
open Sys2Proof Sys2Proof.Machine Sys2Proof.Claims

/-! ### Ill-formed terms: one for each check -/

/-- A lane word without prefix, sources v1, v2, v3 as far as `n` says, destination v4. -/
def word (fmt sub : Nat) (n : Nat) : LaneWord :=
  ⟨none, BitVec.ofNat 4 fmt, BitVec.ofNat 4 sub, 0, 0, 0, 0, 0, 4, if 0 < n then 1 else 0xFF, if 1 < n then 2 else 0xFF,
    if 2 < n then 3 else 0xFF, 0⟩

theorem test_wf_add : (Instr.add 1 2 3).wf = true := by decide
theorem test_wf_lane : (Instr.iadd (word 0 0 2)).wf = true := by decide
theorem test_ill_mask_zero : (Instr.kand 0 1 2).wf = false ∧ (Instr.kwrw 1 2 0).wf = false := by decide
theorem test_ill_size : (Instr.gld 1 2 7 0).wf = false ∧ (Instr.gst 1 2 3 0).wf = false := by decide
theorem test_ill_atomic :
    (Instr.gatm 1 2 3 0 0 0xB).wf = false ∧ (Instr.gatm 1 2 3 4 0 0).wf = false ∧
    (Instr.gatm 1 2 0 0 2 0xC).wf = false ∧ (Instr.ratm 1 2 3 0 0 0 0xE).wf = false := by decide
theorem test_ill_scope : (Instr.fence 0 5).wf = false ∧ (Instr.fpost 1 2 3 5 0).wf = false := by decide
theorem test_ill_csr : (Instr.csrRd 1 0x3F).wf = false ∧ (Instr.csrWr 1 2 9).wf = false := by decide
theorem test_ill_level : (Instr.lvlRd 1 5).wf = false := by decide
theorem test_ill_lane_format : (Instr.andLane (word 0 0 2)).wf = false := by decide
theorem test_ill_lane_sub : (Instr.mov (word 0 1 1)).wf = false := by decide
theorem test_ill_lane_source : (Instr.mov { word 0 0 1 with srcA := 0x7B }).wf = false := by decide
theorem test_ill_lane_extra_source : (Instr.mov { word 0 0 1 with srcB := 2 }).wf = false := by decide
theorem test_ill_lane_dest : (Instr.mov { word 0 0 1 with dst := 0x50 }).wf = false := by decide
theorem test_ill_lane_ports : (Instr.iadd { word 0 0 2 with srcA := 0x80, srcB := 0x81 }).wf = false := by decide
theorem test_ill_lane_literal : (Instr.mov { word 0 0 1 with litsel := 1 }).wf = false := by decide
theorem test_ill_lane_aux : (Instr.mov { word 0 0 1 with aux := 1 }).wf = false := by decide
theorem test_ill_lane_ccd : (Instr.mov { word 0 0 1 with ccd := 1 }).wf = false := by decide
theorem test_ill_lane_prefix : (Instr.iadd { word 0 0 2 with pfx := some ⟨0, 1, 0, 0, 0, 0⟩ }).wf = false := by decide
theorem test_ill_occasion :
    (Instr.takeDown 48 0).wf = false ∧ (Instr.unitResident 1024).wf = false ∧ (Instr.bankZeroed 256 0).wf = false := by decide

/-! ### Words of the manual's own tables -/

theorem test_decode_div : decodeTableWord 32 0x0064280C = some (.div 3 4 5) := by decide
theorem test_decode_clz : decodeTableWord 32 0x00640016 = some (.clz 3 4) := by decide
theorem test_decode_srai : decodeTableWord 32 0x14850083 = some (.srai 4 5 3) := by decide
theorem test_decode_sltin : decodeTableWord 32 0x2447FFFF = some (.sltin 2 7 0xFFFF) := by decide
theorem test_decode_jalr : decodeTableWord 32 0x5C070000 = some (.jalr 7 0) := by decide
theorem test_decode_knot : decodeTableWord 32 0x92200004 = some (.knot 4 2) := by decide
theorem test_decode_kcnt : decodeTableWord 32 0x94A20000 = some (.kcnt 5 2) := by decide
theorem test_decode_krdw : decodeTableWord 32 0x9CA600C0 = some (.krdw 5 6 3) := by decide
theorem test_decode_kwrw : decodeTableWord 32 0x9C0638C1 = some (.kwrw 6 7 3) := by decide
theorem test_decode_gatm : decodeTableWord 32 0xA8A63A1A = some (.gatm 5 6 7 8 1 0xA) := by decide
theorem test_decode_sysc : decodeTableWord 32 0xC4000012 = some (.sysc 0x12) := by decide
theorem test_decode_irq : decodeTableWord 32 0xD4040003 = some (.irq 4 3) := by decide
theorem test_decode_trap : decodeTableWord 32 0xD0000007 = some (.trap 7) := by decide
theorem test_decode_drain : decodeTableWord 32 0xE0000000 = some .drain := by decide
theorem test_decode_time : decodeTableWord 32 0xE4A00000 = some (.time 5) := by decide
theorem test_decode_tag_wany : decodeTableWord 32 0xECC50001 = some (.tagWany 6 5) := by decide
theorem test_decode_tid_bindf : decodeTableWord 32 0xF4053001 = some (.tidBindf 5 6) := by decide
theorem test_decode_fpost : decodeTableWord 32 0xB0A63803 = some (.fpost 5 6 7 1 1) := by decide
theorem test_decode_wpost : decodeTableWord 32 0xB4063807 = some (.wpost 6 7 3 1) := by decide
theorem test_decode_cpy : decodeTableWord 32 0xB80531C7 = some (.cpy 5 6 7 1 1 1) := by decide
theorem test_decode_ratm : decodeTableWord 32 0xBC8531FA = some (.ratm 4 5 6 7 1 1 0xA) := by decide
theorem test_decode_csr : decodeTableWord 32 0xC0064001 = some (.csrWr 0 6 1) := by decide
theorem test_decode_lvl : decodeTableWord 32 0xD8C00001 = some (.lvlRd 6 1) := by decide
theorem test_decode_fence : decodeTableWord 32 0xDC00001B = some (.fence 3 3) := by decide
theorem test_decode_vrun : decodeTableWord 32 0x80000006 = some (.vrun 6) := by decide
theorem test_decode_vjmp : decodeTableWord 32 0x8400000C = some (.vjmp 0 0xC) := by decide
theorem test_decode_bar : decodeTableWord 32 0xE8E50004 = some (.barQuery 7 5) := by decide
theorem test_decode_win : decodeTableWord 32 0xF0022801 = some (.winRel 2 5) := by decide
theorem test_decode_mred : decodeTableWord 32 0xFC040000 = some (.mred 4) := by decide
theorem test_decode_mx_mul : decodeTableWord 32 0xF80531C0 = some (.mxMul 5 6 7) := by decide
theorem test_decode_mx_alloc : scalarDecode true 0xF8A00004 = .ok (.mxAlloc 5) ∧ scalarDecode false 0xF8A00004 ≠ .ok (.mxAlloc 5) := by
  decide
theorem test_decode_swait : decodeTableWord 32 0x00C5A50B = some (.swait 10 11 12) := by decide
theorem test_decode_lds : laneDecode false [0x80D20000, 0x0401FFFF, 0x24000010] =
    .ok (.lds ⟨none, 0xD, 2, 0, 0, 0, 0, 0, 4, 1, 0xFF, 0xFF, 0x24000010⟩) := by decide
theorem test_decode_fadd : laneDecode false [0xFF6A0000, 0x20200000, 0x020304FF, 0] =
    .ok (.fadd ⟨some ⟨3, 2, 1, 0, 0, 0⟩, 2, 0, 0, 0, 0, 0, 0, 2, 3, 4, 0xFF, 0⟩) := by decide
theorem test_decode_redw_refused : laneDecode false [0x62E80000, 0x4001FFFF, 0] = .error ⟨0x17, 2⟩ := by decide

/-! ### Witnesses: for each statement, a state and operands that meet its hypotheses

Each theorem takes the statement and applies it to a concrete state, so that every hypothesis is shown to hold there. -/

def need : Need := ⟨2, 1, 4096, 8, 4, 2, 8⟩
def unit : UnitRec := { UnitRec.start 9 0 1 0 0 need with st := .running, slots := [0, 1] }
def thr (g : FMap Word64) : Thread := { Thread.start 0x1000 with g }
def team (g : FMap Word64) : Team := { Team.start 1 0 1 0x1000 0x2000 0 with th := thr g, set_ := .active }
/-- Team `t` of unit `u` acts, in slot 0 of core 0. -/
def acts (t : Team) (u : UnitRec) : State :=
  { State.reset with cur := .team 0 0, teams := [(0, t)], units := [(1, u)], nextId := 100 }
def launch : Launch :=
  ⟨0, 0, 0, 0, false, 1, 0, .running, [0x0000000100020003, 0, 0, 0, 0, 0, 0, 0], [], 0, 0, 0, false, 0, 0, 0, Counter.zero, 0, 0,
    some ⟨false, false, 0, need, 1, 0x1000, 0x2000, 0, 1⟩, 0, 0, [], 0, [], 0, 0, 0⟩
/-- The instruction answers a next state. -/
abbrev Runs (i : Instr) (s : State) : Prop := ∃ x, exec i s = .next x

theorem ready_of {s : State} {th : Thread} {rs : List (BitVec 5)} (h : s.thread s.cur = some th)
    (k : ∀ r ∈ rs, th.full r = true) : Ready s th rs := And.intro h k
theorem slot0 : SlotOn 0 0 := And.intro (by decide) (by decide)
theorem acting_of {s : State} {c sl : Nat} {t : Team} {u : UnitRec} (h : s.cur = .team c sl) (k : SlotOn c sl)
    (l : s.team c sl = some t) (m : s.unit t.unit = some u) : Acting s c sl t u :=
  And.intro h (And.intro k (And.intro l m))

theorem acting_acts (t : Team) (u : UnitRec) (h : t.unit = 1) : Acting (acts t u) 0 0 t u :=
  acting_of rfl slot0 rfl (by rw [h]; rfl)

theorem witness_ScalarResults (h : Obligations.ScalarResults) :
    ∃ x, exec (.div 3 1 2) (acts (team [(1, 7)]) unit) = .next x :=
  ⟨_, h (acts (team [(1, 7)]) unit) (thr [(1, 7)]) _ _ _ _ rfl (ready_of rfl (by decide))⟩
theorem witness_ScalarCounts (h : Obligations.ScalarCounts) :
    ∃ x, exec (.clz 3 1) (acts (team [(1, 7)]) unit) = .next x := by
  obtain ⟨_, _, _, k, _⟩ := h (acts (team [(1, 7)]) unit) (thr [(1, 7)]) 3 1 (ready_of rfl (by decide))
  exact ⟨_, k⟩
theorem witness_Branches (h : Obligations.BranchesAndJumps) :
    ∃ x, exec (.beq 1 2 4) (acts (team [(1, 7), (2, 7)]) unit) = .next x :=
  ⟨_, h.1 (acts (team [(1, 7), (2, 7)]) unit) (thr [(1, 7), (2, 7)]) _ _ _ _ rfl (ready_of rfl (by decide))⟩
theorem witness_Jal (h : Obligations.BranchesAndJumps) : ∃ x, exec (.jal 4) (acts (team []) unit) = .next x :=
  ⟨_, (h.2 (acts (team []) unit) (thr [])).1 4 (ready_of rfl (by decide))⟩
theorem witness_Jalr (h : Obligations.BranchesAndJumps) : ∃ x, exec (.jalr 31 4) (acts (team [(31, 4)]) unit) = .next x :=
  ⟨_, (h.2 (acts (team [(31, 4)]) unit) (thr [(31, 4)])).2.1 31 4 (ready_of rfl (by decide)) (by decide)⟩
theorem witness_Jalr_misaligned (h : Obligations.BranchesAndJumps) :
    ∃ x, exec (.jalr 1 3) (acts (team []) unit) = .next x :=
  ⟨_, (h.2 (acts (team []) unit) (thr [])).2.2 1 3 (ready_of rfl (by decide)) (by decide)⟩
theorem witness_RegisterFrames (h : Obligations.RegisterFrames) : ∃ s t, RegisterFrame s t 3 :=
  ⟨_, _, h (.add 3 1 2) 3 (acts (team [(1, 7)]) unit) _ rfl slot0 rfl
    (thr [(1, 7)]) (((thr [(1, 7)]).wr 3 7).goto 0x1004) rfl rfl rfl⟩

/-- Team 0 with k1 the lanes 0 to 3, outside a handler. -/
def masked : Team := { team [(1, 0), (2, 5)] with k := [(0, launchedMask 1), (1, 0xF)] }

theorem witness_MaskResults (h : Obligations.MaskResults) : Runs (.kand 2 1 0) (acts masked unit) :=
  ⟨_, (h (acts masked unit) 0 0 masked unit _ _ _ _ (acting_acts _ _ rfl) rfl (And.intro (by decide) (by decide))).1⟩
theorem witness_MaskWords (h : Obligations.MaskWords) :
    Runs (.kcnt 3 1) (acts masked unit) ∧ Runs (.kfst 3 1) (acts masked unit) ∧ Runs (.krdw 3 1 1) (acts masked unit) ∧
      Runs (.kwrw 1 2 1) (acts masked unit) := by
  obtain ⟨k1, k2, k3, k4⟩ := h (acts masked unit) 0 0 masked unit (acting_acts _ _ rfl)
  obtain ⟨_, r1, _⟩ := k1 3 1 (And.intro (by decide) (by decide)) (ready_of rfl (by decide))
  obtain ⟨_, r2, _⟩ := k2 3 1 (And.intro (by decide) (by decide)) (ready_of rfl (by decide))
  obtain ⟨_, r4, _⟩ := k4 1 2 1 (And.intro (by decide) (by decide)) (ready_of rfl (by decide))
  exact ⟨⟨_, r1⟩, ⟨_, r2⟩, ⟨_, k3 3 1 1 (And.intro (by decide) (by decide)) (ready_of rfl (by decide))⟩, ⟨_, r4⟩⟩
theorem witness_MaskBranches (h : Obligations.MaskBranches) : Runs (.bkAll 1 2) (acts masked unit) :=
  ⟨_, (h (acts masked unit) 0 0 masked unit 1 2 (acting_acts _ _ rfl) (And.intro (by decide) (by decide))).2.2⟩

theorem passes_of {u : UnitRec} {o n : Nat} (h : (decide (o % n = 0) && decide (o < 2 ^ 21) &&
    decide (o + n ≤ u.need.spad) && decide (u.armedAt o n = none)) = true) : OffsetPasses u o n := by
  simp only [Bool.and_eq_true, decide_eq_true_eq] at h
  exact And.intro h.1.1.1 (And.intro h.1.1.2 (And.intro h.1.2 h.2))
theorem taken_of {r : BitVec 2} {o : BitVec 4} (h : o ≠ 0xB ∧ o ≠ 0xE ∧ o ≠ 0xF ∧ (o = 0xC → r = 0 ∨ r = 1) ∧
    (o = 0xD → r = 0 ∨ r = 2)) : AtomicTaken r o := h
theorem witness_LoadResults (h : Obligations.LoadResults) : Runs (.gld 3 1 6 0) (acts (team [(1, 4088)]) unit) := by
  obtain ⟨x, k, _⟩ := h (acts (team [(1, 4088)]) unit) 0 0 (team [(1, 4088)]) unit 3 1 6 0 (acting_acts _ _ rfl)
    (ready_of rfl (by decide)) (by decide) (passes_of (by decide)) (by decide) (by decide)
  exact ⟨x, k⟩
theorem witness_StoreResults (h : Obligations.StoreResults) : Runs (.gst 2 1 6 0) (acts (team [(1, 4088)]) unit) := by
  obtain ⟨x, k, _⟩ := h (acts (team [(1, 4088)]) unit) 0 0 (team [(1, 4088)]) unit 2 1 6 0 (acting_acts _ _ rfl)
    (ready_of rfl (by decide)) (by decide) (passes_of (by decide)) (by decide)
  exact ⟨x, k⟩
theorem witness_AtomicResults (h : Obligations.AtomicResults) :
    Runs (.gatm 3 1 2 0 3 0) (acts (team [(1, 4088), (2, 5)]) unit) := by
  obtain ⟨x, k, _⟩ := h (acts (team [(1, 4088), (2, 5)]) unit) 0 0 (team [(1, 4088), (2, 5)]) unit 3 1 2 0 3 0
    (acting_acts _ _ rfl) (ready_of rfl (by decide)) (taken_of (by decide)) (passes_of (by decide)) (by decide) (by decide)
  exact ⟨x, k⟩

/-- A unit whose window 0 has its only slot, 512 bytes from 1024, armed. -/
def armedUnit : UnitRec := { unit with windows := [(0, ⟨0, 0, 1, 1, 4, false, 2, 4, 1024, 0, 0, [(0, .armed)]⟩)] }
/-- The scalar load of 8 bytes at g1. -/
theorem gld_access (g : FMap Word64) (h : ∀ x ∈ [1, 3], (thr g).full x = true) :
    ScalarAccess (thr g) (.gld 3 1 6 0) ((thr g).rd 1 + (0 : BitVec 13).signExtend 64).toNat 8 true :=
  Or.inl ⟨3, 1, 6, 0, rfl, by decide, h, rfl, rfl, rfl⟩
theorem gatm_access (g : FMap Word64) (h : ∀ x ∈ [1, 2, 4, 3], (thr g).full x = true) :
    ScalarAccess (thr g) (.gatm 3 1 2 4 3 0) ((thr g).rd 1).toNat 8 true :=
  Or.inr (Or.inr ⟨3, 1, 2, 4, 3, 0, rfl, taken_of (by decide), h, rfl, rfl, rfl⟩)
theorem gst_access (g : FMap Word64) (h : ∀ x ∈ [1, 2], (thr g).full x = true) :
    ScalarAccess (thr g) (.gst 2 1 6 0) ((thr g).rd 1 + (0 : BitVec 13).signExtend 64).toNat 8 false :=
  Or.inr (Or.inl ⟨2, 1, 6, 0, rfl, by decide, h, rfl, rfl, rfl⟩)
theorem witness_AccessTraps_codes (h : Obligations.AccessTraps) :
    Runs (.gld 3 1 7 0) (acts (team [(1, 1)]) unit) ∧ Runs (.gst 3 1 3 0) (acts (team [(1, 1)]) unit) ∧
      Runs (.gatm 3 1 2 4 0 0xB) (acts (team [(1, 1)]) unit) ∧ Runs (.gatm 3 1 2 4 2 0xC) (acts (team [(1, 1)]) unit) :=
  have k := h.1 (acts (team [(1, 1)]) unit) 0 0 _ unit 3 1
  have l := h.2.1 (acts (team [(1, 1)]) unit) 0 0 _ unit 3 1 2 4
  ⟨⟨_, (k 7 0 (acting_acts _ _ rfl)).1 rfl⟩, ⟨_, (k 3 0 (acting_acts _ _ rfl)).2 (by decide)⟩,
   ⟨_, (l 0 0xB (acting_acts _ _ rfl)).1 (by decide)⟩, ⟨_, (l 2 0xC (acting_acts _ _ rfl)).2 (by decide)⟩⟩
theorem witness_AccessTraps_align (h : Obligations.AccessTraps) : Runs (.gld 3 1 6 0) (acts (team [(1, 4089)]) unit) :=
  ⟨_, (h.2.2 (acts (team [(1, 4089)]) unit) 0 0 (team [(1, 4089)]) unit _ _ _ _ (acting_acts _ _ rfl) (by decide)
    (gld_access [(1, 4089)] (by decide))).1 (by decide)⟩
theorem witness_AccessTraps_bound (h : Obligations.AccessTraps) : Runs (.gst 2 1 6 0) (acts (team [(1, 4096)]) unit) :=
  ⟨_, (h.2.2 (acts (team [(1, 4096)]) unit) 0 0 (team [(1, 4096)]) unit _ _ _ _ (acting_acts _ _ rfl) (by decide)
    (gst_access [(1, 4096)] (by decide))).2.1 (by decide) (by decide)⟩
theorem witness_AccessTraps_armed (h : Obligations.AccessTraps) :
    Runs (.gatm 3 1 2 4 3 0) (acts (team [(1, 1024)]) armedUnit) :=
  ⟨_, (h.2.2 (acts (team [(1, 1024)]) armedUnit) 0 0 (team [(1, 1024)]) armedUnit _ _ _ _ (acting_acts _ _ rfl) (by decide)
    (gatm_access [(1, 1024)] (by decide))).2.2.1 0 0 (by decide) (by decide) (by decide) rfl⟩
/-- The same acting team, with the scratchpad word at 4088 poisoned. -/
def poisoned : State :=
  { acts (team [(1, 4088)]) unit with mem := { State.reset.mem with spadPsn := [spadKey 0 (unit.spadOff 4088) / 8] } }
theorem witness_AccessTraps_poison (h : Obligations.AccessTraps) : Runs (.gatm 3 1 2 4 3 0) poisoned :=
  ⟨_, (h.2.2 poisoned 0 0 (team [(1, 4088)]) unit _ _ _ _ (acting_of rfl slot0 rfl rfl) (by decide)
    (gatm_access [(1, 4088)] (by decide))).2.2.2 4088 rfl (passes_of (by decide)) (by decide)⟩

/-- Team 0 with g1 as given acts, out of a unit of two teams with eight barriers and four tags. -/
def one (v : Word64) : State := acts (team [(1, v)]) unit
theorem acting_one (v : Word64) : Acting (one v) 0 0 (team [(1, v)]) unit := acting_acts _ _ rfl

/-- A matrix program in slot 0 of cluster 0. -/
def prog (g : FMap Word64) : Prog := ⟨9, 1, thr g, 8, [], false, false, 0⟩
def runsProg (p : Prog) : State := { acts (team []) unit with cur := .prog 0 0, progs := [(0, p)] }
theorem acting_prog (p : Prog) : ActingProg (runsProg p) 0 0 p := And.intro rfl (And.intro (by decide) rfl)

theorem witness_CsrReads_team (h : Obligations.CsrReads) : Runs (.csrRd 3 1) (one 0) ∧ Runs (.csrRd 3 9) (one 0) :=
  ⟨⟨_, h.1 (one 0) 0 0 _ unit 3 1 (acting_one 0) (ready_of rfl (by decide)) (by decide) (by decide)⟩,
   ⟨_, h.1 (one 0) 0 0 _ unit 3 9 (acting_one 0) (ready_of rfl (by decide)) (by decide) (by decide)⟩⟩
theorem witness_CsrReads_prog (h : Obligations.CsrReads) : Runs (.csrRd 3 0x20) (runsProg (prog [])) :=
  ⟨_, h.2 (runsProg (prog [])) 0 0 (prog []) 3 0x20 (acting_prog _) (ready_of rfl (by decide)) (by decide)⟩
theorem witness_CsrWrites (h : Obligations.CsrWrites) : Runs (.csrWr 3 1 4) (one 0x2000) := by
  obtain ⟨_, k, _⟩ := h (one 0x2000) 0 0 _ unit 3 1 4 (.csrWr 3 1 4) 0x2000 (acting_one _) (ready_of rfl (by decide))
    (by decide) (by decide) (by decide) (List.mem_cons_self ..) (by decide) (by decide)
  exact ⟨_, k⟩
theorem witness_CsrWrites_ret (h : Obligations.CsrWrites) : Runs (.csrWr 3 1 5) (one 0) := by
  obtain ⟨_, k, _⟩ := h (one 0) 0 0 _ unit 3 1 5 (.csrWr 3 1 5) 0 (acting_one _) (ready_of rfl (by decide))
    (by decide) (by decide) (by decide) (List.mem_cons_self ..) (by decide) (by decide)
  exact ⟨_, k⟩
theorem witness_CsrRefusals (h : Obligations.CsrRefusals) : Runs (.csrRd 3 0x3F) (one 0) ∧ Runs (.csrWr 3 1 0xD) (one 0) :=
  ⟨⟨_, h (one 0) 0 0 _ unit 3 1 0x3F _ (acting_one 0) (Or.inl rfl) (Or.inl (by decide))⟩,
   ⟨_, h (one 0) 0 0 _ unit 3 1 0xD _ (acting_one 0) (Or.inr (Or.inl rfl)) (Or.inr (by decide))⟩⟩
theorem witness_StoreFaultReads (h : Obligations.StoreFaultReads) : Runs (.sfqRead 3) (one 0) := by
  obtain ⟨_, _, k, _⟩ := h (one 0) 0 0 _ unit 3 (acting_one 0) (ready_of rfl (by decide))
  exact ⟨_, k⟩

/-- A team with a handler at 0x4000, not in it; and the same team in it. -/
def handled : Team := { team [] with th := { thr [] with tvec := 0x4000 } }
def inHandler (epc : Word64) : Team :=
  { handled with th := { handled.th with tcause := 0x8000000000000001, tepc := epc, g := [(1, 0xC000000000000001)] } }
theorem witness_TrapInstruction (h : Obligations.TrapInstruction) : Runs (.trap 7) (acts handled unit) := by
  obtain ⟨_, k, _⟩ := h (acts handled unit) 0 0 handled unit 7 (acting_acts _ _ rfl) (by decide) (by decide)
  exact ⟨_, k⟩
theorem witness_TrapEntry_handler (h : Obligations.TrapEntryRegisters) :
    RestSame (acts handled unit) (takeTrap (acts handled unit) (.team 0 0) 1 0 0 none 0) :=
  ((h (acts handled unit) (.team 0 0) handled.th 1 0 0 0 none slot0 rfl (by decide)
    (by decide)).2 (by decide) (by decide)).1
theorem witness_TrapEntry_ends (h : Obligations.TrapEntryRegisters) :
    (takeTrap (one 0) (.team 0 0) 1 0 0 none 0).thread (.team 0 0) = none :=
  (h (one 0) (.team 0 0) (thr [(1, 0)]) 1 0 0 0 none slot0 rfl (by decide)
    (by decide)).1 (Or.inr rfl) (by intro c sl e; cases e; exact ⟨_, _, rfl, rfl⟩)
theorem witness_HandlerResumes (h : Obligations.HandlerResumes) : Runs .trapResume (acts (inHandler 0x1000) unit) := by
  obtain ⟨⟨_, _, k, _⟩, _⟩ := (h (acts (inHandler 0x1000) unit) 0 0 _ unit (acting_acts _ _ rfl)).1 (by decide) (by decide)
  exact ⟨_, k⟩
theorem witness_HandlerResumes_csr (h : Obligations.HandlerResumes) :
    Runs (.csrWr 3 1 5) (acts (inHandler 0x1000) unit) := by
  obtain ⟨_, _, k, _⟩ := ((h (acts (inHandler 0x1000) unit) 0 0 _ unit (acting_acts _ _ rfl)).1 (by decide) (by decide)).2
    3 1 (.csrWr 3 1 5) _ (ready_of rfl (by decide)) (List.mem_cons_self ..) (by decide)
  exact ⟨_, k⟩
theorem witness_HandlerResumes_refused (h : Obligations.HandlerResumes) :
    Runs .trapResume (acts handled unit) ∧ Runs .trapResume (acts (inHandler 2) unit) ∧
      Runs (.csrSet 3 1 5) (acts (inHandler 2) unit) :=
  have k := (h (acts (inHandler 2) unit) 0 0 _ unit (acting_acts _ _ rfl)).2
  ⟨⟨_, ((h (acts handled unit) 0 0 _ unit (acting_acts _ _ rfl)).2 .trapResume (Or.inl rfl)).1 (by decide)⟩,
   ⟨_, (k .trapResume (Or.inl rfl)).2 (by decide) (by decide)⟩,
   ⟨_, (k (.csrSet 3 1 5) (Or.inr ⟨3, 1, _, ready_of rfl (by decide), List.mem_cons_of_mem _ (List.mem_cons_self ..),
     by decide⟩)).2 (by decide) (by decide)⟩⟩

/-- The code cache of core 0 holds MOV v4, v1 in s32 at 0x2000. -/
def cached : State := { one 0 with
  code := [(codeKey (one 0) (.team 0 0) 0x2000, 0), (codeKey (one 0) (.team 0 0) 0x2004, 0x0401FFFF),
    (codeKey (one 0) (.team 0 0) 0x2008, 0)] }
theorem witness_LaneIssue (h : Obligations.LaneIssue) : Runs (.vrun 1) cached := by
  have k := ((h cached 0 0 (team [(1, 0)]) unit (acting_of rfl slot0 rfl rfl)).1 (by decide)).1 1 _ rfl
    ⟨team [(1, 0)], [0, 0x0401FFFF, 0], 0, _, rfl, ⟨by decide, by decide, by decide, by decide,
      ⟨.mov ⟨none, 0, 0, 0, 0, 0, 0, 0, 4, 1, 0xFF, 0xFF, 0⟩, by decide, rfl⟩, by decide⟩, rfl⟩
  exact ⟨_, k⟩
theorem witness_LaneIssue_vjmp (h : Obligations.LaneIssue) : Runs (.vjmp 1 4) (one 0) ∧ Runs .vsync (one 0) :=
  have k := (h (one 0) 0 0 _ unit (acting_one 0)).1 (by decide)
  ⟨⟨_, k.2.1 1 4 (ready_of rfl (by decide))⟩, ⟨_, k.2.2 (by decide)⟩⟩
theorem witness_LaneIssue_handler (h : Obligations.LaneIssue) : Runs (.vrun 1) (acts (inHandler 0) unit) :=
  ⟨_, ((h (acts (inHandler 0) unit) 0 0 _ unit (acting_acts _ _ rfl)).2 (by decide)).1 1⟩

theorem witness_Fences (h : Obligations.FencesAndTime) : Runs (.fence 1 4) (one 0) ∧ Runs (.fence 0 5) (one 0) :=
  have k := h.1 (one 0) 0 0 _ unit (acting_one 0)
  ⟨⟨_, k.1 1 4 (by decide) (by decide) (Or.inr (by decide))⟩, ⟨_, k.2.1 0 5 (by decide)⟩⟩
/-- A team with one store fault to report. -/
def faulty : Team := { team [] with sfq := [⟨1, 2, 0, 0x1000, 0x5000, 0⟩] }
theorem witness_Drain (h : Obligations.FencesAndTime) : Runs .drain (one 0) ∧ Runs .drain (acts faulty unit) :=
  ⟨⟨_, ((h.1 (one 0) 0 0 _ unit (acting_one 0)).2.2 (by decide) (by decide) (fun _ h => nomatch h)).1 rfl⟩,
   ⟨_, ((h.1 (acts faulty unit) 0 0 _ unit (acting_acts _ _ rfl)).2.2 (by decide) (by decide) (fun _ h => nomatch h)).2 (by decide)⟩⟩
theorem witness_FenceProg (h : Obligations.FencesAndTime) : Runs (.fence 2 4) (runsProg (prog [])) :=
  ⟨_, h.2.1 _ 0 0 (prog []) 2 4 (acting_prog _) (by decide)⟩
theorem witness_Time (h : Obligations.FencesAndTime) : Runs (.time 3) (one 0) :=
  ⟨_, h.2.2 (one 0) (thr [(1, 0)]) 3 (ready_of rfl (by decide))⟩
theorem witness_Yield (h : Obligations.YieldsAndExits) : Runs (.yield 64 0) (one 0) ∧ Runs (.yield 65 0) (one 0) :=
  have k := h.1 (one 0) 0 0 _ unit (acting_one 0) rfl
  ⟨⟨_, (k.1 64 (by decide) rfl).1⟩, ⟨_, k.2.1 65 0 (by decide)⟩⟩
def asked : Team := { team [] with th := { thr [] with preq := true } }
theorem witness_Yield_saves (h : Obligations.YieldsAndExits) : Runs (.yield 64 1) (acts asked unit) := by
  obtain ⟨x, _, k, _⟩ := (h.1 (acts asked unit) 0 0 asked unit (acting_acts _ _ rfl) rfl).2.2.1 64 1 (by decide) rfl
    (by decide) (by decide) (by decide)
  exact ⟨x, k⟩
theorem witness_Exit (h : Obligations.YieldsAndExits) : Runs (.exit 1) (one 0) := by
  obtain ⟨x, k, _⟩ := (h.1 (one 0) 0 0 _ unit (acting_one 0) rfl).2.2.2 1 (by decide)
  exact ⟨x, k⟩
theorem witness_YieldsProg (h : Obligations.YieldsAndExits) :
    Runs (.yield 3 0) (runsProg (prog [])) ∧ Runs (.exit 0) (runsProg (prog [])) := by
  obtain ⟨k1, k2⟩ := h.2 (runsProg (prog [])) 0 0 (prog []) (acting_prog _)
  obtain ⟨x, k, _⟩ := k2 0 rfl
  exact ⟨⟨_, k1 3 rfl⟩, ⟨x, k⟩⟩

theorem witness_Sysc_off (h : Obligations.CallsAndMessages) : Runs (.sysc 1) (one 0) :=
  ⟨_, ((h.1 (one 0) 0 0 _ unit 1 (acting_one 0)).1 rfl (ready_of rfl (by decide)) (by decide)).1 (by decide)⟩
/-- The job's system-call queue is on. -/
def callsOn : State := { one 0 with jobs := [(1, { Job.zero with jscq := 0x100 })] }
theorem witness_Sysc_on (h : Obligations.CallsAndMessages) : Runs (.sysc 1) callsOn := by
  obtain ⟨x, _, k, _⟩ := ((h.1 callsOn 0 0 (team [(1, 0)]) unit 1 (acting_of rfl slot0 rfl rfl)).1 rfl
    (ready_of rfl (by decide)) (by decide)).2 (by decide) 0 (by decide) (by decide) (fun _ h => nomatch h)
  exact ⟨x, k⟩
def parkedTeam : Team := { team [] with set_ := .parked, th := { thr [] with stage := [(0x1000, .parked (some 5))] } }
def answered : State := { acts parkedTeam unit with calls := [(5, { Call.free with state := 2, gen := 7, caller := (1, 0) })] }
theorem witness_Sysc_answered (h : Obligations.CallsAndMessages) : Runs (.sysc 1) answered :=
  ⟨_, (h.1 answered 0 0 parkedTeam unit 1 (acting_of rfl slot0 rfl rfl)).2 5 rfl (by decide)⟩
theorem witness_Answer (h : Obligations.CallsAndMessages) :
    Runs (.answer 5 7) { one 0 with calls := [(5, { Call.free with state := 1, gen := 7 })] } ∧ Runs (.answer 5 6) answered := by
  obtain ⟨x, k, _⟩ := (h.2.1 { one 0 with calls := [(5, { Call.free with state := 1, gen := 7 })] } 5 7).1 (by decide) (by decide)
  exact ⟨⟨x, k⟩, ⟨_, (h.2.1 answered 5 6).2 (Or.inl (by decide))⟩⟩
theorem witness_Irq (h : Obligations.CallsAndMessages) : Runs (.irq 1 2047) (one 3) := by
  obtain ⟨_, k, _⟩ := h.2.2 (one 3) 0 0 _ unit 1 2047 (acting_one 3) (ready_of rfl (by decide)) (by decide)
  exact ⟨_, k⟩

/-- The unit of `one`, with its launch. -/
def launched : State := { one 0 with launches := [(9, launch)] }
theorem witness_Levels (h : Obligations.Levels) :
    Runs (.lvlRd 3 4) launched ∧ Runs (.lvlCancel 3 0) launched ∧ Runs (.lvlRd 3 5) launched := by
  have a : Acting launched 0 0 (team [(1, 0)]) unit := acting_of rfl slot0 rfl rfl
  obtain ⟨x, _, _, _, k, _⟩ := ((h.1 launched 0 0 _ unit launch 3 0 a rfl).1 (by decide) (ready_of rfl (by decide))).2 rfl
  exact ⟨⟨_, ((h.1 launched 0 0 _ unit launch 3 4 a rfl).1 (by decide) (ready_of rfl (by decide))).1⟩, ⟨x, k⟩,
    ⟨_, ((h.1 launched 0 0 _ unit launch 3 5 a rfl).2 (by decide)).1⟩⟩
/-- A matrix program of that launch. -/
def launchedProg : State := { runsProg (prog []) with launches := [(9, launch)] }
theorem witness_LevelsProg (h : Obligations.Levels) :
    Runs (.lvlRd 3 4) launchedProg ∧ Runs (.lvlCancel 3 1) launchedProg ∧ Runs (.lvlRd 3 0) launchedProg := by
  have a : ActingProg launchedProg 0 0 (prog []) := And.intro rfl (And.intro (by decide) rfl)
  obtain ⟨x, _, k, _⟩ := ((h.2 launchedProg 0 0 _ launch 3 1 a rfl).1 (by decide) (by decide) (ready_of rfl (by decide))).2
  exact ⟨⟨_, ((h.2 launchedProg 0 0 _ launch 3 4 a rfl).1 (by decide) (by decide) (ready_of rfl (by decide))).1⟩, ⟨x, k⟩,
    ⟨_, ((h.2 launchedProg 0 0 _ launch 3 0 a rfl).2 (Or.inl rfl)).1⟩⟩

/-! Barriers: barrier 7 is the unit's last, count 2, with one arrival. -/

def barred : UnitRec := { unit with bars := [(7, ⟨2, 1, false, false⟩)] }
def barTeam : Team := team [(1, 0x00070000), (2, 1)]
def atBar (u : UnitRec) : State := acts barTeam u
theorem names_seven (u : UnitRec) (h : u.need.bars = 8) : NamesBarrier (atBar u) barTeam u 0x00070000 7 1 u 7 :=
  And.intro rfl (And.intro (by
    show (if 7 < 512 then (if 7 < u.need.bars then Except.ok (1, u, 7) else Except.error 1) else _) = _
    rw [h]; rfl) rfl)
theorem witness_Barriers (h : Obligations.Barriers) :
    Runs (.barArrive 1) (atBar barred) ∧ Runs (.barArrwait 1) (atBar barred) ∧ Runs (.barQuery 3 1) (atBar barred) := by
  obtain ⟨k1, _, _, k4⟩ := h.1 (atBar barred) 0 0 barTeam barred 1 2 3 7 1 7 barred (acting_acts _ _ rfl) rfl (names_seven _ rfl)
  obtain ⟨k1a, _, k1c⟩ := k1 (ready_of rfl (by decide)) rfl (by decide) (by decide) (by decide)
  obtain ⟨x, _, k, _⟩ := k1c rfl rfl
  obtain ⟨y, l, _⟩ := k1a rfl
  exact ⟨⟨y, l⟩, ⟨x, k⟩, ⟨_, k4 (ready_of rfl (by decide))⟩⟩
def flipped : UnitRec := { unit with bars := [(7, ⟨2, 0, true, false⟩)] }
theorem witness_Barriers_passed (h : Obligations.Barriers) :
    Runs (.barWait 1) (atBar flipped) ∧ Runs (.barInit 1 2) (atBar flipped) := by
  obtain ⟨_, k2, k3, _⟩ := h.1 (atBar flipped) 0 0 barTeam flipped 1 2 3 7 1 7 flipped (acting_acts _ _ rfl) rfl
    (names_seven _ rfl)
  exact ⟨⟨_, k2 (ready_of rfl (by decide)) (by decide)⟩,
    ⟨_, k3 (ready_of rfl (by decide)) rfl rfl (by decide) (by decide) (by decide)⟩⟩
def hasArrived : Team := { barTeam with th := { barTeam.th with stage := [(0x1000, .arrived 1 7 false)] } }
theorem witness_Barriers_arrwait (h : Obligations.Barriers) : Runs (.barArrwait 1) (acts hasArrived flipped) :=
  ⟨_, h.2.1 (acts hasArrived flipped) 0 0 hasArrived flipped 1 1 7 false flipped (acting_acts _ _ rfl) rfl rfl (by decide)⟩
/-- Unit 2 is the other member of unit 1's gang and holds the gang's barriers. -/
def ganged : State := { atBar { barred with gang := 4, member := 1, gangSize := 2 } with
  units := [(1, { barred with gang := 4, member := 1, gangSize := 2 }), (2, { barred with gang := 4, gangSize := 2, core := 1 })]
  teams := [(0, { barTeam with th := thr [(1, 0x02070000)] })], gangArr := [(50, ⟨2, 7⟩)] }
theorem witness_Barriers_gang (h : Obligations.Barriers) :
    Runs (.barArrive 1) ganged ∧ Runs (.gangBarrierArrival 50) ganged := by
  obtain ⟨k1, _⟩ := h.1 ganged 0 0 { barTeam with th := thr [(1, 0x02070000)] } { barred with gang := 4, member := 1, gangSize := 2 }
    1 2 3 519 2 7 { barred with gang := 4, gangSize := 2, core := 1 } (acting_of rfl slot0 rfl rfl) rfl
    (And.intro (by decide) (And.intro rfl rfl))
  obtain ⟨x, _, k, _⟩ := (h.2.2 ganged 50 ⟨2, 7⟩ _ rfl rfl).2 rfl (by decide) (by decide)
  exact ⟨⟨_, (k1 (ready_of rfl (by decide)) rfl (by decide) (by decide) (by decide)).2.1 (by decide)⟩, ⟨x, k⟩⟩

theorem witness_BarrierTraps_range (h : Obligations.BarrierTraps) :
    barrierOf (one 0) 1 unit 511 = .error 1 ∧ barrierOf (one 0) 1 unit 512 = .error 6 := by
  have k := h.1 (one 0) 1 unit 511 (by decide)
  rw [if_neg (by decide)] at k
  exact ⟨k, h.2.1 (one 0) 1 unit 512 (by decide) rfl⟩
theorem witness_BarrierTraps_named (h : Obligations.BarrierTraps) : Runs (.barWait 1) (one 0x00080000) :=
  ⟨_, h.2.2.1 (one 0x00080000) 0 0 _ unit 1 2 8 1 (acting_one _) rfl (ready_of rfl (by decide)) rfl (by decide) rfl
    (.barWait 1) (Or.inr (Or.inl rfl))⟩
def claimedBar : UnitRec := { unit with bars := [(7, ⟨0, 0, false, true⟩)] }
def busyBar : UnitRec := { unit with bars := [(7, ⟨3, 1, false, false⟩)] }
theorem witness_BarrierTraps_states (h : Obligations.BarrierTraps) :
    Runs (.barArrive 1) (atBar claimedBar) ∧ Runs (.barArrive 1) (atBar unit) ∧ Runs (.barInit 1 2) (atBar busyBar) := by
  have k1 := h.2.2.2 (atBar claimedBar) 0 0 barTeam claimedBar 1 2 7 1 7 claimedBar (acting_acts _ _ rfl) rfl
    (ready_of rfl (by decide)) rfl (names_seven _ rfl)
  have k2 := h.2.2.2 (atBar unit) 0 0 barTeam unit 1 2 7 1 7 unit (acting_acts _ _ rfl) rfl (ready_of rfl (by decide)) rfl
    (names_seven _ rfl)
  have k3 := h.2.2.2 (atBar busyBar) 0 0 barTeam busyBar 1 2 7 1 7 busyBar (acting_acts _ _ rfl) rfl
    (ready_of rfl (by decide)) rfl (names_seven _ rfl)
  exact ⟨⟨_, (k1.1 rfl).1⟩, ⟨_, (k2.2.1 rfl rfl).1⟩, ⟨_, k3.2.2.1 rfl (Or.inl (by decide))⟩⟩
theorem witness_BarrierTraps_count (h : Obligations.BarrierTraps) :
    Runs (.barInit 1 3) (atBar unit) ∧ Runs (.barInit 1 2) (acts (team [(1, 0x00070000), (2, 0x80000000)]) unit) := by
  have k := h.2.2.2 (atBar unit) 0 0 barTeam unit 1 3 7 1 7 unit (acting_acts _ _ rfl) rfl (ready_of rfl (by decide)) rfl
    (names_seven _ rfl)
  have k2 := h.2.2.2 (acts (team [(1, 0x00070000), (2, 0x80000000)]) unit) 0 0 _ unit 1 2 7 1 7 unit (acting_acts _ _ rfl) rfl
    (ready_of rfl (by decide)) rfl (And.intro rfl (And.intro rfl rfl))
  exact ⟨⟨_, k.2.2.2 rfl rfl (by decide) (Or.inl (by decide))⟩, ⟨_, k2.2.2.2 rfl rfl (by decide) (Or.inr (by decide))⟩⟩

/-! Tags 0 to 3: tag 0 idle, tag 2 ready, tag 3 with a command out. -/

def tagged : UnitRec := { unit with tags := [(2, ⟨0, true, 64, false, false⟩), (3, ⟨1, false, 0, false, false⟩)] }
def atTags (v : Word64) : State := acts (team [(1, v)]) tagged
theorem acting_tags (v : Word64) : Acting (atTags v) 0 0 (team [(1, v)]) tagged := acting_acts _ _ rfl
theorem witness_Tags_ready (h : Obligations.Tags) :
    Runs (.tagWall 1) (atTags 4) ∧ Runs (.tagWany 3 1) (atTags 12) ∧ Runs (.tagFfr 3 1) (atTags 12) := by
  have k1 := (h (atTags 4) 0 0 _ tagged 1 3 (acting_tags 4) (ready_of rfl (by decide))).1
  have k2 := (h (atTags 12) 0 0 _ tagged 1 3 (acting_tags 12) (ready_of rfl (by decide))).1
  have e1 : TagsExist tagged 4 := show ∀ j, j < 64 → (4 : Word64).getLsbD j = true → j < 4 by decide
  have e2 : TagsExist tagged 12 := show ∀ j, j < 64 → (12 : Word64).getLsbD j = true → j < 4 by decide
  exact ⟨⟨_, (k1 e1).1 (by decide)⟩, ⟨_, ((k2 e2).2.1 2 (by decide)).1.1⟩, ⟨_, ((k2 e2).2.1 2 (by decide)).2⟩⟩
theorem witness_Tags_none (h : Obligations.Tags) :
    Runs (.tagFfr 3 1) (atTags 9) ∧ Runs (.tagWany 3 1) (atTags 1) ∧ Runs (.tagWall 1) (atTags 1) ∧ Runs (.tagClr 1) (atTags 5) ∧
      Runs (.tagClr 1) (atTags 8) := by
  have e (v : Word64) (k : ∀ j, j < 64 → v.getLsbD j = true → j < 4) : TagsExist tagged v := k
  have k1 := (h (atTags 9) 0 0 _ tagged 1 3 (acting_tags 9) (ready_of rfl (by decide))).1 (e 9 (by decide))
  have k2 := (h (atTags 1) 0 0 _ tagged 1 3 (acting_tags 1) (ready_of rfl (by decide))).1 (e 1 (by decide))
  have k3 := (h (atTags 5) 0 0 _ tagged 1 3 (acting_tags 5) (ready_of rfl (by decide))).1 (e 5 (by decide))
  have k4 := (h (atTags 8) 0 0 _ tagged 1 3 (acting_tags 8) (ready_of rfl (by decide))).1 (e 8 (by decide))
  obtain ⟨_, ⟨r, _⟩, _⟩ := k3.2.2.2.2.2.2.2.1 (by decide)
  exact ⟨⟨_, k1.2.2.1 (by decide)⟩, ⟨_, k2.2.2.2.1 (by decide) (by decide)⟩, ⟨_, k2.2.2.2.2.2.2.1 0 (by decide)⟩, ⟨_, r⟩,
    ⟨_, k4.2.2.2.2.2.2.2.2 3 (by decide)⟩⟩
theorem witness_Tags_wait (h : Obligations.Tags) : Runs (.tagWany 3 1) (atTags 8) ∧ Runs (.tagWall 1) (atTags 12) := by
  have e (v : Word64) (k : ∀ j, j < 64 → v.getLsbD j = true → j < 4) : TagsExist tagged v := k
  have k1 := (h (atTags 8) 0 0 _ tagged 1 3 (acting_tags 8) (ready_of rfl (by decide))).1 (e 8 (by decide))
  have k2 := (h (atTags 12) 0 0 _ tagged 1 3 (acting_tags 12) (ready_of rfl (by decide))).1 (e 12 (by decide))
  exact ⟨⟨_, k1.2.2.2.2.1 3 (by decide) (by decide)⟩, ⟨_, k2.2.2.2.2.2.1 3 (by decide) (by decide)⟩⟩
theorem witness_Tags_range (h : Obligations.Tags) :
    Runs (.tagWall 1) (atTags 16) ∧ Runs (.tagRead 3 1) (atTags 3) ∧ Runs (.tagRead 3 1) (atTags 4) := by
  have k1 := (h (atTags 16) 0 0 _ tagged 1 3 (acting_tags 16) (ready_of rfl (by decide))).2.1
  have k2 := (h (atTags 3) 0 0 _ tagged 1 3 (acting_tags 3) (ready_of rfl (by decide))).2.2.1
  have k3 := (h (atTags 4) 0 0 _ tagged 1 3 (acting_tags 4) (ready_of rfl (by decide))).2.2.2
  exact ⟨⟨_, k1 4 (by decide) (.tagWall 1) (Or.inl rfl)⟩, ⟨_, k2 (by decide)⟩, ⟨_, k3 (by decide)⟩⟩

/-! Windows: identifier 0 is bound to a scratchpad tensor of 2 x 4 tiles. -/

def plane : Tensor := ⟨0, 4, 2, false, false, 2, 0, 0, 0, [16, 2, 1, 1], [16, 0, 0], 0, 0, 1⟩
def boundUnit : UnitRec := { unit with tids := [(0, ⟨some plane, 0, false⟩)] }
theorem witness_WinCfg (h : Obligations.Windows) :
    Runs (.winCfg 1 2) (one 1) ∧ Runs (.winCfg 1 2) (acts (team [(1, 1), (2, 0x0000000000010100)]) boundUnit) := by
  obtain ⟨x, _, k, _⟩ := ((h (one 1) 0 0 _ unit 1 2 3 (acting_one 1) (ready_of rfl (by decide))).1 (by decide) (by decide)
    (by decide) (by decide) (by decide)).1 (by decide) (by decide)
  obtain ⟨y, _, l, _⟩ := ((h (acts (team [(1, 1), (2, 0x0000000000010100)]) boundUnit) 0 0 _ boundUnit 1 2 3
    (acting_acts _ _ rfl) (ready_of rfl (by decide))).1 (by decide) (by decide) (by decide) (by decide) (by decide)).2
    ⟨some plane, 0, false⟩ (by decide) rfl rfl plane rfl (by decide)
  exact ⟨⟨x, k⟩, ⟨y, l⟩⟩
/-- Window 0 has one LANDED slot, window 1 one ARMED. -/
def winUnit : UnitRec := { unit with windows :=
  [(0, ⟨0, 0, 1, 2, 0, false, 2, 4, 0, 0, 1, [(0, .landed)]⟩), (1, ⟨0, 2, 1, 1, 0, false, 2, 4, 256, 0, 0, [(0, .armed)]⟩)] }
theorem witness_Windows (h : Obligations.Windows) :
    Runs (.winRel 1 2) (acts (team []) winUnit) ∧ Runs (.winQry 3 1) (acts (team []) winUnit) ∧
      Runs (.winWaita 1) (acts (team [(1, 1)]) unit) ∧ Runs (.winWaita 1) (acts (team [(1, 1)]) winUnit) ∧ Runs (.winRel 1 2) (acts (team [(1, 1)]) winUnit) ∧
      Runs (.winRel 1 2) (acts (team [(2, 2)]) winUnit) := by
  obtain ⟨_, k2, _, _, _, _, k7, _⟩ := h (acts (team []) winUnit) 0 0 _ winUnit 1 2 3 (acting_acts _ _ rfl)
    (ready_of rfl (by decide))
  obtain ⟨_, _, l3, _, _, _, _, _, k9, _⟩ := h (acts (team [(1, 1)]) winUnit) 0 0 _ winUnit 1 2 3 (acting_acts _ _ rfl)
    (ready_of rfl (by decide))
  obtain ⟨_, _, _, _, m5, _⟩ := h (acts (team [(2, 2)]) winUnit) 0 0 _ winUnit 1 2 3 (acting_acts _ _ rfl)
    (ready_of rfl (by decide))
  obtain ⟨_, _, _, _, _, _, _, n8, _⟩ := h (acts (team [(1, 1)]) unit) 0 0 _ unit 1 2 3 (acting_acts _ _ rfl)
    (ready_of rfl (by decide))
  exact ⟨⟨_, (k2 (by decide) (by decide) (by decide) (by decide)).2 (by decide)⟩, ⟨_, k7 (by decide)⟩,
    ⟨_, n8 (by decide) (by decide)⟩, ⟨_, k9 (by decide) (by decide)⟩,
    ⟨_, l3 (by decide) (by decide) (by decide) (by decide) (by decide)⟩, ⟨_, m5 (by decide) (by decide) (by decide)⟩⟩
theorem witness_Windows_traps (h : Obligations.Windows) :
    Runs (.winRel 1 2) (one 1) ∧ Runs (.winQry 3 1) (one 2) ∧ Runs (.winRel 1 2) (acts (team [(2, 1)]) winUnit) := by
  obtain ⟨_, _, _, k4, _⟩ := h (one 1) 0 0 _ unit 1 2 3 (acting_one 1) (ready_of rfl (by decide))
  obtain ⟨_, _, _, _, _, _, _, _, _, k9⟩ := h (one 2) 0 0 _ unit 1 2 3 (acting_one 2) (ready_of rfl (by decide))
  obtain ⟨_, _, _, _, _, k6, _⟩ := h (acts (team [(2, 1)]) winUnit) 0 0 _ winUnit 1 2 3 (acting_acts _ _ rfl)
    (ready_of rfl (by decide))
  exact ⟨⟨_, k4 (by decide) (by decide)⟩, ⟨_, (k9 (by decide)).2.2.1⟩, ⟨_, k6 (by decide) (by decide) (by decide)⟩⟩

/-- The descriptor of `plane`, at scratchpad offset 64. -/
def planeBytes : List Byte := ([0x0000000400020100, 0, 0x0000000200000010, 0x0000000100000001, 16, 0, 0, 0] : List Word64).flatMap
  (wordBytes 8)
def described (bs : List Byte) : State := { acts (team [(1, 7), (2, 64)]) unit with
  mem := { State.reset.mem with spad := (List.range bs.length).map (fun j => (spadKey 0 (unit.spadOff (64 + j)), bs.getD j 0)) } }
theorem witness_Identifiers (h : Obligations.Identifiers) :
    Runs (.tidQry 3 1) (described planeBytes) ∧ Runs (.tidInv 1) (described planeBytes) ∧
      Runs (.tidBinds 1 2) (described planeBytes) := by
  obtain ⟨k1, k2⟩ := (h (described planeBytes) (thr [(1, 7), (2, 64)]) 1 2 3 slot0
    (ready_of rfl (by decide))).1 (by decide)
  obtain ⟨⟨x, k3, _⟩, k4⟩ := k2.2 (by decide) (by decide) (by decide)
  obtain ⟨y, k5, _⟩ := (k4 1 unit rfl (fun _ _ e => by cases e; decide) (passes_of (by decide)) (by decide) (by decide)
    (by decide) (by decide)).1 (by decide)
  exact ⟨⟨_, k1⟩, ⟨x, k3⟩, ⟨y, k5⟩⟩
/-- A unit of which an operation holds identifier 0. -/
def heldUnit : UnitRec := { unit with tids := [(0, ⟨some plane, 1, false⟩)] }
theorem witness_Identifiers_waits (h : Obligations.Identifiers) : Runs (.tidInv 1) (acts (team []) heldUnit) :=
  ⟨_, (((h (acts (team []) heldUnit) (thr []) 1 2 3 slot0 (ready_of rfl (by decide))).1 (by decide)).2.1 (Or.inl (by decide))
    (fun _ n => Wait.noConfusion n))⟩
theorem witness_Identifiers_bad (h : Obligations.Identifiers) :
    Runs (.tidBinds 1 2) (described []) ∧ Runs (.tidInv 1) (one 8) := by
  obtain ⟨_, k2⟩ := (h (described []) (thr [(1, 7), (2, 64)]) 1 2 3 slot0
    (ready_of rfl (by decide))).1 (by decide)
  have k5 := ((k2.2 (by decide) (by decide) (by decide)).2 1 unit rfl (fun _ _ e => by cases e; decide) (passes_of (by decide)) (by decide) (by decide) (by decide) (by decide)).2 (by decide)
  have k := (h (one 8) (thr [(1, 8)]) 1 2 3 slot0 (ready_of rfl (by decide))).2.2 (by decide) rfl
    (.tidInv 1) (Or.inr (Or.inr (Or.inl rfl)))
  exact ⟨⟨_, k5⟩, ⟨_, k⟩⟩
def binding : Team := { team [(1, 7), (2, 0x5000)] with th := { thr [(1, 7), (2, 0x5000)] with stage := [(0x1000, .reading 60)] } }
def readIn : State := { acts binding unit with
  reqs := [(61, { Req.make .bind 60 (.team 0 0) 0 1 0x5000 64 false with st := .arrived, data := planeBytes, dest := 7 * 64 })] }
theorem witness_Identifiers_bindf (h : Obligations.Identifiers) : Runs (.tidBindf 1 2) readIn := by
  obtain ⟨x, k, _⟩ := (h readIn binding.th 1 2 3 slot0 (ready_of rfl (by decide))).2.1 60
    (61, { Req.make .bind 60 (.team 0 0) 0 1 0x5000 64 false with st := .arrived, data := planeBytes, dest := 7 * 64 }) [] rfl
    rfl (by decide) (by decide) (by decide) (by decide)
  exact ⟨x, k⟩

/-! Engine commands: identifier 0 is a far tensor, 1 the scratchpad tensor `plane`. -/

def farPlane : Tensor := { plane with loc := 1, base := 0x10000, unit := 0 }
def engineUnit : UnitRec := { unit with
  tids := [(0, ⟨some farPlane, 0, false⟩), (1, ⟨some plane, 0, false⟩), (2, ⟨some { plane with base := 1024 }, 0, false⟩)]
  windows := [(0, ⟨0, 2, 1, 1, 0, false, 2, 4, 512, 0, 1, []⟩)] }
def engine (g : FMap Word64) : State := acts (team g) engineUnit
theorem acting_engine (g : FMap Word64) : Acting (engine g) 0 0 (team g) engineUnit := acting_acts _ _ rfl
theorem bound_of {s : State} {id : Nat} {d : Tensor} (h : (decide (id < (tidTable s s.cur).1) &&
    !(tidEntry s s.cur id).binding && decide ((tidEntry s s.cur id).snap = some d)) = true) : Bound s id d := by
  simp only [Bool.and_eq_true, decide_eq_true_eq, Bool.not_eq_true'] at h
  exact And.intro h.1.1 (And.intro h.1.2 h.2)
theorem room_of {t : Team} {u : UnitRec} {n : Nat} (h : (decide (n < u.need.tags) && decide (t.opLog.length < 16) &&
    decide ((u.tags.look Tag.zero n).out < 255)) = true) : TagRoom t u n := by
  simp only [Bool.and_eq_true, decide_eq_true_eq] at h
  exact And.intro h.1.1 (And.intro h.1.2 h.2)
theorem no_tag_waits {s : State} {t : Team} (v : Nat) (h : s.teams = [(0, t)]) (k : t.th.wait = .none) : NoTagWaits s v := by
  intro e m _ x y z
  rw [h] at m
  obtain rfl := List.mem_singleton.1 m
  rw [k]
  exact fun n => Wait.noConfusion n
theorem view_far {s : State} {d : Tensor} (h : d.loc ≠ 2) : ViewHolds s d := fun k => absurd k h

theorem witness_Wpost (h : Obligations.TaggedCommands) : Runs (.wpost 1 2 4 1) (engine [(2, 0x30100)]) := by
  obtain ⟨x, k, _⟩ := (h (engine [(2, 0x30100)]) 0 0 _ engineUnit (acting_engine _) rfl (no_tag_waits _ rfl rfl)).1 1 2 4 1 farPlane plane (by decide)
    (ready_of rfl (by decide)) (room_of (by decide)) (by decide) (bound_of (by decide)) (bound_of (by decide)) rfl rfl rfl rfl (by decide)
    (by decide) (by decide)
  exact ⟨x, k⟩
theorem witness_Cpy (h : Obligations.TaggedCommands) :
    Runs (.cpy 1 2 3 4 1 1) (engine [(1, 0x100)]) ∧ Runs (.cpy 1 2 3 1 0 0) (engine [(1, 0x1)]) := by
  have k (g : FMap Word64) := (h (engine g) 0 0 _ engineUnit (acting_engine _) rfl (no_tag_waits _ rfl rfl)).2.1
  obtain ⟨x, k1, _⟩ := k [(1, 0x100)] 1 2 3 4 1 1 farPlane plane (by decide) (ready_of rfl (by decide)) (room_of (by decide)) (by decide)
    (bound_of (by decide)) (bound_of (by decide)) (view_far (by decide)) (by decide) rfl rfl rfl rfl (by decide) (by decide)
    (by decide)
  obtain ⟨y, k2, _⟩ := k [(1, 0x1)] 1 2 3 1 0 0 plane farPlane (by decide) (ready_of rfl (by decide)) (room_of (by decide)) (by decide)
    (bound_of (by decide)) (bound_of (by decide)) (view_far (by decide)) (by decide) rfl rfl rfl rfl (by decide) (by decide)
    (by decide)
  exact ⟨⟨x, k1⟩, ⟨y, k2⟩⟩
theorem witness_Ratm (h : Obligations.TaggedCommands) : Runs (.ratm 1 2 3 4 0 1 0xD) (engine [(1, 4088), (2, 0x40)]) := by
  obtain ⟨x, k, _⟩ := (h (engine [(1, 4088), (2, 0x40)]) 0 0 _ engineUnit (acting_engine _) rfl (no_tag_waits _ rfl rfl)).2.2 1 2 3 4 0 1 0xD (by decide)
    (by decide) (ready_of rfl (by decide)) (room_of (by decide)) (by decide) (passes_of (by decide)) (by decide)
  exact ⟨x, k⟩
theorem witness_FetchPosts (h : Obligations.FetchPosts) : Runs (.fpost 3 1 2 4 1) (engine []) := by
  obtain ⟨x, _, _, _, k, _⟩ := h (engine []) 0 0 _ engineUnit 3 1 2 4 1 farPlane 0 (acting_engine _) rfl (by decide)
    (ready_of rfl (by decide)) (by decide) (by decide) (bound_of (by decide)) (Or.inl rfl) (view_far (by decide)) rfl rfl rfl rfl
    (by decide) (by decide) (by decide) (by decide) (by decide) (by decide) (by decide) (by decide)
    (fun _ k => absurd k (Nat.not_lt_zero _))
    (And.intro (fun _ k => nomatch k) (fun _ k => nomatch k))
  exact ⟨x, k⟩

/-- A scratchpad that holds the given words from offset 0. -/
def holding (ws : List Word64) : State :=
  let bs := ws.flatMap (wordBytes 8)
  { one 0 with mem := { State.reset.mem with
      spad := (List.range bs.length).map (fun j => (spadKey 0 (unit.spadOff j), bs.getD j 0)) } }
theorem witness_Mfill (h : Obligations.Chains) : Runs (.mfill 1) (holding [0x0000004010000000, 0x55, 0x20000, 1]) := by
  obtain ⟨x, k, _⟩ := (h (holding [0x0000004010000000, 0x55, 0x20000, 1]) 0 0 _ unit 1 false (acting_of rfl slot0 rfl rfl)
    rfl (ready_of rfl (by decide)) (no_tag_waits _ rfl rfl) (by decide) (passes_of (by decide)) (by decide) (by decide) (by decide) (by decide)).1
    (by decide) (room_of (by decide))
  exact ⟨x, k⟩
theorem witness_Mred (h : Obligations.Chains) : Runs (.mred 1) (holding [0x0000004020010400, 0, 0x10000, 0, 0x20000, 1]) := by
  obtain ⟨x, k, _⟩ := (h (holding [0x0000004020010400, 0, 0x10000, 0, 0x20000, 1]) 0 0 _ unit 1 true
    (acting_of rfl slot0 rfl rfl) rfl (ready_of rfl (by decide)) (no_tag_waits _ rfl rfl) (by decide) (passes_of (by decide)) (by decide) (by decide) (by decide)
    (by decide)).1 (by decide) (room_of (by decide))
  exact ⟨x, k⟩
theorem witness_Chains_bad (h : Obligations.Chains) : Runs (.mred 1) (holding []) :=
  ⟨_, (h (holding []) 0 0 _ unit 1 true (acting_of rfl slot0 rfl rfl) rfl (ready_of rfl (by decide))
    (no_tag_waits _ rfl rfl) (by decide) (passes_of (by decide)) (by decide) (by decide) (by decide) (by decide)).2 (by decide)⟩

/-! A matrix program that holds bank 31 and is bound to unit 1; identifier 0 is `plane`. -/

def mxCluster : Cluster := { Cluster.idle with banks := [(31, ⟨.held, 0, 9⟩)], binding := some ⟨0, 1, 0, false, 1, false⟩ }
def mxProg (g : FMap Word64) : Prog := { prog g with tids := [(0, ⟨some plane, 0, false⟩)] }
def matrix (g : FMap Word64) : State := { runsProg (mxProg g) with clusters := [(0, mxCluster)] }
theorem acting_matrix (g : FMap Word64) : ActingProg (matrix g) 0 0 (mxProg g) := And.intro rfl (And.intro (by decide) rfl)
theorem witness_MxMul (h : Obligations.MatrixOperations) : Runs (.mxMul 1 2 3) (matrix [(3, 0x017CFF00)]) := by
  obtain ⟨x, k, _⟩ := (h (matrix [(3, 0x017CFF00)]) 0 0 _ (acting_matrix _) (by decide)).1 1 2 3
    ⟨false, 0, plane, Tensor.none, 0, 0, false⟩ ⟨true, 0xFF, Tensor.none, Tensor.none, 0, 1, false⟩ (ready_of rfl (by decide))
    (by decide) (by decide)
    (Or.inr (And.intro (by decide) ⟨plane, plane, bound_of (by decide), by decide, Or.inl rfl, view_far (by decide), by decide,
      by decide, by decide, rfl⟩))
    (Or.inl (And.intro (by decide) ⟨⟨0, 1, 0, false, 1, false⟩, rfl, rfl⟩)) (by decide)
  exact ⟨x, k⟩
theorem witness_MxZero_MxDrain (h : Obligations.MatrixOperations) :
    Runs (.mxZero 1) (matrix [(1, 127)]) ∧ Runs (.mxDrain 1) (matrix [(1, 124)]) := by
  obtain ⟨x, k, _⟩ := ((h (matrix [(1, 127)]) 0 0 _ (acting_matrix _) (by decide)).2.1 1 (ready_of rfl (by decide)) (by decide)).1
  obtain ⟨y, l, _⟩ := ((h (matrix [(1, 124)]) 0 0 _ (acting_matrix _) (by decide)).2.1 1 (ready_of rfl (by decide)) (by decide)).2
    rfl
  exact ⟨⟨x, k⟩, ⟨y, l⟩⟩
theorem witness_MxStore (h : Obligations.MatrixOperations) : Runs (.mxStore 1 2 3) (matrix [(1, 124)]) := by
  obtain ⟨x, k, _⟩ := (h (matrix [(1, 124)]) 0 0 _ (acting_matrix _) (by decide)).2.2 1 2 3 plane unit (ready_of rfl (by decide))
    (by decide) (bound_of (by decide)) rfl (by decide) (by decide) (by decide) rfl (by decide) (fun k => absurd k (by decide))
  exact ⟨x, k⟩
theorem witness_MxAlloc (h : Obligations.MatrixControl) : Runs (.mxAlloc 3) (matrix []) := by
  obtain ⟨x, _, k, _⟩ := (h (matrix []) 0 0 _ (acting_matrix _)).1 3 0 (ready_of rfl (by decide)) rfl (by decide) (by decide)
    (fun _ k => absurd k (Nat.not_lt_zero _))
  exact ⟨x, k⟩
def zeroedProg : Prog := { prog [] with th := { thr [] with stage := [(0x1000, .zeroing 31)] } }
theorem witness_MxAlloc_zeroed (h : Obligations.MatrixControl) :
    Runs (.mxAlloc 3) { runsProg zeroedProg with clusters := [(0, mxCluster)] } :=
  ⟨_, (h { runsProg zeroedProg with clusters := [(0, mxCluster)] } 0 0 zeroedProg (And.intro rfl (And.intro (by decide) rfl))).2.1 3 31
    (ready_of rfl (by decide)) rfl (by decide)⟩
theorem witness_MxFree (h : Obligations.MatrixControl) : Runs (.mxFree 1) (matrix [(1, 31)]) := by
  obtain ⟨x, _, k, _⟩ := (h (matrix [(1, 31)]) 0 0 _ (acting_matrix _)).2.2.1 1 (ready_of rfl (by decide)) rfl (by decide) (by decide)
  exact ⟨x, k⟩
theorem witness_MxWait (h : Obligations.MatrixControl) : Runs (.mxWait 1) (matrix [(1, 0x80070000)]) :=
  ⟨_, (h (matrix [(1, 0x80070000)]) 0 0 _ (acting_matrix _)).2.2.2.1 1 ⟨0, 1, 0, false, 1, false⟩ unit 1 unit 7
    (ready_of rfl (by decide)) rfl rfl rfl rfl (by decide)⟩
theorem witness_MxCfg (h : Obligations.MatrixControl) :
    Runs (.mxCfg 1) (matrix []) ∧ Runs (.mxCfg 1) (matrix [(1, 0x8000000000000100)]) := by
  obtain ⟨x, _, k, _⟩ := ((h (matrix []) 0 0 _ (acting_matrix _)).2.2.2.2 1 (ready_of rfl (by decide)) (by decide)).1 (by decide) rfl
  obtain ⟨y, _, l, _⟩ := ((h (matrix [(1, 0x8000000000000100)]) 0 0 _ (acting_matrix _)).2.2.2.2 1 (ready_of rfl (by decide))
    (by decide)).2 1 unit (by decide) (by decide) (by decide) (by decide) (by decide) rfl rfl
  exact ⟨⟨x, k⟩, ⟨y, l⟩⟩

/-! Lane instructions: the head of the queue is any entry with nothing captured; only lane 0 is live. -/

def entry : LaneEntry := ⟨[], 0x2000, 0, [], 0, 0⟩
def laneTeam : Team := { team [] with queue := [entry], k := [(0, 1)], v := [(1, ⟨8, 0⟩), (2, ⟨3, 0⟩)] }
def laneState : State := acts laneTeam unit
theorem acting_lane : Acting laneState 0 0 laneTeam unit := acting_acts _ _ rfl
def laneHead (op : Nat) (w : LaneWord) : Pass := passOf laneState 0 0 laneTeam unit entry op w
theorem head_of {op : Nat} {w : LaneWord} (h : ((laneHead op w).emptyTrap == none && (laneHead op w).portTrap laneState == none &&
    !(laneHead op w).sourceEmpty && !(laneHead op w).destBusy && (laneHead op w).portDst == none) = true) :
    HeadPasses laneState (laneHead op w) [] := by
  simp only [Bool.and_eq_true, Bool.not_eq_true', beq_iff_eq] at h
  exact And.intro (by decide : laneTeam.th.tcause.getLsbD 63 = false) (And.intro rfl (And.intro h.1.1.1.1 (And.intro h.1.1.1.2 (And.intro h.1.1.2 (And.intro h.1.2
    (fun p k => by rw [h.2] at k; cases k))))))
theorem witness_LanePasses (h : Obligations.LanePasses) :
    Runs (.iadd (word 0 0 2)) laneState ∧ Runs (.rng (word 1 0 3)) laneState ∧
      Runs (.mov { word 0 0 1 with dst := 0x40 }) laneState := by
  obtain ⟨x, _, k, _⟩ := h laneState 0 0 laneTeam unit entry [] (.iadd (word 0 0 2)) 1 (word 0 0 2) acting_lane rfl (by decide +kernel)
    (head_of (by decide +kernel))
  obtain ⟨y, _, l, _⟩ := h laneState 0 0 laneTeam unit entry [] (.rng (word 1 0 3)) 0x70 (word 1 0 3) acting_lane rfl
    (by decide +kernel) (head_of (by decide +kernel))
  obtain ⟨z, _, m, _⟩ := h laneState 0 0 laneTeam unit entry [] (.mov { word 0 0 1 with dst := 0x40 }) 0 _ acting_lane rfl
    (by decide +kernel) (head_of (by decide +kernel))
  exact ⟨⟨x, k⟩, ⟨y, l⟩, ⟨z, m⟩⟩
theorem witness_IntegerLanes (h : Obligations.IntegerLanes) (x : LaneEnv) :
    (laneFn 0x1E x ⟨7, 0, 0, 0⟩).vals = [BitVec.allOnes 32] :=
  (h x 7 0 0 0 0x1E).2.2.2.1 _ (by rfl)
/-- IDIV by 0 sets V; the byte -128 plus -128 saturates to -128; IADD gives one value. -/
theorem witness_IntegerLanes_codes (h : Obligations.IntegerLanes) :
    (laneFn 0x1E ⟨word 0 0 2, 0, 0, 0, 0⟩ ⟨7, 0, 0, 0⟩).cc.getLsbD 0 = true ∧
    (∃ r, (laneFn 0x01 ⟨word 6 1 2, 0, 0, 0, 0⟩ ⟨0x80, 0x80, 0, 0⟩).vals = [r] ∧ r.extractLsb' 0 8 = 0x80#8) ∧
    ∃ r, (laneFn 0x01 ⟨word 0 0 2, 0, 0, 0, 0⟩ ⟨7, 0, 0, 0⟩).vals = [r] := by
  obtain ⟨r, k, _⟩ := (h ⟨word 0 0 2, 0, 0, 0, 0⟩ 7 0 0 0 0x01).1 (by decide) (by decide)
  exact ⟨((h ⟨word 0 0 2, 0, 0, 0, 0⟩ 7 0 0 0 0x1E).2.2.1 (by decide) (by decide) (by decide) (Or.inl (by decide))).2,
    (h ⟨word 6 1 2, 0, 0, 0, 0⟩ 0x80 0x80 0 0 0x01).2.2.2.2.1 8 true (by decide) 0 0x80#8 (by decide) (by decide), ⟨r, k⟩⟩
theorem witness_LongResults (h : Obligations.LongResults) : Runs (.idiv (word 1 0 2)) laneState := by
  obtain ⟨x, _, k, _⟩ := h.1 laneState 0 0 laneTeam unit entry [] (.idiv (word 1 0 2)) 0x1E (word 1 0 2) acting_lane rfl (by decide +kernel)
    (by decide +kernel) (head_of (by decide +kernel)) (by decide +kernel) (by decide +kernel) (by decide +kernel) (by decide +kernel) rfl
  exact ⟨x, k⟩
def awaiting : Team := { team [] with v := [(4, ⟨0, 70⟩)] }
def longBack (discard : Bool) : Pending :=
  ⟨0, 0, 60, 0x1E, 0x2000, 0, some [2], discard, 0, false, false, none, none, none, none⟩
theorem witness_LongResults_arrive (h : Obligations.LongResults) :
    Runs (.longResultArrival 0 0 70) { acts awaiting unit with pendings := [(70, longBack false)] } ∧
    Runs (.longResultArrival 0 0 70) { one 0 with pendings := [(70, longBack true)] } := by
  obtain ⟨x, _, k, _⟩ := h.2.1 { acts awaiting unit with pendings := [(70, longBack false)] } 0 0 70 awaiting (longBack false) 2 0 4
    (by decide +kernel) rfl rfl (by decide +kernel) rfl rfl rfl rfl rfl (by decide +kernel) rfl (by decide +kernel)
  exact ⟨⟨x, k⟩, ⟨_, h.2.2 { one 0 with pendings := [(70, longBack true)] } 0 0 70 (longBack true) [2] rfl rfl rfl rfl rfl⟩⟩
theorem witness_MaskLanes (h : Obligations.MaskLanes) :
    Runs (.kset { word 0xD 3 1 with dst := 0xFF }) laneState ∧ Runs (.kget (word 0xD 0 0)) laneState := by
  obtain ⟨x, _, k, _⟩ := (h laneState 0 0 laneTeam unit entry [] { word 0xD 3 1 with dst := 0xFF } acting_lane).1
    (head_of (by decide +kernel)) (by decide +kernel)
  obtain ⟨y, _, l, _⟩ := (h laneState 0 0 laneTeam unit entry [] (word 0xD 0 0) acting_lane).2 (head_of (by decide +kernel)) (by decide +kernel)
  exact ⟨⟨x, k⟩, ⟨y, l⟩⟩
theorem witness_LaneMemory (h : Obligations.LaneMemory) :
    Runs (.lds (word 0xD 2 1)) laneState ∧ Runs (.sts { word 0xD 2 2 with dst := 0xFF }) laneState ∧
      Runs (.atoms (word 0xD 0 2)) laneState := by
  obtain ⟨x, _, k, _⟩ := h laneState 0 0 laneTeam unit entry [] (.lds (word 0xD 2 1)) 0x80 _ acting_lane rfl (Or.inl rfl)
    (head_of (by decide +kernel)) (by decide +kernel)
  obtain ⟨y, _, l, _⟩ := h laneState 0 0 laneTeam unit entry [] (.sts { word 0xD 2 2 with dst := 0xFF }) 0x81 _ acting_lane rfl
    (Or.inr (Or.inl rfl)) (head_of (by decide +kernel)) (by decide +kernel)
  obtain ⟨z, _, m, _⟩ := h laneState 0 0 laneTeam unit entry [] (.atoms (word 0xD 0 2)) 0x82 _ acting_lane rfl
    (Or.inr (Or.inr rfl)) (head_of (by decide +kernel)) (by decide +kernel)
  exact ⟨⟨x, k⟩, ⟨y, l⟩, ⟨z, m⟩⟩
/-- The access of `witness_LaneMemory` has one row, at the unit's byte 8; a misaligned one switches its lane off. -/
theorem witness_LaneMemory_rows :
    (laneHead 0x80 (word 0xD 2 1)).rows = [(0, [8])] ∧ (laneHead 0x80 { word 0xD 2 1 with srcA := 2 }).rows = [(0, [3])] ∧
    unit.offsetOk 8 4 = true ∧ unit.armedAt 8 4 = none ∧ unit.offsetOk 3 4 = false := by decide +kernel
theorem witness_GangAccesses (h : Obligations.GangAccesses) :
    Runs (.ldg (word 0xD 2 1)) laneState ∧ Runs (.stg { word 0xD 2 2 with dst := 0xFF }) laneState ∧
      Runs (.atomg (word 0xD 0 2)) laneState := by
  obtain ⟨x, _, k, _⟩ := h.1 laneState 0 0 laneTeam unit entry [] (.ldg (word 0xD 2 1)) 0x83 _ acting_lane rfl (Or.inl rfl)
    (head_of (by decide +kernel)) (by decide +kernel)
  obtain ⟨y, _, l, _⟩ := h.1 laneState 0 0 laneTeam unit entry [] (.stg { word 0xD 2 2 with dst := 0xFF }) 0x84 _ acting_lane rfl
    (Or.inr (Or.inl rfl)) (head_of (by decide +kernel)) (by decide +kernel)
  obtain ⟨z, _, m, _⟩ := h.1 laneState 0 0 laneTeam unit entry [] (.atomg (word 0xD 0 2)) 0x85 _ acting_lane rfl
    (Or.inr (Or.inr rfl)) (head_of (by decide +kernel)) (by decide +kernel)
  exact ⟨⟨x, k⟩, ⟨y, l⟩, ⟨z, m⟩⟩

def access (op addr : Nat) : GangAccess := ⟨0, 0, 60, 0, op, 2, 8, addr, 1, 5, 0, 90, false, false, 0, 9⟩
def gangAcc (op addr : Nat) (u : UnitRec) : State := { acts (team [(1, 0)]) u with
  gangAcc := [(80, access op addr)], pendings := [(90, { longBack false with value := none })] }
theorem witness_GangAccesses_target (h : Obligations.GangAccesses) :
    Runs (.gangAccessAtTarget 80) (gangAcc 0x84 8 unit) ∧ Runs (.gangAccessAtTarget 80) (gangAcc 0x83 8 unit) ∧
      Runs (.gangAccessAtTarget 80) (gangAcc 0x85 1024 armedUnit) ∧
      Runs (.gangAccessAtTarget 80) (gangAcc 0x83 8 { unit with st := .suspended }) := by
  obtain ⟨x, k, _⟩ := (h.2 (gangAcc 0x84 8 unit) 80 (access 0x84 8) unit rfl (by decide) rfl).2 (by decide) (by decide) rfl
  obtain ⟨y, l, _⟩ := (h.2 (gangAcc 0x83 8 unit) 80 (access 0x83 8) unit rfl (by decide) rfl).2 (by decide) (by decide) rfl
  obtain ⟨z, m, _⟩ := (h.2 (gangAcc 0x85 1024 armedUnit) 80 (access 0x85 1024) armedUnit rfl (by decide) rfl).2 (by decide)
    (by decide) rfl
  exact ⟨⟨x, k⟩, ⟨y, l⟩, ⟨z, m⟩, ⟨_, (h.2 (gangAcc 0x83 8 { unit with st := .suspended }) 80 (access 0x83 8)
    { unit with st := .suspended } rfl (by decide) rfl).1 (Or.inr rfl)⟩⟩
/-- What the clauses about the accessed bytes ask: an armed target, a clean word, a poisoned one. -/
theorem witness_GangAccesses_words :
    (armedUnit.armedAt 1024 4).isSome = true ∧ (unit.armedAt 8 4).isSome = false ∧ unit.poisonAt (one 0) 8 4 = none ∧
      unit.poisonAt poisoned 4088 4 ≠ none := by decide

/-! Extent 0 of group 0 is module extent 0 of module 2, behind link 0; far memory holds words from address 0. -/

def wired (ws : List Word64) : State :=
  let bs := ws.flatMap (wordBytes 8)
  { one 0 with
    extLive := [(0, 0x0201000000000000)], mrtLive := [(0, 0x0200000000000101)]
    links := [(0, { Link.down with state := 3, module := 2 })]
    mem := { State.reset.mem with far := (List.range bs.length).map (fun j => (farKey 2 j, bs.getD j 0)) } }

/-! Firmware harts: x5, x6 and x7 are d, r and t. -/

def hartWith (x6 x7 : Word64) : Hart := { Hart.zero with pc := 0x1000, x := [(6, x6), (7, x7)], mtvec := 0x2001 }
def onHart (s : State) (x6 x7 : Word64) : State := { s with cur := .hart 0, harts := [(0, hartWith x6 x7)] }
def mappedSlot : Slot := { Slot.unmapped with valid := true, qcb := 0x400 }
theorem block_of {s : State} {a : Nat} (h : a % 128 = 0 ∧ bits (physWord s (a + 8)).toNat 63 1 ≠ 0 ∧
    bits (physWord s (a + 8)).toNat 0 1 ≠ 1 ∧ bits (physWord s (a + 8)).toNat 36 4 ≠ 0 ∧
    (bits (physWord s (a + 0x20)).toNat 63 1 = 1 → bits (physWord s (a + 0x20)).toNat 60 3 < 5)) : BlockTaken s a := h
theorem ring_of {s : State} {a : Nat} {w0 w1 : Word64} (h : a % 16 = 0 ∧ ringBlock s a = some (w0, w1) ∧
    1 ≤ bits w0.toNat 0 4 ∧ bits w0.toNat 0 4 ≤ 12 ∧ bits w0.toNat 4 8 = 0 ∧ bits w0.toNat 52 12 = 0) : RingTaken s a w0 w1 := h
theorem witness_FwBfx (h : Obligations.FirmwareResults) : Runs (.fwBfx 5 6 7) (onHart (one 0) 0xFF00 (63 + 256)) :=
  ⟨_, (h (onHart (one 0) 0xFF00 (63 + 256)) 0 5 6 7 rfl).1 (by decide) (by decide) (by decide)⟩
/-- Hart 0 names signal 4,095 with condition EQ and value `v`; the signal is 0. -/
def swaits (v : Word64) : State := onHart (one 0) (0x0010000100000000 + 8 * 4095) v
theorem witness_Swait (h : Obligations.FirmwareResults) :
    Runs (.swait 5 6 7) (swaits 0) ∧ Runs (.swait 5 6 7) (swaits 1) ∧
      Runs (.swait 5 6 7) { swaits 1 with harts := [(0, { hartWith (0x0010000100000000 + 8 * 4095) 1 with wait := .signal 4095 })] } ∧
      Runs (.signalUpdate 4095 .set 1) { swaits 1 with waiters := [(4095, [.hart 1 5 0 1])] } := by
  have k1 := (h (swaits 0) 0 5 6 7 rfl).2.1 4095 (by decide) (by decide) (by decide)
  have k2 := (h (swaits 1) 0 5 6 7 rfl).2.1 4095 (by decide) (by decide) (by decide)
  have k3 := (h { swaits 1 with harts := [(0, { hartWith (0x0010000100000000 + 8 * 4095) 1 with wait := .signal 4095 })] }
    0 5 6 7 rfl).2.1 4095 (by decide) (by decide) (by decide)
  have k4 := (h { swaits 1 with waiters := [(4095, [.hart 1 5 0 1])] } 0 5 6 7 rfl).2.1 4095 (by decide) (by decide) (by decide)
  obtain ⟨x, k, _⟩ := k4.2.2.2 1 0 1 1 rfl (by decide)
  exact ⟨⟨_, k1.2.1 (by decide) (by decide)⟩, ⟨_, k2.2.2.1 (by decide) (by decide)⟩, ⟨_, k3.1 rfl⟩, ⟨x, k⟩⟩
def withSlot31 (inj : Option (List Word64)) : State := { one 0 with slots := [(31, { mappedSlot with injected := inj })] }
theorem witness_Disp (h : Obligations.FirmwareResults) :
    Runs (.disp 6 7) (onHart (withSlot31 none) 0x40 31) ∧ Runs (.disp 6 7) (onHart (withSlot31 (some [])) 0x40 31) :=
  ⟨⟨_, ((h (onHart (withSlot31 none) 0x40 31) 0 5 6 7 rfl).2.2.1 (by decide) (by decide) (by decide)).1 rfl⟩,
   ⟨_, ((h (onHart (withSlot31 (some [])) 0x40 31) 0 5 6 7 rfl).2.2.1 (by decide) (by decide) (by decide)).2 (by decide)⟩⟩
theorem witness_Qmap (h : Obligations.FirmwareResults) : Runs (.qmap 6 7) (onHart (wired [0x8000, 0x8000001000000000]) 0 31) := by
  obtain ⟨x, k, _⟩ := (h (onHart (wired [0x8000, 0x8000001000000000]) 0 31) 0 5 6 7 rfl).2.2.2.1 (by decide) (block_of (by decide))
  exact ⟨x, k⟩
theorem witness_Qunmap (h : Obligations.FirmwareResults) :
    Runs (.qunmap 5 6) (onHart (one 0) 31 0) ∧ Runs (.qunmap 5 6) (onHart (withSlot31 none) 31 0) := by
  obtain ⟨x, k, _⟩ := (h (onHart (withSlot31 none) 31 0) 0 5 6 7 rfl).2.2.2.2.2.1 (by decide) (by decide)
  exact ⟨⟨_, (h (onHart (one 0) 31 0) 0 5 6 7 rfl).2.2.2.2.1 (by decide) (by decide)⟩, ⟨x, k⟩⟩
theorem witness_Rfetch (h : Obligations.FirmwareResults) :
    Runs (.rfetch 5 6) (onHart (wired [1, 0]) 0 0) ∧ Runs (.rfetch 5 6) (onHart (wired [12, 1]) 0 0) := by
  have k1 := (h (onHart (wired [1, 0]) 0 0) 0 5 6 7 rfl).2.2.2.2.2.2 1 0 (ring_of (by decide))
  have k2 := (h (onHart (wired [12, 1]) 0 0) 0 5 6 7 rfl).2.2.2.2.2.2 12 1 (ring_of (by decide))
  obtain ⟨x, k, _⟩ := k2.2 (by decide)
  exact ⟨⟨_, k1.1 (by decide)⟩, ⟨x, k⟩⟩
/-- RFETCH of the event ring's own block, whose oldest entry is at far physical address 0. -/
def events : State :=
  { onHart (wired [0x8100000000000007]) 0x0010000000610000 0 with event := { RingRegs.zero with base := 1, prod := 1 } }
theorem witness_Rfetch_events (h : Obligations.FirmwareResults) : Runs (.rfetch 5 6) events := by
  have k1 := (h events 0 5 6 7 rfl).2.2.2.2.2.2 1 1 (ring_of (by decide))
  obtain ⟨x, k, _⟩ := k1.2 (by decide)
  exact ⟨x, k⟩
theorem witness_FirmwareTraps (h : Obligations.FirmwareTraps) :
    Runs (.rfetch 5 6) (onHart (one 0) 15 0) ∧ Runs (.rfetch 5 6) (onHart (one 0) 16 0) ∧
    Runs (.fwBfx 5 6 7) (onHart (one 0) 0 (63 + 512)) ∧
    Runs (.swait 5 6 7) (onHart (one 0) (0x0010000100000000 + 8 * 4096) 0) ∧
    Runs (.swait 5 6 7) (onHart (one 0) 0x0010000100000000 0xA000000000000000) := by
  exact ⟨⟨_, (h (onHart (one 0) 15 0) 0 5 6 7 rfl).1 (Or.inl (by decide))⟩,
    ⟨_, (h (onHart (one 0) 16 0) 0 5 6 7 rfl).1 (Or.inr (fun w0 w1 k => by
      have e : ringBlock (onHart (one 0) 16 0) 16 = none := by decide
      have f := k.2.1
      rw [show (((onHart (one 0) 16 0).hart 0).rd 6).toNat = 16 by decide, e] at f
      cases f))⟩,
    ⟨_, (h (onHart (one 0) 0 (63 + 512)) 0 5 6 7 rfl).2.1 (by decide)⟩,
    ⟨_, (h (onHart (one 0) (0x0010000100000000 + 8 * 4096) 0) 0 5 6 7 rfl).2.2.1 (fun g k e => by
      have f : (((onHart (one 0) (0x0010000100000000 + 8 * 4096) 0).hart 0).rd 6).toNat = 0x0010000100000000 + 8 * 4096 := by decide
      rw [f] at e
      omega)⟩,
    ⟨_, (h (onHart (one 0) 0x0010000100000000 0xA000000000000000) 0 5 6 7 rfl).2.2.2.1 0 (by decide) (by decide) (by decide)⟩⟩
theorem witness_FirmwareTraps_slots (h : Obligations.FirmwareTraps) :
    Runs (.disp 6 7) (onHart (withSlot31 none) 0 32) ∧ Runs (.disp 6 7) (onHart (one 0) 0 31) ∧
    Runs (.disp 6 7) (onHart (withSlot31 none) 1 31) ∧ Runs (.qmap 6 7) (onHart (one 0) 0 32) ∧
    Runs (.qmap 6 7) (onHart (one 0) 1 31) ∧ Runs (.qunmap 5 6) (onHart (one 0) 32 0) := by
  exact ⟨⟨_, (h (onHart (withSlot31 none) 0 32) 0 5 6 7 rfl).2.2.2.2.1 (Or.inl (by decide))⟩,
    ⟨_, (h (onHart (one 0) 0 31) 0 5 6 7 rfl).2.2.2.2.1 (Or.inr (by decide))⟩,
    ⟨_, (h (onHart (withSlot31 none) 1 31) 0 5 6 7 rfl).2.2.2.2.2.1 (by decide) (by decide) (by decide)⟩,
    ⟨_, (h (onHart (one 0) 0 32) 0 5 6 7 rfl).2.2.2.2.2.2.1 (by decide)⟩,
    ⟨_, (h (onHart (one 0) 1 31) 0 5 6 7 rfl).2.2.2.2.2.2.2.1 (by decide) (fun k => absurd k.1 (by decide))⟩,
    ⟨_, (h (onHart (one 0) 32 0) 0 5 6 7 rfl).2.2.2.2.2.2.2.2 (by decide)⟩⟩

def trapPending : Team := { team [] with th := { thr [] with tvec := 0x3000, pending := [⟨0x14, 0, 9, false, none⟩] } }
theorem witness_TrapEntry (h : Obligations.TrapsAndTimer) :
    Runs (.trapEntry (.team 0 0)) (one 0) ∧ Runs (.trapEntry (.team 0 0)) (acts trapPending unit) := by
  obtain ⟨x, _, k, _⟩ := (h.1 (acts trapPending unit) (.team 0 0)).2 0 0 trapPending ⟨0x14, 0, 9, false, none⟩ rfl (by decide) rfl
    rfl rfl rfl (fun _ k => by simp [show trapPending.th.at_ = none by decide]) rfl (by decide) (by decide) (by decide)
  exact ⟨⟨_, (h.1 (one 0) (.team 0 0)).1 rfl⟩, ⟨x, k⟩⟩
def timed : Team := { team [] with th := { thr [] with tcmp := 500 } }
theorem witness_Timer (h : Obligations.TrapsAndTimer) :
    Runs (.timer (.team 0 0)) { acts timed unit with now := 499 } ∧ Runs (.timer (.team 0 0)) { acts timed unit with now := 500 } := by
  obtain ⟨x, _, k, _⟩ := (h.2.1 { acts timed unit with now := 500 } 0 0 timed (by decide) rfl).2 (by decide)
  exact ⟨⟨_, (h.2.1 { acts timed unit with now := 499 } 0 0 timed (by decide) rfl).1 (by decide)⟩, ⟨x, k⟩⟩
/-- Two teams of core 0: the active one has been in the set since 0, a ready one has waited since 0. -/
def waitingTeam : Team := { team [] with index := 1, set_ := .pending, age := 3 }
def twoTeams (now : Nat) : State :=
  { one 0 with teams := [(0, team [(1, 0)]), (31, waitingTeam)], cores := [(0, { Core.idle 0 with readySince := 1 })], now }
theorem witness_AgeingCap (h : Obligations.TrapsAndTimer) :
    Runs (.ageingCapDemote 0 0) (twoTeams 3414) ∧ Runs (.ageingCapDemote 0 0) (twoTeams 3413) := by
  obtain ⟨x, _, _, k, _⟩ := (h.2.2 (twoTeams 3414) 0 0 (team [(1, 0)]) (by decide) (by decide) rfl rfl).2 31 waitingTeam
    (Or.inr (by decide +kernel)) (by decide +kernel) (by decide)
  exact ⟨⟨x, k⟩, ⟨_, (h.2.2 (twoTeams 3413) 0 0 (team [(1, 0)]) (by decide) (by decide) rfl rfl).1 (by decide +kernel)
    (by decide +kernel)⟩⟩

/-! Requests: number 61 of command 60, for job 1, on die 0. -/

def req (kind : ReqKind) (st : ReqState) : Req :=
  { Req.make kind 60 (.team 0 0) 0 1 0x10000 8 (kind != .fpost) with
    st, module := 2, mask := List.replicate 8 0xFF, data := List.replicate 8 7, psn := List.replicate 8 false
    leg := match st with | .routed => .there | .returned => .back | _ => .home }
def carrying (r : Req) (ws : List Word64) : State := { wired ws with reqs := [(61, r)] }
theorem witness_PageTableWalk (h : Obligations.Translation) :
    Runs (.pageTableWalk 61) (carrying (req .fpost .walking) []) ∧
    Runs (.pageTableWalk 61) (carrying (req .fpost .walking) [0x10301]) := by
  obtain ⟨x, k, _⟩ := (h.1 (carrying (req .fpost .walking) []) 61 (req .fpost .walking) (List.replicate 8 0) rfl rfl
    (by decide)).1 (by decide) (by decide)
  have l := (h.1 (carrying (req .fpost .walking) [0x10301]) 61 (req .fpost .walking) (wordBytes 8 0x10301) rfl rfl
    (by decide)).2 (by decide) (by decide) (by decide)
  exact ⟨⟨x, k⟩, ⟨_, l⟩⟩
def leaf : TlbEntry := ⟨1, 0, 1, 0x3, 0⟩
def cachedLeaf : State := { carrying (req .fpost .fresh) [] with dies := [(0, { Die.idle with tlb := [leaf] })] }
theorem witness_RequestTranslate (h : Obligations.Translation) : Runs (.requestTranslate 61) cachedLeaf := by
  obtain ⟨x, k, _⟩ := h.2.1 cachedLeaf 61 (req .fpost .fresh) leaf 2 0 rfl rfl rfl rfl (by decide) (by decide) (by decide) rfl
    (by decide) (by decide) (by decide) (by decide)
  exact ⟨x, k⟩
theorem witness_Replay (h : Obligations.Translation) : Runs (.replay 0 1) (carrying (req .fpost .parked) []) :=
  ⟨_, h.2.2.1 (carrying (req .fpost .parked) []) 0 1⟩
theorem witness_FaultBufferConsume (h : Obligations.Translation) : Runs (.faultBufferConsume 0 5) (one 0) :=
  ⟨_, h.2.2.2 (one 0) 0 5 (fun _ k => nomatch k)⟩
theorem witness_Invalidations (h : Obligations.Invalidations) :
    Runs (.invalidateJob 0 1 2) cachedLeaf ∧ Runs (.invalidateAddress 0 1 3) cachedLeaf ∧ Runs (.invalidateAll 0 1 3) cachedLeaf := by
  obtain ⟨x, k, _⟩ := (h cachedLeaf 0 1 2).1 rfl (.invalidateJob 0 1 2) _ (Or.inl ⟨rfl, rfl⟩)
  obtain ⟨y, l, _⟩ := (h cachedLeaf 0 1 3).1 rfl (.invalidateAddress 0 1 3) _ (Or.inr (Or.inr ⟨rfl, rfl⟩))
  obtain ⟨z, m, _⟩ := (h cachedLeaf 0 1 3).1 rfl (.invalidateAll 0 1 3) _ (Or.inr (Or.inl ⟨rfl, rfl⟩))
  exact ⟨⟨x, k⟩, ⟨y, l⟩, ⟨z, m⟩⟩
def invalidating (st : ReqState) : State :=
  { carrying (req .fpost st) [] with dies := [(0, { Die.idle with inv := some ⟨0, 1, 0, 0, [61]⟩ })] }
theorem witness_Invalidations_busy (h : Obligations.Invalidations) :
    Runs (.invalidateAll 0 1 0) (invalidating .routed) ∧ Runs (.invalidationDone 0) (invalidating .routed) ∧
      Runs (.invalidationDone 0) (invalidating .returned) := by
  obtain ⟨_, k2, k3⟩ := h (invalidating .routed) 0 1 0
  obtain ⟨_, _, l3⟩ := h (invalidating .returned) 0 1 0
  exact ⟨⟨_, (k2 rfl).2.1⟩, ⟨_, (k3 ⟨0, 1, 0, 0, [61]⟩ rfl).2 61 (req .fpost .routed) (by decide) rfl (Or.inr (Or.inr rfl))⟩,
    ⟨_, (l3 ⟨0, 1, 0, 0, [61]⟩ rfl).1 (by
      intro q hq r hr
      have e : q = 61 := List.mem_singleton.1 hq
      subst e
      have e2 : req .fpost .returned = r := Option.some.inj hr
      rw [← e2]
      exact ⟨by decide, by decide, by decide⟩)⟩⟩
theorem witness_TablesAndCode (h : Obligations.TablesAndCode) :
    Runs .extcommit (one 0) ∧ Runs .extcommitDone { one 0 with extBusy := true } ∧ Runs .codeInvalidate (one 0) := by
  obtain ⟨k1, _, x, k3, _⟩ := h.1 (one 0)
  obtain ⟨y, k, _⟩ := k1 rfl
  obtain ⟨_, l2, _⟩ := h.1 { one 0 with extBusy := true }
  obtain ⟨_, z, l, _⟩ := l2 rfl
  exact ⟨⟨y, k⟩, ⟨z, l⟩, ⟨x, k3⟩⟩
theorem witness_CodeCacheFill (h : Obligations.TablesAndCode) : Runs (.codeCacheFill 61) (carrying (req .code .returned) []) := by
  obtain ⟨x, k, _⟩ := h.2 (carrying (req .code .returned) []) 61 (req .code .returned) rfl rfl rfl rfl (by decide) (by decide)
  exact ⟨x, k⟩

theorem at_module (k : ReqKind) (ws : List Word64) : AtModule (carrying (req k .routed) ws) 61 (req k .routed) :=
  And.intro rfl (And.intro rfl (And.intro rfl rfl))
/-- The same request, which met the revoke of its extent. -/
def revoking (k : ReqKind) (st : ReqState) : Req := { req k st with revoked := true }
theorem at_revoked (k : ReqKind) : AtModule (carrying (revoking k .routed) []) 61 (revoking k .routed) :=
  And.intro rfl (And.intro rfl (And.intro rfl rfl))
theorem witness_NotArrived (h : Obligations.ModuleRequests) :
    Runs (.readRequest 61) (carrying { req .fpost .routed with leg := .begun } []) :=
  ⟨_, ((h (carrying { req .fpost .routed with leg := .begun } []) 61 { req .fpost .routed with leg := .begun }).1 rfl rfl
    (by decide)).1⟩
theorem witness_ReadRequest (h : Obligations.ModuleRequests) :
    Runs (.readRequest 61) (carrying (req .fpost .routed) [5]) ∧
      Runs (.readRequest 61) (carrying (revoking .code .routed) []) := by
  have k := (h (carrying (req .fpost .routed) [5]) 61 (req .fpost .routed)).2.1 (at_module _ _) (by decide)
  have l := (h (carrying (revoking .code .routed) []) 61 (revoking .code .routed)).2.1 (at_revoked _) (by decide)
  exact ⟨⟨_, k.1 rfl⟩, ⟨_, l.2 rfl⟩⟩
theorem packet_one {r : Req} {p : Req → Bool} {s : State} (h : s.reqs = [(61, r)]) (k : p r = true) (z : r.zero = false) :
    packetOf s r p = [(61, r)] := by
  simp [packetOf, reqsOf, h, k, z]
theorem witness_WritePacket (h : Obligations.ModuleRequests) :
    Runs (.writePacket 61) (carrying (req .wpost .routed) []) ∧
      Runs (.writePacket 61) (carrying (revoking .cpyDst .routed) []) := by
  obtain ⟨x, k, _⟩ := ((h (carrying (req .wpost .routed) []) 61 (req .wpost .routed)).2.2.1 (at_module _ _) (Or.inl rfl)
    (packet_one rfl rfl rfl)).2 rfl (show ∀ m ∈ List.replicate 8 (0xFF : Byte), m = 0xFF by decide)
  have l := ((h (carrying (revoking .cpyDst .routed) []) 61 (revoking .cpyDst .routed)).2.2.1 (at_revoked _) (Or.inr rfl)
    (packet_one rfl rfl rfl)).1 rfl
  exact ⟨⟨x, k⟩, ⟨_, l⟩⟩
def cmd (kind : CmdKind) : Cmd := Cmd.make kind (.team 0 0) 0 0 (team []) unit
def commanded (r : Req) (c : Cmd) : State := { carrying r [] with cmds := [(60, c)] }
theorem witness_WriteAckReceive (h : Obligations.ModuleRequests) :
    Runs (.writeAckReceive 61) (commanded (req .wpost .returned) (cmd .wpost)) := by
  obtain ⟨x, k, _⟩ := ((h (commanded (req .wpost .returned) (cmd .wpost)) 61 (req .wpost .returned)).2.2.2.1 (cmd .wpost) unit
    rfl rfl rfl rfl rfl rfl (packet_one rfl rfl rfl) rfl rfl rfl rfl (no_tag_waits _ rfl rfl)).2 (by
      intro e he _
      have e1 : e = (61, req .wpost .returned) := List.mem_singleton.1 he
      rw [e1])
  exact ⟨x, k⟩
theorem witness_WriteAckReceive_more (h : Obligations.ModuleRequests) :
    Runs (.writeAckReceive 61) { commanded (req .wpost .returned) (cmd .wpost) with
      reqs := [(61, req .wpost .returned), (62, { req .wpost .routed with va := 0x20000 })] } := by
  obtain ⟨x, k, _⟩ := ((h { commanded (req .wpost .returned) (cmd .wpost) with
      reqs := [(61, req .wpost .returned), (62, { req .wpost .routed with va := 0x20000 })] } 61 (req .wpost .returned)).2.2.2.1
    (cmd .wpost) unit rfl rfl rfl rfl rfl rfl (by simp [packetOf, reqsOf, req, Req.make, Req.answered]) rfl rfl rfl rfl
    (no_tag_waits _ rfl rfl)).1
    ⟨(62, { req .wpost .routed with va := 0x20000 }), List.mem_cons_of_mem _ (List.mem_cons_self ..), rfl, by decide⟩
  exact ⟨x, k⟩
/-- Two atomics to one word: number 62 came after 61. -/
def twoAtomics : State := { commanded (req .ratm .routed) (cmd .ratm) with
  reqs := [(61, req .ratm .routed), (62, { req .ratm .routed with came := 5 })] }
theorem witness_AtomicRequest (h : Obligations.ModuleRequests) :
    Runs (.atomicRequest 61) (commanded (req .ratm .routed) (cmd .ratm)) ∧
      Runs (.atomicRequest 61) (commanded (revoking .ratm .routed) (cmd .ratm)) ∧ Runs (.atomicRequest 62) twoAtomics := by
  obtain ⟨x, k, _⟩ := (h (commanded (req .ratm .routed) (cmd .ratm)) 61 (req .ratm .routed)).2.2.2.2.2.2 (cmd .ratm)
    (And.intro rfl (And.intro rfl (And.intro rfl rfl))) rfl rfl rfl rfl rfl
  exact ⟨⟨x, k⟩, ⟨_, (h (commanded (revoking .ratm .routed) (cmd .ratm)) 61 (revoking .ratm .routed)).2.2.2.2.2.1 (cmd .ratm)
    (And.intro rfl (And.intro rfl (And.intro rfl rfl))) rfl rfl rfl rfl rfl⟩,
    ⟨_, (h twoAtomics 62 { req .ratm .routed with came := 5 }).2.2.2.2.1
      (And.intro rfl (And.intro rfl (And.intro rfl (by decide)))) rfl (by decide)⟩⟩

/-! Arrivals: window 0's slot 0 expects 8 bytes at its barrier 2. -/

def armedCmd : Cmd := { cmd .fpost with pegged := true }
def landingUnit (expected : Nat) : UnitRec := { unit with
  windows := [(0, ⟨0, 2, 1, 1, 0, false, 2, 4, 0, 0, 0, [(0, .armed)]⟩)], bars := [(2, ⟨expected, 0, false, true⟩)] }
def arriving (expected : Nat) : State :=
  { commanded (req .fpost .returned) armedCmd with units := [(1, landingUnit expected)] }
theorem witness_Landing (h : Obligations.Arrivals) : Runs (.landing 61) (arriving 8) ∧ Runs (.landing 61) (arriving 9) := by
  obtain ⟨x, _, k, _⟩ := h.1 (arriving 8) 61 (req .fpost .returned) armedCmd (landingUnit 8) rfl rfl rfl rfl
    (show ∀ m ∈ List.replicate 8 (0xFF : Byte), m = 0xFF by decide) rfl rfl rfl rfl rfl rfl (by decide)
  obtain ⟨y, _, l, _⟩ := h.1 (arriving 9) 61 (req .fpost .returned) armedCmd (landingUnit 9) rfl rfl rfl rfl
    (show ∀ m ∈ List.replicate 8 (0xFF : Byte), m = 0xFF by decide) rfl rfl rfl rfl rfl rfl (by decide)
  exact ⟨⟨x, k⟩, ⟨y, l⟩⟩
theorem witness_Landing_fires :
    ((landingUnit 8).bars.look Barrier.zero 2).claimed = true ∧ (landingUnit 8).barOwner 2 = some (0, 0) := by decide
def waitingPost : Team := { team [] with th := { thr [] with stage := [(0x1000, .issuing 60)], wait := .slotWrites 0 0 } }
def postState : State := { acts waitingPost (landingUnit 0) with cmds := [(60, armedCmd)] }
theorem witness_FpostArm (h : Obligations.Arrivals) :
    Runs (.fpostArm 0 0) postState ∧ Runs (.fpostArm 0 0) (acts { team [] with set_ := .saved } unit) := by
  obtain ⟨x, _, _, k, _⟩ := (h.2.1 postState 0 0 60 waitingPost (landingUnit 0) armedCmd (by decide) rfl).2 (by decide) rfl
    (by decide) rfl rfl rfl rfl rfl (by decide) (by decide) (by decide)
  exact ⟨⟨x, k⟩, ⟨_, (h.2.1 (acts { team [] with set_ := .saved } unit) 0 0 60 { team [] with set_ := .saved } unit armedCmd
    (by decide) rfl).1 rfl⟩⟩
def chained (kind : CmdKind) (dst : Bool) : Cmd :=
  { cmd kind with hops := [(0x10000, dst)], chain := 0x0000004020010400, src := { Tensor.none with loc := 1 }, leg := .there }
theorem witness_ChainHop (h : Obligations.Arrivals) :
    Runs (.chainHop 60) (commanded (req .chain .routed) (chained .mfill true)) ∧
    Runs (.chainHop 60) (commanded (req .chain .routed) (chained .mred false)) := by
  have k1 := h.2.2.1 (commanded (req .chain .routed) (chained .mfill true)) 60 0x10000 61 (chained .mfill true) (req .chain .routed)
    true rfl (Or.inr rfl) rfl (by decide) (by decide) rfl rfl rfl (by decide) rfl (by decide)
  have k2 := h.2.2.1 (commanded (req .chain .routed) (chained .mred false)) 60 0x10000 61 (chained .mred false) (req .chain .routed)
    false rfl (Or.inl rfl) rfl (by decide) (by decide) rfl rfl rfl (by decide) rfl (by decide)
  obtain ⟨x, r1, _⟩ := k1.1 rfl rfl
  obtain ⟨y, r2, _⟩ := k2.2 rfl
  exact ⟨⟨x, r1⟩, ⟨y, r2⟩⟩
def endedChain : Cmd := { chained .mfill true with hop := 1, leg := .back }
theorem witness_ChainCompletion (h : Obligations.Arrivals) :
    Runs (.chainCompletion 60) { one 0 with cmds := [(60, endedChain)] } := by
  obtain ⟨x, k, _⟩ := h.2.2.2.1 { one 0 with cmds := [(60, endedChain)] } 60 endedChain unit rfl (Or.inr rfl) rfl rfl
    (fun _ k => nomatch k) rfl rfl (no_tag_waits _ rfl rfl)
  exact ⟨x, k⟩
theorem witness_ModuleEvents (h : Obligations.Arrivals) : Runs (.moduleRevoke 2 0) (one 0) ∧ Runs (.moduleFatalError 2) (wired []) := by
  obtain ⟨x, k, _⟩ := h.2.2.2.2.1 (one 0) 2 0
  obtain ⟨y, l, _⟩ := h.2.2.2.2.2 (wired []) 2
  exact ⟨⟨x, k⟩, ⟨y, l⟩⟩

/-! Links: link 0 is UP on lanes 0 to 15, lanes 16 and 17 are spares. -/

def upLink : Link := { Link.down with state := 3, module := 2, active := 0xFFFF, healthy := 0x3FFFF, spareFor := [(16, 3), (17, 4)] }
def onLink (k : Link) : State := { State.reset with links := [(0, k)] }
/-- Link 0 with one flit on its fibre toward the module; `lost` the dark lanes that lost a part of it. -/
def onFibre (typ : Nat) (seq : BitVec 24) (lost : BitVec 18) (k : Link) : State :=
  onLink { k with out := { k.out with wire := [(flitBytes seq 0 typ 3 0 [], lost)] } }
/-- A flit of TYPE `typ` is taken: its format, and its CRC, are what the statement says of every flit. -/
theorem taken_flit (h : Obligations.FlitTraffic) (typ : Nat) (seq : BitVec 24) (k : typ < 16) :
    Taken ((onFibre typ seq 0 upLink).link 0) .out typ 0 (flitBytes seq 0 typ 3 0 []) [] := by
  obtain ⟨l, _, _, y, _, e, c, _⟩ := h.1 seq 0 typ 3 0 [] k (by decide)
  have n : flitNoise (flitBytes seq 0 typ 3 0 []) 0 = flitBytes seq 0 typ 3 0 [] := by
    have m := bytesOfNum_numOfBytes (flitBytes seq 0 typ 3 0 [])
    rw [l] at m
    simpa [flitNoise] using m
  exact ⟨_, rfl, y, n, c, y, e, rfl⟩
theorem flit_seq (h : Obligations.FlitTraffic) (typ : Nat) (seq : BitVec 24) (k : typ < 16) :
    flitSeq (flitBytes seq 0 typ 3 0 []) = seq := (h.1 seq 0 typ 3 0 [] k (by decide)).2.1
theorem flit_type (h : Obligations.FlitTraffic) (typ : Nat) (seq : BitVec 24) (k : typ < 16) :
    flitType (flitBytes seq 0 typ 3 0 []) = typ := (h.1 seq 0 typ 3 0 [] k (by decide)).2.2.2.1
/-- A request that is routed to module 2 behind link 0, not sent yet. -/
def unsentReq : State := { carrying { req .fpost .routed with leg := .home } [] with links := [(0, upLink)] }
def sendable : Ready := packetOn 1 2 0 61 0 [8] [] [61]
theorem witness_PacketSend (h : Obligations.FlitTraffic) :
    Runs (.packetSend 0 .out 61) unsentReq ∧ Runs (.packetSend 1 .out 61) unsentReq := by
  obtain ⟨x, k, _⟩ := (h.2 unsentReq 0 .out 0).2.1 61 { req .fpost .routed with leg := .home } sendable rfl (by decide +kernel)
    (by decide +kernel) rfl
  exact ⟨⟨x, k⟩, ⟨_, (h.2 unsentReq 1 .out 0).2.2.1 61 sendable (by decide +kernel) (by decide +kernel)⟩⟩
theorem witness_DataFlits (h : Obligations.FlitTraffic) :
    Runs (.dataFlitReceive 0 .out 0) (onFibre 0 0 0 upLink) ∧
    Runs (.dataFlitReceive 0 .out 0) (onFibre 0 0xFFFFFF 0 upLink) ∧
    Runs (.dataFlitReceive 0 .out 0) (onFibre 0 0 0x20000 upLink) := by
  obtain ⟨x, k, _⟩ := ((h.2 (onFibre 0 0 0 upLink) 0 .out 0).2.2.2.1 _ [] (taken_flit h 0 0 (by decide)) rfl
    (flit_seq h 0 0 (by decide)) (by decide)).1
  obtain ⟨y, l, _⟩ := (h.2 (onFibre 0 0xFFFFFF 0 upLink) 0 .out 0).2.2.2.2.1 _ [] (taken_flit h 0 0xFFFFFF (by decide)) rfl
    (by rw [flit_seq h 0 0xFFFFFF (by decide)]; decide) (by rw [flit_seq h 0 0xFFFFFF (by decide)]; decide)
  obtain ⟨z, m, _⟩ := (h.2 (onFibre 0 0 0x20000 upLink) 0 .out 0).2.2.2.2.2.1 []
    ⟨flitBytes 0 0 0 3 0 [], 0x20000, rfl, flit_type h 0 0 (by decide), by decide, Or.inl (by decide)⟩ rfl rfl
  exact ⟨⟨x, k⟩, ⟨y, l⟩, ⟨z, m⟩⟩
theorem witness_ControlFlits (h : Obligations.FlitTraffic) :
    Runs (.idleFlitReceive 0 .out 0) (onFibre 1 0 0 upLink) ∧ Runs (.nakReceive 0 .out 0) (onFibre 2 0 0 upLink) ∧
    Runs (.telemetryReceive 0 .out 0) (onFibre 3 0 0 upLink) ∧ Runs (.auditReceive 0 .out 0) (onFibre 4 0 0 upLink) ∧
    Runs (.mapFlitReceive 0 .out 0) (onFibre 5 0 0 upLink) := by
  obtain ⟨_, _, _, _, _, _, k7, _⟩ := h.2 (onFibre 1 0 0 upLink) 0 .out 0
  obtain ⟨_, _, _, _, _, _, _, k8, _⟩ := h.2 (onFibre 2 0 0 upLink) 0 .out 0
  obtain ⟨_, _, _, _, _, _, _, _, _, _, k11, _⟩ := h.2 (onFibre 3 0 0 upLink) 0 .out 0
  obtain ⟨_, _, _, _, _, _, _, _, _, _, _, _, k13, _⟩ := h.2 (onFibre 4 0 0 upLink) 0 .out 0
  obtain ⟨_, _, _, _, _, _, _, _, _, _, _, _, _, k14⟩ := h.2 (onFibre 5 0 0 upLink) 0 .out 0
  obtain ⟨a, r7, _⟩ := k7 _ [] (taken_flit h 1 0 (by decide)) rfl
  obtain ⟨b, r8, _⟩ := k8 _ [] (taken_flit h 2 0 (by decide))
  obtain ⟨c, r11, _⟩ := k11 _ [] (taken_flit h 3 0 (by decide))
  obtain ⟨d, r13, _⟩ := k13 _ [] (taken_flit h 4 0 (by decide)) rfl
  obtain ⟨e, r14, _⟩ := k14 _ [] (taken_flit h 5 0 (by decide))
  exact ⟨⟨a, r7⟩, ⟨b, r8⟩, ⟨c, r11⟩, ⟨d, r13⟩, ⟨e, r14⟩⟩
/-- A link end with telemetry and an audit due; and one with a NAK out since time 0. -/
def dueLink : Link := { upLink with
  out := { LinkEnd.idle with sentSinceTele := 4096 }, back := { LinkEnd.idle with gotSinceAudit := 1024 } }
def nakLink : Link := { upLink with back := { LinkEnd.idle with nakWait := true } }
theorem witness_TimedFlits (h : Obligations.FlitTraffic) :
    Runs (.nakTimeout 0 .out) { onLink nakLink with now := 2000 } ∧ Runs (.nakTimeout 0 .out) { onLink nakLink with now := 1999 } ∧
    Runs (.telemetrySend 0 .out []) (onLink dueLink) ∧ Runs (.auditSend 0 .out) (onLink dueLink) := by
  obtain ⟨_, _, _, _, _, _, _, _, k9, _⟩ := h.2 { onLink nakLink with now := 2000 } 0 .out 0
  obtain ⟨_, _, _, _, _, _, _, _, l9, _⟩ := h.2 { onLink nakLink with now := 1999 } 0 .out 0
  obtain ⟨_, _, _, _, _, _, _, _, _, k10, _, k12, _⟩ := h.2 (onLink dueLink) 0 .out 0
  obtain ⟨a, r9, _⟩ := (k9 rfl rfl).1 (by decide)
  obtain ⟨b, r10, _⟩ := k10 [] rfl (by decide)
  obtain ⟨c, r12, _⟩ := k12 rfl (by decide) rfl
  exact ⟨⟨a, r9⟩, ⟨_, (l9 rfl rfl).2 (by decide)⟩, ⟨b, r10⟩, ⟨c, r12⟩⟩

theorem witness_Tune (h : Obligations.LinkLanes) :
    Runs (.tune 0 2) (onLink Link.down) ∧ Runs (.tune 0 2) (onLink { Link.down with busy := true }) ∧
    Runs (.tuneComplete 0 0x3FFFF) (onLink { Link.down with busy := true, state := 1 }) := by
  obtain ⟨k1, _⟩ := h (onLink Link.down) 0
  obtain ⟨_, l2, _⟩ := h (onLink { Link.down with busy := true }) 0
  obtain ⟨_, _, m3, _⟩ := h (onLink { Link.down with busy := true, state := 1 }) 0
  obtain ⟨x, r, _⟩ := m3 0x3FFFF 0xFF 0xFFFF (Or.inl rfl) (by decide) (by decide)
  exact ⟨⟨_, k1 2 rfl rfl⟩, ⟨_, l2 2 rfl⟩, ⟨x, r⟩⟩
/-- A lit flit is before one that the dark lane 15 lost. -/
def dimming : Link := { upLink with out := { LinkEnd.idle with wire := [([], 0), ([], 0x8000)] } }
theorem witness_LaneLoss (h : Obligations.LinkLanes) :
    Runs (.wavelengthLoss 0 15) (onLink upLink) ∧ Runs (.wavelengthLoss 0 3) (onLink { upLink with healthy := 0xF, active := 0xF }) ∧
    Runs (.inactiveLaneLoss 0 17) (onLink upLink) ∧ Runs (.wavelengthLoss 0 15) (onLink dimming) := by
  obtain ⟨_, _, _, k4, _, _, k7, _⟩ := h (onLink upLink) 0
  obtain ⟨_, _, _, _, _, l6, _⟩ := h (onLink { upLink with healthy := 0xF, active := 0xF }) 0
  obtain ⟨_, _, _, _, m5, _⟩ := h (onLink dimming) 0
  obtain ⟨x, r, _⟩ := k4 15 0xFF (by decide) rfl rfl (by decide)
  obtain ⟨y, q, _⟩ := l6 3 (by decide) rfl rfl (by decide)
  obtain ⟨z, p, _⟩ := k7 17 (by decide) (by decide) (by decide)
  exact ⟨⟨x, r⟩, ⟨y, q⟩, ⟨z, p⟩, ⟨_, m5 15 (by decide) rfl (by decide)⟩⟩
theorem witness_Retrain (h : Obligations.LinkLanes) :
    Runs (.retrainComplete 0 0xF) (onLink { upLink with state := 5 }) ∧
    Runs (.retrainComplete 0 0x3FFFF) (onLink { upLink with state := 5, full := true }) ∧
    Runs (.retrainComplete 0 0) (onLink { upLink with state := 5, full := true }) ∧
    Runs (.retrainComplete 0 0) (onLink { upLink with state := 5 }) ∧
    Runs (.fullRetrain 0) (onLink { upLink with out := { LinkEnd.idle with nakCount := 8 } }) ∧
    Runs (.lctlRetrain 0 2) (onLink upLink) := by
  obtain ⟨_, _, _, _, _, _, _, k7, k9, _⟩ := h (onLink { upLink with state := 5 }) 0
  obtain ⟨_, _, _, _, _, _, _, _, _, l8, l9, _⟩ := h (onLink { upLink with state := 5, full := true }) 0
  obtain ⟨_, _, _, _, _, _, _, _, _, _, _, _, m11, _⟩ := h (onLink { upLink with out := { LinkEnd.idle with nakCount := 8 } }) 0
  obtain ⟨_, _, _, _, _, _, _, _, _, _, _, _, _, n12, _⟩ := h (onLink upLink) 0
  obtain ⟨a, r7, _⟩ := k7 0xF 0xF rfl rfl (by decide)
  obtain ⟨f, r10, _⟩ := k9 0 rfl rfl (by decide)
  obtain ⟨b, r8, _⟩ := l8 0x3FFFF 0xFFFF rfl rfl (by decide)
  obtain ⟨c, r9, _⟩ := l9 0 rfl rfl (by decide)
  obtain ⟨d, r11, _⟩ := m11 rfl (Or.inr (Or.inl (by decide)))
  obtain ⟨e, r12, _⟩ := n12 2 rfl (Or.inl rfl)
  exact ⟨⟨a, r7⟩, ⟨b, r8⟩, ⟨c, r9⟩, ⟨f, r10⟩, ⟨d, r11⟩, ⟨e, r12⟩⟩
theorem witness_Lanes (h : Obligations.LinkLanes) :
    Runs (.spareIn 0 16) (onLink upLink) ∧ Runs (.takeDown 0 2) (onLink upLink) ∧ Runs (.ltestWrite 0 0) (onLink upLink) ∧
    Runs (.linkWidthHalve 0) { onLink upLink with pwrGate := true, now := 10000 } ∧
    Runs (.wideningLit 0) (onLink { upLink with active := 0xFF, gated := 0xFF00, widening := 0xFF00 }) := by
  obtain ⟨_, _, _, _, _, _, _, _, _, _, _, k10, _, _, k13, k14, _⟩ := h (onLink upLink) 0
  obtain ⟨_, _, _, _, _, _, _, _, _, _, _, _, _, _, _, _, l15, _⟩ := h { onLink upLink with pwrGate := true, now := 10000 } 0
  obtain ⟨_, _, _, _, _, _, _, _, _, _, _, _, _, _, _, _, _, _, n17⟩ :=
    h (onLink { upLink with active := 0xFF, gated := 0xFF00, widening := 0xFF00 }) 0
  obtain ⟨a, r10, _⟩ := k10 16 3 (by decide) (by decide) rfl (by decide) (by decide) rfl (by decide)
  obtain ⟨b, r13, _⟩ := k13 2 rfl
  obtain ⟨c, r15, _⟩ := l15 rfl rfl (by decide) rfl (by decide) (by decide)
  obtain ⟨d, r17, _⟩ := n17 rfl (by decide)
  exact ⟨⟨a, r10⟩, ⟨b, r13⟩, ⟨_, k14 0⟩, ⟨c, r15⟩, ⟨d, r17⟩⟩
/-- A send queue of 256 flits that a replay has left. -/
def fullQueue : State := onLink { upLink with
  active := 0xFF, gated := 0xFF00, out := { LinkEnd.idle with resend := List.replicate 256 0 } }
theorem witness_LinkWidthDouble (h : Obligations.LinkLanes) : Runs (.linkWidthDouble 0) fullQueue := by
  obtain ⟨_, _, _, _, _, _, _, _, _, _, _, _, _, _, _, _, _, m16, _⟩ := h fullQueue 0
  exact ⟨_, m16 rfl rfl (by decide) (by decide +kernel) (by decide)⟩

/-! The matrix unit: cluster 0's queue has one operation of program 0. -/

def portSource : MxSource := ⟨true, 0xFF, Tensor.none, Tensor.none, 0, 6, false⟩
def mxOp (kind : MxKind) (line : Nat) : MxOp := ⟨kind, 0, 127, portSource, portSource, true, 1, line, false, false, 0, []⟩
def queued (o : MxOp) : State := { runsProg (mxProg []) with
  clusters := [(0, { mxCluster with ops := [o], p0 := List.replicate 64 [], p1 := List.replicate 64 [] })] }
theorem first_op (o : MxOp) (p : MxOp → Bool) (h : p o = true) (g : opSaved (queued o) 0 o = false) :
    FirstOp (queued o) 0 0 o p :=
  And.intro rfl (And.intro g (And.intro h (fun _ _ k => absurd k (Nat.not_lt_zero _))))
theorem witness_BankZeroed (h : Obligations.MatrixUnit) :
    Runs (.bankZeroed 0 31) { one 0 with clusters := [(0, { Cluster.idle with banks := [(31, ⟨.zeroing, 0, 9⟩)] })] } :=
  have ⟨x, k, _⟩ :=
    (h { one 0 with clusters := [(0, { Cluster.idle with banks := [(31, ⟨.zeroing, 0, 9⟩)] })] } 0 0 (mxOp .mul 0)).1 31 rfl
  ⟨x, k⟩
theorem witness_MxMulLine (h : Obligations.MatrixUnit) :
    Runs (.mxMulLine 0) (queued (mxOp .mul 0)) ∧ Runs (.mxMulRetire 0) (queued (mxOp .mul 1)) := by
  obtain ⟨x, k, _⟩ := (h (queued (mxOp .mul 0)) 0 0 (mxOp .mul 0)).2.1 (first_op _ _ rfl rfl) rfl rfl rfl rfl rfl (by decide) (by decide)
  obtain ⟨y, l, _⟩ := ((h (queued (mxOp .mul 1)) 0 0 (mxOp .mul 1)).2.2.1 (first_op _ _ rfl rfl)).1 rfl
  exact ⟨⟨x, k⟩, ⟨y, l⟩⟩
theorem witness_MxOperations (h : Obligations.MatrixUnit) :
    Runs (.mxZeroExecute 0) (queued (mxOp .zero 0)) ∧ Runs (.mxDrainPush 0 4096) (queued (mxOp .drain 4095)) ∧
    Runs (.mxStoreExecute 0) (queued { mxOp .store 0 with a := ⟨false, 0, plane, Tensor.none, 0, 0, false⟩ }) := by
  obtain ⟨x, k, _⟩ := ((h (queued (mxOp .zero 0)) 0 0 (mxOp .zero 0)).2.2.1 (first_op _ _ rfl rfl)).2.1 rfl
  obtain ⟨y, l, _⟩ := ((h (queued (mxOp .drain 4095)) 0 0 (mxOp .drain 4095)).2.2.1 (first_op _ _ rfl rfl)).2.2.1 4096 rfl rfl
  obtain ⟨z, m, _⟩ := ((h (queued { mxOp .store 0 with a := ⟨false, 0, plane, Tensor.none, 0, 0, false⟩ }) 0 0 _).2.2.1
    (first_op _ _ rfl rfl)).2.2.2 unit rfl rfl rfl rfl rfl
  exact ⟨⟨x, k⟩, ⟨y, l⟩, ⟨z, m⟩⟩
theorem witness_MatrixProgramResident (h : Obligations.MatrixUnit) :
    Runs (.matrixProgramResident 77) { one 0 with waitProgs := [(77, ⟨9, 1, 0, 256, 0x3000, 0, 0⟩)] } := by
  obtain ⟨x, _, k, _⟩ := (h { one 0 with waitProgs := [(77, ⟨9, 1, 0, 256, 0x3000, 0, 0⟩)] } 0 0 (mxOp .mul 0)).2.2.2 77
    ⟨9, 1, 0, 256, 0x3000, 0, 0⟩ 0 rfl (fun e m _ n => absurd (List.mem_singleton.1 m ▸ rfl) n) (by decide) rfl (fun _ k => absurd k (Nat.not_lt_zero _)) (by decide)
  exact ⟨x, k⟩

/-! The front end: slot 31 is mapped. -/

def slotState (k : Slot) (s : State) : State := { s with slots := [(31, k)] }
def ready31 : Slot := { mappedSlot with windex := 1, size := 4, job := 1, ring := 0x400000000, qid := 3 }
/-- Job 1's tables: entry 0 points back at the table, entry 1 of level 2 maps 16 GiB from far physical address 0. -/
def tabled : State := wired [0x301, 0x203]
theorem witness_BundleTake (h : Obligations.Launches) :
    Runs (.bundleTake 31) (slotState ready31 tabled) ∧ Runs (.bundleTake 31) (slotState ready31 (one 0)) ∧
    Runs (.bundleTake 31) (slotState { ready31 with gen := true, gop := 1 } tabled) := by
  obtain ⟨x, _, _, k, _⟩ := (h (slotState ready31 tabled) 31).1 (by decide +kernel) (by decide +kernel) (by decide +kernel) rfl rfl
    rfl rfl
  obtain ⟨y, _, _, m, _⟩ := (h (slotState ready31 (one 0)) 31).2.1 (by decide +kernel) rfl (by decide +kernel)
  have l := (h (slotState { ready31 with gen := true, gop := 1 } tabled) 31).2.2.1 (by decide +kernel) (by decide +kernel) rfl
  exact ⟨⟨x, k⟩, ⟨y, m⟩, ⟨_, l⟩⟩
def taken : Launch := { launch with st := .taken }
def frontReq (kind : ReqKind) (c : Nat) : Req := { req kind .returned with cmd := c }
theorem witness_ReadResponse (h : Obligations.Launches) :
    Runs (.readResponse 61) { carrying (frontReq .header 9) [] with launches := [(9, taken)] } ∧
    Runs (.readResponse 61) { carrying (frontReq .list 70) [] with copies := [(70, ⟨9, 1, 0x2000, 2, 0, true, []⟩)] } := by
  obtain ⟨x, _, k, _⟩ := (h { carrying (frontReq .header 9) [] with launches := [(9, taken)] } 31).2.2.2.1 61 (frontReq .header 9) taken
    rfl rfl rfl rfl (by decide) rfl rfl
  have l := (h { carrying (frontReq .list 70) [] with copies := [(70, ⟨9, 1, 0x2000, 2, 0, true, []⟩)] } 31).2.2.2.2.1 61
    (frontReq .list 70) ⟨9, 1, 0x2000, 2, 0, true, []⟩ rfl rfl rfl rfl (by decide) rfl
  exact ⟨⟨x, k⟩, ⟨_, l⟩⟩
def copying (n : Word64) : State := { launched with copies := [(70, ⟨9, 1, 0x2000, 2, 0, false, [0x1000, 0x2000, n, 0]⟩)] }
theorem witness_CopyCommandIssue (h : Obligations.Launches) :
    Runs (.copyCommandIssue 70) (copying 0x100000000) ∧ Runs (.copyCommandIssue 70) (copying 0x100000008) := by
  obtain ⟨x, _, k, _⟩ := (h (copying 0x100000000) 31).2.2.2.2.2.1 70 _ rfl (by decide) (by decide)
  obtain ⟨y, l, _⟩ := (h (copying 0x100000008) 31).2.2.2.2.2.2.1 70 _ launch rfl (by decide) (by decide) rfl
  exact ⟨⟨x, k⟩, ⟨y, l⟩⟩
theorem witness_SlotTick (h : Obligations.Launches) :
    Runs (.slotTick []) { one 0 with now := 5000, launches := [(9, { launch with st := .waiting, time := 5000 })] } := by
  obtain ⟨x, _, k, _⟩ := (h { one 0 with now := 5000, launches := [(9, { launch with st := .waiting, time := 5000 })] } 31).2.2.2.2.2.2.2.1
    9 { launch with st := .waiting, time := 5000 } [] (by decide) rfl
  exact ⟨x, k⟩
def doneLaunch (rec : Word64) : Launch := { launch with hdr := [0, 0, 0, 0, 0, rec, 0, 0], ended := 1 }
theorem witness_BundleComplete (h : Obligations.Launches) :
    Runs (.bundleComplete 9) { State.reset with launches := [(9, doneLaunch 0)] } ∧
    Runs (.bundleComplete 9) { State.reset with launches := [(9, doneLaunch 0x4000)] } := by
  obtain ⟨x, k, _⟩ := ((h { State.reset with launches := [(9, doneLaunch 0)] } 31).2.2.2.2.2.2.2.2.1 9 (doneLaunch 0) rfl rfl (by decide)
    rfl (by decide)).1 (by decide) (by decide) (by decide)
  obtain ⟨y, _, l, _⟩ := ((h { State.reset with launches := [(9, doneLaunch 0x4000)] } 31).2.2.2.2.2.2.2.2.1 9 (doneLaunch 0x4000) rfl rfl
    (by decide) rfl (by decide)).2 (by decide) (by decide)
  exact ⟨⟨x, k⟩, ⟨y, l⟩⟩
/-- Bring-up has ended. -/
def booted : State := { one 0 with boot := bootStat 7 0 }
theorem witness_QkickWrite (h : Obligations.Launches) :
    Runs (.qkickWrite 3 5) (slotState ready31 booted) ∧ Runs (.qkickWrite 4 5) (slotState ready31 booted) ∧
      Runs (.qkickWrite 3 5) (slotState ready31 (one 0)) := by
  obtain ⟨_, _, _, _, _, _, _, _, _, _, k9, k10, _⟩ := h (slotState ready31 booted) 31
  obtain ⟨_, _, _, _, _, _, _, _, _, l8, _⟩ := h (slotState ready31 (one 0)) 31
  obtain ⟨x, k, _⟩ := k9 3 5 (by decide) (by decide)
  obtain ⟨y, l, _⟩ := k10 4 5 (by decide) (by decide)
  exact ⟨⟨x, k⟩, ⟨y, l⟩, ⟨_, l8 3 5 (by decide)⟩⟩
theorem witness_SignalUpdate (h : Obligations.Launches) :
    Runs (.signalUpdate 4095 .add 1) (one 0) ∧ Runs (.signalUpdate 4096 .set 1) (one 0) := by
  obtain ⟨_, _, _, _, _, _, _, _, _, _, _, _, k11, k12, _⟩ := h (one 0) 31
  obtain ⟨x, k, _⟩ := k11 4095 .add 1 (by decide)
  exact ⟨⟨x, k⟩, ⟨_, k12 4096 .set 1 (by decide)⟩⟩
def coalescing : CompQ := { CompQ.zero with ctl := 0x10000, unannounced := 1, oldest := 0 }
theorem witness_Ageing (h : Obligations.Launches) :
    Runs (.cpriAgeing 31) { slotState ready31 (one 0) with now := 250000 } ∧
    Runs (.cqCoalesceTimeout 255) { one 0 with now := 1000, cqs := [(255, coalescing)] } := by
  obtain ⟨_, _, _, _, _, _, _, _, _, _, _, _, _, _, k13, _⟩ := h { slotState ready31 (one 0) with now := 250000 } 31
  obtain ⟨_, _, _, _, _, _, _, _, _, _, _, _, _, _, _, l14⟩ := h { one 0 with now := 1000, cqs := [(255, coalescing)] } 31
  obtain ⟨x, k, _⟩ := l14 255 (by decide) (by decide) (by decide)
  exact ⟨⟨_, k13 (by decide) (by decide) (by decide)⟩, ⟨x, k⟩⟩

/-! Placement: one unit of launch 9 waits on die 0, in a core's queue, or is being zero filled. -/

def waiting (gang : Nat) : Queued := ⟨9, 0, 1, need, gang, 0, if gang = 0 then 1 else 2, false, false, 0, none, 0⟩
def backlogged (q : Queued) : State :=
  { State.reset with launches := [(9, launch)], dies := [(0, { Die.idle with backlog := [q] })], nextId := 100 }
def coreQueue (s : State) (c : Nat) (qs : List Queued) (st : Nat) : State :=
  s.setCore c { s.core c with unitQueue := qs, stealState := st, victim := 7, sent := ⟨32, 128, 2 ^ 21, 512, 64, 16, 256⟩ }
theorem witness_UnitDispatch (h : Obligations.Placement) : Runs (.unitDispatch 0) (backlogged (waiting 0)) := by
  obtain ⟨x, k, _⟩ := (h (backlogged (waiting 0)) rfl).1 0 (waiting 0) 0 (by decide) rfl (by decide) (by decide) (by decide)
    (by decide) (fun e _ _ _ => Or.inr ⟨show List.length ([] : List Queued) = List.length ([] : List Queued) from rfl, Nat.zero_le e⟩)
  exact ⟨x, k⟩
theorem witness_UnitResident (h : Obligations.Placement) :
    Runs (.unitResident 1023) (coreQueue { State.reset with launches := [(9, launch)], nextId := 100 } 1023 [waiting 0] 0) := by
  obtain ⟨x, _, k, _⟩ := (h (coreQueue { State.reset with launches := [(9, launch)], nextId := 100 } 1023 [waiting 0] 0) rfl).2.1
    1023 (waiting 0) [] launch ⟨false, false, 0, need, 1, 0x1000, 0x2000, 0, 1⟩ (by decide) rfl (by decide +kernel) (by decide) rfl rfl
    rfl
  exact ⟨x, k⟩
theorem witness_GangPlace (h : Obligations.Placement) : Runs (.gangPlace 0) (backlogged (waiting 4)) := by
  obtain ⟨x, _, k, _⟩ := (h (backlogged (waiting 4)) rfl).2.2.1 0 (waiting 4) 0 launch
    ⟨false, false, 0, need, 1, 0x1000, 0x2000, 0, 1⟩ (by decide +kernel) (by decide +kernel) (by decide +kernel) (by decide +kernel) rfl rfl (by decide +kernel) (by decide +kernel)
    (by decide +kernel) (fun _ _ k => absurd k (Nat.not_lt_zero _)) rfl rfl
  exact ⟨x, k⟩
theorem witness_ZeroFillDone (h : Obligations.Placement) : Runs (.zeroFillDone 1) (acts (team []) { unit with st := .zeroing }) := by
  obtain ⟨x, k, _⟩ := (h (acts (team []) { unit with st := .zeroing }) rfl).2.2.2.1 1 { unit with st := .zeroing } rfl rfl
  exact ⟨x, k⟩
theorem witness_Steal (h : Obligations.Placement) :
    Runs (.steal 0) State.reset ∧ Runs (.stealRetry 0) (coreQueue State.reset 0 [] 2) ∧
    Runs (.stealRetry 0) (coreQueue State.reset 0 [waiting 0] 2) := by
  obtain ⟨x, k, _⟩ := (h State.reset rfl).2.2.2.2.1 0 (.steal 0) (Or.inl ⟨rfl, rfl⟩) (by decide +kernel)
  obtain ⟨y, l, _⟩ := (h (coreQueue State.reset 0 [] 2) rfl).2.2.2.2.1 0 (.stealRetry 0) (Or.inr ⟨rfl, rfl⟩) (by decide +kernel)
  have m := (h (coreQueue State.reset 0 [waiting 0] 2) rfl).2.2.2.2.2.1 0 rfl (by decide +kernel)
  exact ⟨⟨x, k⟩, ⟨y, l⟩, ⟨_, m⟩⟩
/-- Core 0 asks core 7, which holds two units of launch 9. -/
def asks (l : FMap Launch) : State :=
  coreQueue (coreQueue { State.reset with launches := l, nextId := 100 } 7 [waiting 0, waiting 0] 0) 0 [] 1
theorem witness_StealReply (h : Obligations.Placement) :
    Runs (.stealReply 0) (coreQueue State.reset 0 [] 1) ∧ Runs (.stealReply 0) (asks [(9, launch)]) ∧
    Runs (.stealReply 0) { asks [] with cmFence := [0] } := by
  have k := ((h (coreQueue State.reset 0 [] 1) rfl).2.2.2.2.2.2 0 rfl (by decide)).1 rfl
  obtain ⟨y, _, l, _⟩ := (((h (asks [(9, launch)]) rfl).2.2.2.2.2.2 0 rfl (by decide)).2 (waiting 0) rfl rfl (by decide +kernel)
    (by decide +kernel) (by decide)).2 launch ⟨false, false, 0, need, 1, 0x1000, 0x2000, 0, 1⟩ (by decide) (by decide +kernel)
    (by decide +kernel) rfl rfl rfl
  obtain ⟨z, m, _⟩ := (((h { asks [] with cmFence := [0] } rfl).2.2.2.2.2.2 0 rfl (by decide)).2 (waiting 0) rfl rfl
    (by decide +kernel) (by decide +kernel) (by decide)).1 (Or.inl (by decide +kernel))
  exact ⟨⟨_, k⟩, ⟨y, l⟩, ⟨z, m⟩⟩

/-! Pre-emption: unit 1 is the only unit, alone on core 0. -/

theorem one_unit {P : Nat × UnitRec → Prop} {n : Nat} {u : UnitRec} (h : P (n, u)) : ∀ e ∈ [(n, u)], P e := fun e he => by
  rw [List.mem_singleton.1 he]; exact h
theorem one_team {P : Nat × Team → Prop} {n : Nat} {t : Team} (h : P (n, t)) : ∀ e ∈ [(n, t)], P e := fun e he => by
  rw [List.mem_singleton.1 he]; exact h
theorem savable (st : UnitState) : Savable (acts (team []) { unit with st }) 1 { unit with st } :=
  ⟨rfl, one_unit (fun _ => by cases st <;> rfl), by cases st <;> rfl, one_unit (fun k => absurd rfl k), rfl,
    (by decide : (0 : Nat) < 0x10000), rfl, rfl, fun _ k => (nomatch k), one_team (fun _ => rfl),
    one_unit (fun k => absurd rfl k), rfl⟩
theorem witness_PcmdRequest (h : Obligations.Preemption) : Runs (.pcmdRequest 0 0) (acts (team []) unit) := by
  obtain ⟨x, _, _, k, _⟩ := (h.1 (acts (team []) unit) 0 0 (team []) unit (by decide) rfl rfl rfl rfl rfl rfl).1
    (one_unit (fun k => absurd k (by decide))) (one_unit ⟨by decide, by decide⟩)
    (one_team (fun _ => ⟨rfl, by decide, by decide, Or.inl rfl⟩))
  exact ⟨x, k⟩
theorem witness_PcmdForce (h : Obligations.Preemption) : Runs (.pcmdForce 0 0) (acts (team []) unit) := by
  obtain ⟨x, k, _⟩ := (h.1 (acts (team []) unit) 0 0 (team []) unit (by decide) rfl rfl rfl rfl rfl rfl).2 1 (savable .running)
    (by decide)
  exact ⟨x, k⟩
theorem witness_PreemptDeadline (h : Obligations.Preemption) :
    Runs (.preemptDeadline 1) (acts (team []) { unit with st := .requested }) := by
  obtain ⟨x, k, _⟩ := h.2.1 (acts (team []) { unit with st := .requested }) 1 1 { unit with st := .requested } (savable .requested)
    rfl (by decide) (by decide)
  exact ⟨x, k⟩
def away : UnitRec := { unit with st := .suspended, entry := 1, save := 0, core := 5, slots := [0] }
theorem no_request {s : State} (h : s.units = [(1, unit)]) : ∀ e ∈ s.units, e.2.st ≠ .requested ∧ e.2.st ≠ .saving := by
  rw [h]; exact one_unit ⟨by decide, by decide⟩
def suspended (u : UnitRec) (st : Nat) : State := { State.reset with
  launches := [(9, launch)], units := [(1, u)], dies := [(0, { Die.idle with darning := [(0, { Darning.free with state := st, unit := 1 })] })] }
theorem witness_PcmdResume (h : Obligations.Preemption) : Runs (.pcmdResume 0 3) (suspended away 1) :=
  ⟨_, h.2.2.1 (suspended away 1) 0 1 3 away rfl (by decide) rfl rfl⟩
/-- What a fetch post brings home while its unit is away lands in the save area. -/
def landingAway : State := { suspended away 2 with
  reqs := [(61, req .fpost .returned)], cmds := [(60, armedCmd)] }
theorem witness_LandingDiverted (h : Obligations.Preemption) : Runs (.landing 61) landingAway := by
  obtain ⟨x, _, k, _⟩ := h.2.2.2.1 landingAway 61 (req .fpost .returned) armedCmd away rfl rfl rfl rfl rfl rfl (by decide) rfl rfl
  exact ⟨x, k⟩
theorem witness_Darning (h : Obligations.Preemption) :
    Runs (.darningCopyDone 0 0) (suspended away 1) ∧
    Runs (.resumeLoadDone 0 0) (suspended { away with st := .resuming, savedTeams := [(0, team [])] } 3) := by
  obtain ⟨x, k, _⟩ := (h.2.2.2.2 (suspended away 1) 0 0 away (by decide) rfl).1 rfl rfl rfl
  obtain ⟨y, _, l, _⟩ := (h.2.2.2.2 (suspended { away with st := .resuming, savedTeams := [(0, team [])] } 3) 0 0 _ (by decide) rfl).2
    rfl rfl rfl rfl (by decide) (by decide) rfl rfl rfl rfl
  exact ⟨⟨x, k⟩, ⟨y, l⟩⟩

/-! Castling, capture and the host side. -/

def atRole (x : Role) (s : State) : State := { s with roles := [(2, x)] }
theorem witness_CastlingStart (h : Obligations.CastlingAndCapture) :
    Runs (.castlingStart 2) (atRole Role.idle (wired [])) ∧
    Runs (.castlingStart 2) { one 0 with roles := [(0, { Role.idle with state := 2 })] } := by
  have k := (h (atRole Role.idle (wired [])) 2).1 (List.replicate 0x200 0) false rfl (by decide) (by decide +kernel)
  have l := (h { one 0 with roles := [(0, { Role.idle with state := 2 })] } 2).2.2.2.1 0 rfl (by decide) (by decide)
  exact ⟨⟨_, k⟩, ⟨_, l⟩⟩
theorem witness_CastlingNoEffect (h : Obligations.CastlingAndCapture) :
    Runs (.castlingStart 2) (atRole { Role.idle with state := 4 } (one 0)) ∧
    Runs (.handOverWritten 2) (atRole { Role.idle with state := 4 } (one 0)) := by
  obtain ⟨_, k, l, _⟩ := h (atRole { Role.idle with state := 4 } (one 0)) 2
  exact ⟨⟨_, k (by decide)⟩, ⟨_, l (Or.inl (by decide))⟩⟩
theorem witness_HandOver (h : Obligations.CastlingAndCapture) :
    Runs (.handOverWritten 2) (atRole { Role.idle with state := 2 } (one 0)) ∧
    Runs (.hbeat 2) (atRole { Role.idle with state := 4 } (one 0)) ∧
    Runs (.hbeat 2) { atRole { Role.idle with state := 4 } (one 0) with now := 1000000 } := by
  obtain ⟨_, _, _, _, k, _⟩ := h (atRole { Role.idle with state := 2 } (one 0)) 2
  obtain ⟨_, _, _, _, _, _, l, _⟩ := h (atRole { Role.idle with state := 4 } (one 0)) 2
  obtain ⟨_, _, _, _, _, _, _, m, _⟩ := h { atRole { Role.idle with state := 4 } (one 0) with now := 1000000 } 2
  exact ⟨⟨_, k rfl rfl⟩, ⟨_, l rfl (by decide)⟩, ⟨_, m rfl (by decide)⟩⟩
/-- CMD 2 from the hart of another role. -/
theorem witness_HandOver_other (h : Obligations.CastlingAndCapture) :
    Runs (.handOverWritten 2) { atRole { Role.idle with state := 2 } (one 0) with cur := .hart 1 } :=
  ⟨_, (h { atRole { Role.idle with state := 2 } (one 0) with cur := .hart 1 } 2).2.2.1 (Or.inr rfl)⟩
theorem witness_Probation (h : Obligations.CastlingAndCapture) :
    Runs (.probationTimeout 2) { atRole { Role.idle with state := 4 } (one 0) with now := 1000000 } ∧
    Runs (.probationEnd 2) { atRole { Role.idle with state := 5 } (one 0) with now := 500000000 } := by
  obtain ⟨_, _, _, _, _, _, _, _, k6, _⟩ := h { atRole { Role.idle with state := 4 } (one 0) with now := 1000000 } 2
  obtain ⟨_, _, _, _, _, _, _, _, _, k7, _⟩ := h { atRole { Role.idle with state := 5 } (one 0) with now := 500000000 } 2
  obtain ⟨x, k, _⟩ := k6 rfl (by decide)
  obtain ⟨y, l, _⟩ := k7 (by decide) (Or.inl rfl)
  exact ⟨⟨x, k⟩, ⟨y, l⟩⟩
theorem witness_Capture (h : Obligations.CastlingAndCapture) :
    Runs .captureOff (one 0) ∧ Runs .capture (one 0) ∧ Runs .replayMode (one 0) := by
  obtain ⟨_, _, _, _, _, _, _, _, _, _, k8, k9, k10⟩ := h (one 0) 0
  exact ⟨⟨_, k8⟩, ⟨_, k9 (by decide)⟩, ⟨_, k10 (by decide)⟩⟩
def messaged : State := { wired [] with irqBuf := [⟨5, 1, 2, 3, 1, 0, 0, 0⟩], irqRing := { RingRegs.zero with ctl := 0x8000000000000006 } }
/-- The sender of the message has an entry in its lane queue that comes before it. -/
def messageWaits : State := { messaged with
  irqBuf := [⟨5, 1, 2, 3, 1, 0, 1, 0⟩], teams := [(0, { team [] with queue := [entry] })] }
theorem witness_IrqMessageMove (h : Obligations.HostSide) :
    Runs .irqMessageMove messaged ∧ Runs .irqMessageMove messageWaits ∧
    Runs .irqMessageMove { messaged with irqRing := RingRegs.zero } ∧ Runs .irqMessageMove (one 0) := by
  obtain ⟨_, _, _, k4, _⟩ := h messaged
  obtain ⟨x, k, _⟩ := k4 ⟨5, 1, 2, 3, 1, 0, 0, 0⟩ [] rfl (by decide) (by decide) (by decide)
  exact ⟨⟨x, k⟩, ⟨_, (h messageWaits).2.1 ⟨5, 1, 2, 3, 1, 0, 1, 0⟩ [] rfl (by decide)⟩,
    ⟨_, (h { messaged with irqRing := RingRegs.zero }).2.2.1 ⟨5, 1, 2, 3, 1, 0, 0, 0⟩ [] rfl (by decide) (by decide)⟩,
    ⟨_, (h (one 0)).1 rfl⟩⟩
theorem witness_HostSide (h : Obligations.HostSide) :
    Runs (.cecntWrite 3) (one 0) ∧ Runs .governorSettle (one 0) ∧ Runs .governorSettle { one 0 with now := 20000 } ∧
    Runs (.ioerr 0 5) (one 0) ∧ Runs .packageReset (one 0) ∧
    Runs (.registerWrite true 0x0010000000200000 5) (one 0) ∧ Runs (.registerWrite false 0x0010000000200000 5) (one 0) := by
  obtain ⟨_, _, _, _, k5, k6, _, _, _, _, _, _, k12, ⟨b, k13, _⟩, k14, k15⟩ := h (one 0)
  obtain ⟨_, _, _, _, _, _, l7, _⟩ := h { one 0 with now := 20000 }
  obtain ⟨a, m7, _⟩ := l7 (by decide)
  obtain ⟨c, m12, _⟩ := k12 0 5
  obtain ⟨d, m14, _⟩ := k14 0 5 (by decide)
  obtain ⟨e, m15, _⟩ := k15 0x0010000000200000 5
  exact ⟨⟨_, k5 3⟩, ⟨_, k6 (by decide)⟩, ⟨a, m7⟩, ⟨c, m12⟩, ⟨b, k13⟩, ⟨d, m14⟩, ⟨e, m15⟩⟩

theorem witness_CastlingVerify (h : Obligations.CastlingAndCapture) :
    imageSigned ownerKey (List.replicate 0x200 0) [] = false →
    Runs (.castlingVerifyDone 2) (atRole { Role.idle with state := 3 } (wired [])) := by
  obtain ⟨_, _, _, _, _, k4, _⟩ := h (atRole { Role.idle with state := 3 } (wired [])) 2
  obtain ⟨r, _⟩ := k4 (List.replicate 0x200 0) [] rfl (by decide +kernel)
  exact fun g => ⟨_, r g⟩
/-- Root port 0's IOMMU passes addresses on. -/
def rooted : State := { wired [] with regs := [(0x00100000006D0010, 1)] }
theorem witness_Pcie (h : Obligations.HostSide) :
    Runs (.pcieInboundRead 0 0 8) (one 0) ∧ Runs (.pcieInboundWrite 0 0 [1] false) rooted ∧
    Runs (.pcieInboundRead 0 0 8) rooted ∧ Runs (.pcieInboundRead 0 0x40000000 8) rooted ∧
    Runs (.pcieInboundRead 0 0 8) { rooted with modRevoked := [(2, 0)] } := by
  obtain ⟨_, _, _, _, _, _, _, _, k8, _⟩ := h (one 0)
  obtain ⟨_, _, _, _, _, _, _, _, _, l9, _, l11, _⟩ := h rooted
  obtain ⟨_, _, _, _, _, _, _, _, _, _, m10, _⟩ := h { rooted with modRevoked := [(2, 0)] }
  have bare : PortMode rooted 0 1 := And.intro (by decide +kernel) (by decide +kernel)
  have bared : PortMode { rooted with modRevoked := [(2, 0)] } 0 1 := And.intro (by decide +kernel) (by decide +kernel)
  obtain ⟨r1, r2⟩ := l9 0 0 0 bare (by decide) 2 0 false (by decide +kernel) (by decide +kernel)
  obtain ⟨x, r, _⟩ := r1 [1] false (by decide)
  exact ⟨⟨_, (k8 0 0 [] false 8 (And.intro (by decide +kernel) (by decide +kernel)) (by decide +kernel)).2⟩, ⟨x, r⟩,
    ⟨_, r2 8 (by decide)⟩, ⟨_, l11 0 0 0x40000000 8 bare (by decide) (by decide) (by decide +kernel)⟩,
    ⟨_, m10 0 0 0 8 bared (by decide) (by decide) 2 0 false (by decide +kernel) (by decide +kernel)⟩⟩
/-- DPC of root port 0 contains it. -/
theorem witness_Contained (h : Obligations.HostSide) :
    Runs (.pcieInboundRead 0 0 8) { one 0 with rootCfg := [(0x56, 1)] } :=
  ⟨_, ((h { one 0 with rootCfg := [(0x56, 1)] }).2.2.2.2.2.2.2.1 0 0 [] false 8 (by decide +kernel)).2⟩

/-! Steps. -/

/-- Core 0's code cache holds ADD g3, g1, g2 at 0x1000; cluster 0's holds MX ALLOC g5. -/
def stepping (sched : List Turn) : State := { runsProg (prog []) with
  sched, cur := .team 0 0
  code := [((0 * 64 + 1) * 2 ^ 64 + 0x1000, 0x00611000), ((1024 * 64 + 1) * 2 ^ 64 + 0x1000, 0xF8A00004)] }
theorem witness_Step_team (h : Obligations.StepRunsDecoded) :
    step (stepping [.scalar 0 0]) = settle (exec (.add 3 1 2) (stepping [])) :=
  (h.1 (stepping [.scalar 0 0]) [] 0 0 (team []) (.add 3 1 2) (by decide) (by decide) (Or.inl rfl) rfl).1
    (Or.inr ⟨rfl, Or.inl rfl⟩) ⟨thr [], 0x00611000, rfl, rfl, by decide, by decide, by decide, by decide⟩
theorem witness_Step_trap (h : Obligations.StepRunsDecoded) :
    step { acts trapPending unit with sched := [.scalar 0 0] } = settle (exec (.trapEntry (.team 0 0)) (acts trapPending unit)) :=
  (h.1 { acts trapPending unit with sched := [.scalar 0 0] } [] 0 0 trapPending (.add 3 1 2) (by decide) (by decide) (Or.inl rfl)
    rfl).2 (Or.inl (Or.inr ⟨rfl, Or.inl rfl⟩)) (by decide +kernel)
theorem witness_Step_prog (h : Obligations.StepRunsDecoded) :
    step (stepping [.matrix 0 0]) = settle (exec (.mxAlloc 5) (serveProg { stepping [] with cur := .prog 0 0 } 0 0 false)) :=
  (h.2.2.2.1 (stepping [.matrix 0 0]) [] 0 0 false (.mxAlloc 5) (by decide) (by decide) (Or.inl rfl) (by decide +kernel)).1
    ⟨thr [], 0xF8A00004, rfl, by decide +kernel, by decide, by decide, by decide +kernel, by decide⟩
def laneEntry : LaneEntry := { entry with parcels := [0x01000000, 0x040102FF, 0] }
def laneTurn : State := { acts { team [] with queue := [laneEntry] } unit with sched := [.lane 0 0] }
theorem witness_Step_lane (h : Obligations.StepRunsDecoded) :
    ∃ x, step laneTurn = settle (exec (.iadd (word 0 0 2)) (serve x 0 0 { team [] with queue := [laneEntry] })) :=
  ⟨_, (h.2.2.1 laneTurn [] 0 0 { team [] with queue := [laneEntry] } laneEntry [] (.iadd (word 0 0 2)) (by decide) (by decide) rfl
    (by decide +kernel) rfl rfl (by decide +kernel)).1 (by decide +kernel) (by decide +kernel) rfl (by decide +kernel)⟩
def hartTurn : State := { wired [0x0001508B] with sched := [.firmware 3], harts := [(3, { Hart.zero with x := [(2, 40)] })] }
theorem witness_Step_hart (h : Obligations.StepRunsDecoded) :
    step hartTurn = settle (exec (.qunmap 1 2) { hartTurn with sched := [], cur := .hart 3 }) :=
  ((h.2.2.2.2.1 hartTurn [] 3 (Or.inl rfl)).1 0x0001508B ⟨by decide, by decide, rfl⟩ ⟨[0x8B, 0x50], [1, 0], false, false, by decide, by decide,
    by decide +kernel, by decide +kernel, by decide, by decide⟩).1 (.qunmap 1 2) (by decide)
def hartRaised : State := { one 0 with
  sched := [.firmware 3], fwIrq := [(3, 1)], harts := [(3, { Hart.zero with mstatus := 8, mie := 0x800 })] }
theorem witness_Step_hartInterrupt (h : Obligations.StepRunsDecoded) :
    ∃ x, step hartRaised = settle (.next x) := by
  obtain ⟨x, k, _⟩ := (h.2.2.2.2.1 hartRaised [] 3 (Or.inl rfl)).2 (by decide) (by decide) (by decide) (by decide) (by decide)
  exact ⟨x, k⟩
/-- A control core's read of its time CSR. -/
theorem witness_Step_control (h : Obligations.StepRunsDecoded) :
    ∃ x, step { one 0 with sched := [.control 2 .time], controls := [(2, { Control.held with on := true })] } = settle (.next x) :=
  ⟨_, (h.2.2.2.2.2.2.1 { one 0 with sched := [.control 2 .time], controls := [(2, { Control.held with on := true })] } [] 2 .time _
    rfl).1 rfl⟩
theorem witness_Step_others (h : Obligations.StepRunsDecoded) :
    step { one 0 with sched := [.occasion .extcommit] } = settle (exec .extcommit { one 0 with cur := .device }) ∧
    step { one 0 with sched := [.elapse 5] } = settle (.next { one 0 with cur := .device, now := 5 }) :=
  ⟨h.2.2.2.2.2.1 { one 0 with sched := [.occasion .extcommit] } [] .extcommit rfl (by decide) (by decide),
   (h.2.2.2.2.2.2.2.1 { one 0 with sched := [.elapse 5] } [] 5 rfl).1⟩
/-- A team whose TCMP is 500 holds the time base at 500 until its TIMER. -/
theorem witness_Step_elapse (h : Obligations.StepRunsDecoded) :
    elapse { acts timed unit with sched := [.elapse 500] } 500 = { acts timed unit with sched := [.elapse 500], now := 500 } ∧
    elapse { acts timed unit with sched := [.elapse 501] } 501 = { acts timed unit with sched := [.elapse 501] } :=
  ⟨(h.2.2.2.2.2.2.2.1 { acts timed unit with sched := [.elapse 500] } [] 500 rfl).2.1 rfl (by decide)
     (one_team (n := 0) (by decide : 500 ≤ timed.th.tcmp.toNat)) (fun _ k => nomatch k) (by decide +kernel) (by decide +kernel)
     (by decide +kernel),
   (h.2.2.2.2.2.2.2.1 { acts timed unit with sched := [.elapse 501] } [] 501 rfl).2.2.1 (0, timed) (List.mem_singleton.2 rfl)
     (by decide)⟩
/-- A bundle that waits holds the time base at the next slot tick, a role in probation at its end. -/
def tickWaits : State := { one 0 with sched := [.elapse 1001], launches := [(9, { launch with st := .waiting, time := 5000 })] }
def probing : State := { one 0 with sched := [.elapse 500000001], roles := [(2, { Role.idle with state := 4 })] }
theorem witness_Step_elapseHeld (h : Obligations.StepRunsDecoded) :
    elapse tickWaits 1001 = tickWaits ∧ elapse probing 500000001 = probing :=
  ⟨(h.2.2.2.2.2.2.2.1 tickWaits [] 1001 rfl).2.2.2.1 (by decide +kernel) (by decide),
   (h.2.2.2.2.2.2.2.1 probing [] 500000001 rfl).2.2.2.2 (by decide +kernel)⟩
theorem witness_Step_application (h : Obligations.StepRunsDecoded) :
    ∃ x, step { one 0 with sched := [.application 2] } = settle (.next x) :=
  ⟨_, (h.2.2.2.2.2.2.2.2.1 { one 0 with sched := [.application 2] } [] 2 _ rfl).1 rfl⟩
theorem witness_Step_settled (h : Obligations.StepRunsDecoded) : settle (.next (one 0)) = .next (one 0) :=
  h.2.2.2.2.2.2.2.2.2.1 (one 0) ⟨rfl, one_unit ⟨by decide, by decide⟩, one_unit (fun k => absurd k (by decide)), one_team rfl,
    fun k => absurd k (by decide), by decide, by decide⟩
theorem witness_DecodeEncode (h : Obligations.DecodeEncode) :
    scalarDecode false 0x00611000 = .ok (.add 3 1 2) ∧ laneDecode false (encode (.iadd (word 0 0 2))) = .ok (.iadd (word 0 0 2)) ∧
    firmwareDecode 0x0001508B = some (.qunmap 1 2) :=
  ⟨(h.1 (.add 3 1 2) false 0x00611000 (by decide) (by decide) (by decide)).2.1,
   (h.2.1 (.iadd (word 0 0 2)) 1 (word 0 0 2) false (by decide) (by decide)).1,
   (h.2.2 (.qunmap 1 2) 0x0001508B (by decide)).2.1⟩
theorem witness_MemoryStaysCanonical (h : Obligations.MemoryStaysCanonical) : Memory.wf { stepping [] with cur := .device }.mem = true :=
  h (stepping [.elapse 0]) { stepping [] with cur := .device } (by decide) rfl

/-! ### Single steps, with the manual's own numbers -/

/-- The state after an instruction, or the same where it stops. -/
def after (i : Instr) (s : State) : State :=
  match exec i s with
  | .next t => t
  | _ => s
def result (i : Instr) (g : FMap Word64) (r : BitVec 5) : Option Word64 :=
  ((after i (acts (team g) unit)).thread (.team 0 0)).map (fun t => t.rd r)

/-- R268: the last line of its example. -/
theorem test_sltin : result (.sltin 2 7 0xFFFF) [(7, 5)] 2 = some 1 ∧
    result (.sltin 2 7 0xFFFF) [(7, 0xFFFFFFFFFFFFFFFF)] 2 = some 0 := by decide +kernel
/-- R267: −2^63 by −1, and a divisor of 0. -/
theorem test_div : result (.div 3 1 2) [(1, 0x8000000000000000), (2, 0xFFFFFFFFFFFFFFFF)] 3 = some 0x8000000000000000 ∧
    result (.rem 3 1 2) [(1, 7), (2, 0)] 3 = some 7 ∧ result (.divn 3 1 2) [(1, 7), (2, 0)] 3 = some 0xFFFFFFFFFFFFFFFF := by
  decide +kernel
/-- R266: SRA by gb [5:0] copies bit 63. -/
theorem test_sra : result (.sra 3 1 2) [(1, 0x8000000000000000), (2, 127)] 3 = some 0xFFFFFFFFFFFFFFFF := by decide +kernel
/-- R223: g0 reads as 0 and discards writes. -/
theorem test_g0 : result (.addi 0 0 5) [] 0 = some 0 := by decide +kernel
/-- R270: `jalr g31, 0` returns from a call. -/
theorem test_return : ((after (.jalr 31 0) (acts (team [(31, 0x2344)]) unit)).thread (.team 0 0)).map (fun t => (t.spc, t.rd 31)) =
    some (0x2344, 0x1004) := by decide +kernel
/-- R453: ANSWER with GEN 7 and RESULT 42 gives the caller 42; with 6 it is ignored. -/
theorem test_answer :
    let s := { acts parkedTeam unit with
      calls := [(5, { Call.free with state := 1, gen := 7, result := 42, caller := (1, 0) })] }
    ((after (.answer 5 7) s).team 0 0).map (·.sysmbx) = some 42 ∧ (after (.answer 5 6) s) = s := by decide +kernel
/-- R190, R192: a packet of one flit takes one number and one credit. -/
theorem test_packet : let k := ((after (.packetSend 0 .out 61) unsentReq).link 0).out
    (k.nextSeq, k.credits, k.replay.length) = (1, 511, 1) := by decide +kernel

end Sys2Proof.Tests
end

/-! ## Finite maps, and the writes of a save area (R411 to R413): they leave all but far memory. -/

section

namespace Sys2Proof
variable {α β : Type}

theorem FMap.mem_of_find {m : FMap α} {k : Nat} {v : α} (h : m.find k = some v) : (k, v) ∈ m := by
  induction m with
  | nil => simp [FMap.find] at h
  | cons e m ih =>
    simp only [FMap.find] at h
    cases he : e.1 == k
    · simp only [he, cond_false] at h
      exact List.mem_cons_of_mem _ (ih h)
    · simp only [he, cond_true, Option.some.injEq] at h
      rw [← beq_iff_eq.1 he, ← h]
      exact List.mem_cons_self

theorem FMap.find_of_mem {m : FMap α} (hs : m.sorted = true) {e : Nat × α} (h : e ∈ m) : m.find e.1 = some e.2 := by
  induction m with
  | nil => cases h
  | cons f m ih =>
    obtain ⟨ha, hs⟩ := (FMap.sorted_cons f m).1 hs
    rcases List.mem_cons.1 h with rfl | h
    · simp [FMap.find]
    · have hne : (f.1 == e.1) = false := beq_eq_false_iff_ne.2 (ha e h).ne
      simp [FMap.find, hne, ih hs h]

theorem FMap.mem_put_sorted {m : FMap α} (hs : m.sorted = true) {k : Nat} {v : α} {e : Nat × α}
    (h : e ∈ FMap.put m k v) : e = (k, v) ∨ (e ∈ m ∧ e.1 ≠ k) := by
  by_cases hk : e.1 = k
  · have hf := FMap.find_of_mem (FMap.sorted_put m k v hs) h
    rw [hk, FMap.find_put_same, Option.some.injEq] at hf
    exact .inl (Prod.ext hk hf.symm)
  · exact (FMap.mem_put h).imp_right fun hm => ⟨hm, hk⟩

/-- A map over the entries that keeps their keys acts on what a key finds. -/
theorem FMap.find_map {f : Nat × α → Nat × β} (hf : ∀ e, (f e).1 = e.1) (m : FMap α) (k : Nat) :
    FMap.find (m.map f) k = (m.find k).map fun v => (f (k, v)).2 := by
  induction m with
  | nil => rfl
  | cons e m ih =>
    cases he : e.1 == k
    · simp [FMap.find, hf, he, ih]
    · have : e = (k, e.2) := Prod.ext (beq_iff_eq.1 he) rfl
      rw [this]; simp [FMap.find, hf]

theorem FMap.sorted_map {f : Nat × α → Nat × β} (hf : ∀ e, (f e).1 = e.1) {m : FMap α} (h : m.sorted = true) :
    FMap.sorted (m.map f) = true := by
  induction m with
  | nil => rfl
  | cons e m ih =>
    obtain ⟨ha, hs⟩ := (FMap.sorted_cons e m).1 h
    refine (FMap.sorted_cons _ _).2 ⟨fun x hx => ?_, ih hs⟩
    obtain ⟨y, hy, rfl⟩ := List.mem_map.1 hx
    rw [hf, hf]; exact ha y hy

/-- Where no entry had the property, only a new one has it. -/
theorem FMap.filter_put {p : Nat × α → Bool} {m : FMap α} {k : Nat} {v : α} (hm : ∀ e ∈ m, p e = false)
    (hv : p (k, v) = true) : (FMap.put m k v).filter p = [(k, v)] := by
  have hnil (l : List (Nat × α)) (hl : ∀ e ∈ l, p e = false) : l.filter p = [] :=
    List.filter_eq_nil_iff.2 fun e he => by simp [hl e he]
  induction m with
  | nil => simp [FMap.put, hv]
  | cons e m ih =>
    obtain ⟨he, ht⟩ := List.forall_mem_cons.1 hm
    simp only [FMap.put]
    cases e.1 == k
    · cases Nat.blt k e.1
      · simpa [List.filter_cons, he] using ih ht
      · simp [hv, he, hnil m ht]
    · simp [hv, hnil m ht]

/-- The only entry of a rising map with a property. -/
theorem FMap.filter_single {p : Nat × α → Bool} {m : FMap α} {k : Nat} {v : α} (hs : m.sorted = true)
    (hf : m.find k = some v) (hv : p (k, v) = true) (hm : ∀ e ∈ m, e.1 ≠ k → p e = false) :
    m.filter p = [(k, v)] := by
  induction m with
  | nil => simp [FMap.find] at hf
  | cons e m ih =>
    obtain ⟨ha, hs⟩ := (FMap.sorted_cons e m).1 hs
    obtain ⟨he, ht⟩ := List.forall_mem_cons.1 hm
    simp only [FMap.find] at hf
    cases hk : e.1 == k
    · simp only [hk, cond_false] at hf
      simpa [List.filter_cons, he (by simpa using hk)] using ih hs hf ht
    · simp only [hk, cond_true, Option.some.injEq] at hf
      have hek : e = (k, v) := Prod.ext (beq_iff_eq.1 hk) hf
      have hrest : m.filter p = [] := List.filter_eq_nil_iff.2 fun x hx => by
        simp [ht x hx (by have := ha x hx; rw [hek] at this; exact this.ne')]
      rw [hek, List.filter_cons, if_pos hv, hrest]

end Sys2Proof

namespace Sys2Proof.Machine
open Sys2Proof

/-! ### Writes of far memory -/

/-- `x` is `s` but for the bytes and poison of far memory. -/
def SameButFar (s x : State) : Prop := ∃ far psn, x = { s with mem := { s.mem with far := far, farPsn := psn } }

section
variable {s x : State} {pa : Nat}

theorem SameButFar.refl : SameButFar s s := ⟨_, _, rfl⟩

theorem SameButFar.ite {c : Prop} [Decidable c] {y : State} (hx : SameButFar s x) (hy : SameButFar s y) :
    SameButFar s (if c then x else y) := by split <;> assumption

theorem SameButFar.foldl {α : Type} {l : List α} {f : State → α → State} (h : SameButFar s x)
    (hf : ∀ y a, SameButFar s y → SameButFar s (f y a)) : SameButFar s (l.foldl f x) :=
  List.foldlRecOn l f h fun y hy a _ => hf y a hy

theorem SameButFar.extentWrite {bs : List Byte} {psn : Bool} (h : SameButFar s x) :
    SameButFar s (extentWrite x pa bs psn) := by
  obtain ⟨far, fp, rfl⟩ := h
  unfold Machine.extentWrite
  split
  · split
    · exact ⟨_, _, rfl⟩
    · exact ⟨_, _, rfl⟩
  · exact ⟨_, _, rfl⟩

theorem SameButFar.physWrite {bs : List Byte} {psn : Bool} (h : SameButFar s x) :
    SameButFar s (physWrite x pa bs psn) := by
  unfold Machine.physWrite
  exact .ite h.extentWrite (h.foldl fun _ _ hy => hy.extentWrite)

theorem SameButFar.physWriteWords {ws : List Word64} (h : SameButFar s x) : SameButFar s (physWriteWords x pa ws) :=
  h.physWrite

theorem SameButFar.saveWords {ws : List Nat} (h : SameButFar s x) : SameButFar s (saveWords x pa ws) := h.physWrite

theorem SameButFar.physCells {cs : List (Byte × Byte × Bool)} (h : SameButFar s x) : SameButFar s (physCells x pa cs) := by
  unfold Machine.physCells writeCells
  refine h.foldl fun y w hy => ?_
  unfold writeWord
  exact .ite hy.physWrite (.ite hy.physWrite (hy.foldl fun _ _ hz => hz.physWrite))

theorem SameButFar.writeSfq {u : UnitRec} {t : Team} (h : SameButFar s x) : SameButFar s (writeSfq x u t) :=
  h.foldl fun _ _ hy => hy.physWriteWords

theorem SameButFar.writeEvents {u : UnitRec} (h : SameButFar s x) : SameButFar s (writeEvents x u) := h.physWriteWords

theorem SameButFar.writeUnitBlock {u : UnitRec} {bound : Bool} (h : SameButFar s x) :
    SameButFar s (writeUnitBlock x u bound) := by
  unfold Machine.writeUnitBlock
  extract_lets pa header windows tags bars tids claims cluster
  have hwindows : SameButFar s windows := .foldl h.saveWords fun _ _ hy => hy.saveWords
  have htags : SameButFar s tags := hwindows.foldl fun _ _ hy => hy.saveWords
  have hbars : SameButFar s bars := htags.foldl fun _ _ hy => hy.saveWords
  have htids : SameButFar s tids := hbars.foldl fun _ _ hy => hy.saveWords
  have hclaims : SameButFar s claims := htids.foldl fun _ _ hy => hy.saveWords
  exact .ite hclaims.physWrite hclaims

theorem SameButFar.writeTeamBlock {u : UnitRec} {core slot : Nat} {t : Team} (h : SameButFar s x) :
    SameButFar s (writeTeamBlock x u core slot t) := by
  unfold Machine.writeTeamBlock
  extract_lets lanes pa regs last csrs g full masks fmask sfq queue opLog pipes gangLog v q
  have hmasks : SameButFar s masks := .foldl h.physWriteWords.physWriteWords.saveWords fun _ _ hy => hy.physWrite
  have hsfq : SameButFar s sfq := hmasks.physWrite.writeSfq
  have hqueue : SameButFar s queue := .ite hsfq (hsfq.foldl fun _ _ hy => hy.saveWords)
  have hopLog : SameButFar s opLog := hqueue.foldl fun _ _ hy => hy.saveWords
  have hpipes : SameButFar s pipes := hopLog.foldl fun _ _ hy => hy.physWrite
  have hgangLog : SameButFar s gangLog := hpipes.foldl fun _ _ hy => hy.foldl fun _ _ hz => hz.saveWords
  have hv : SameButFar s v := hgangLog.foldl fun _ _ hy => hy.physWrite
  have hq : SameButFar s q := .ite hv (hv.foldl fun _ _ hy => hy.physWrite)
  exact hq.foldl fun _ _ hy => hy.physWrite.physWrite

theorem SameButFar.writeMatrixBlock {u : UnitRec} {cl slot : Nat} (h : SameButFar s x) :
    SameButFar s (writeMatrixBlock x u cl slot) := by
  unfold Machine.writeMatrixBlock
  split
  · exact h
  · exact ((h.physWriteWords.physWriteWords.saveWords.foldl fun _ _ hy => hy.saveWords).foldl
      fun _ _ hy => hy.saveWords).foldl fun _ _ hy => hy.foldl fun _ _ hz => hz.physWrite

theorem SameButFar.copyOut {u : UnitRec} (h : SameButFar s x) : SameButFar s (copyOut x u) :=
  h.foldl fun _ _ hy => hy.physCells

end
end Sys2Proof.Machine
end

/-! ## What a suspension leaves (R408, R410, R414). -/

section
namespace Sys2Proof.Machine
open Sys2Proof Sys2Proof.Claims

/-! ### Suspending a unit -/

@[simp] theorem State.darning_setDarning (s : State) (k : Nat) (x : Darning) : (s.setDarning k x).darning k = x := by
  simp [State.darning, State.setDarning, State.die, State.setDie, FMap.look_put_same]

@[simp] theorem State.core_setCore (s : State) (c : Nat) (x : Core) : (s.setCore c x).core c = x :=
  FMap.look_put_same _ _ _ _

theorem readSources_of_none {s : State} {v : Nat} (h : ∀ e ∈ s.cmds, e.2.unit ≠ v) : readSources s v = s := by
  have hnil : s.cmds.filter (fun e => e.2.unit == v && (e.2.kind == .wpost || e.2.kind == .cpy)) = [] :=
    List.filter_eq_nil_iff.2 fun e he => by simp [h e he]
  unfold readSources
  rw [hnil]; rfl

theorem eccRead_same (s : State) (core off n : Nat) :
    ∃ ecc, eccRead s core off n = { s with mem := { s.mem with ecc := ecc } } := by
  unfold eccRead
  split
  · exact ⟨_, rfl⟩
  · exact ⟨_, rfl⟩

theorem readOperands_same (s : State) (v : Nat) :
    ∃ ecc cs, readOperands s v = { s with clusters := cs, mem := { s.mem with ecc := ecc } } := by
  unfold readOperands
  split
  · exact ⟨_, _, rfl⟩
  · extract_lets spans s1
    obtain ⟨ecc, he⟩ : ∃ ecc, s1 = { s with mem := { s.mem with ecc := ecc } } := by
      refine List.foldlRecOn (motive := fun y => ∃ ecc, y = { s with mem := { s.mem with ecc := ecc } }) spans _ ?_ ?_
      · exact ⟨_, rfl⟩
      · rintro _ ⟨_, rfl⟩ _ _
        exact eccRead_same _ _ _ _
    rw [he]; exact ⟨_, _, rfl⟩

/-- The blocks of a save area as a suspension writes them (R411 to R413, R416). -/
def writeSaveArea (s : State) (v : Nat) (u : UnitRec) : State :=
  let s := writeUnitBlock s u (boundProg s v u).isSome
  let s := writeEvents ((s.teamsOf v).foldl (fun s t => writeTeamBlock s u u.core t.1 t.2) s)
    { u with events := [], lostEvents := 0 }
  match boundProg s v u with
  | some (c, p) => writeMatrixBlock s u c p
  | none => s

/-- The unit leaves its core for its save area: what a suspension does once the blocks are written (R408, R414). -/
def leaveCore (s : State) (v k : Nat) (u : UnitRec) (ts : List (Nat × Team)) : State :=
  let x : Darning := { Darning.free with
    state := 1, unit := v, core := u.core, base4k := u.base4k, size4k := u.need.spad / 4096, job := u.job,
    save := u.save, pend := boundCount s v, mark := s.nextId }
  let s := (s.setDarning k x).setUnit v { u with
    st := .suspended, entry := k, resumeCore := 0, auto := false,
    slots := (List.range u.need.teams).map (fun i => ((ts.find? (fun t => t.2.index == i)).map (·.1)).getD 32)
    savedTeams := ts.map (fun t => (t.2.index, t.2)) }
  let s := { s with teams := s.teams.filter (fun e => e.2.unit != v) }
  let s := ts.foldl (fun s t => moveTraffic s u.core t.1 (savedCore v) t.2.index) s
  let s := s.onLaunch u.launch (fun l => match l.vec with
    | some w => if w.ord then { l with suspended := setIns l.suspended u.index } else l
    | none => l)
  s.setCore u.core { s.core u.core with pstat := pstatWord 1 k, pcmdBusy := resumeRuns s u.core }

theorem suspendUnit_eq {s r : State} {v k : Nat} {u : UnitRec} (hr : readOperands (readSources s v) v = r)
    (h : r.unit v = some u) : suspendUnit s v k =
      leaveCore (writeSaveArea r v u) v k u ((writeUnitBlock r u (boundProg r v u).isSome).teamsOf v) := by
  unfold suspendUnit
  simp only [hr, h]
  rfl

theorem SameButFar.writeSaveArea {s x : State} {v : Nat} {u : UnitRec} (h : SameButFar s x) :
    SameButFar s (writeSaveArea x v u) := by
  unfold Machine.writeSaveArea
  extract_lets unitBlock teamBlocks
  have hteams : SameButFar s teamBlocks :=
    (SameButFar.foldl h.writeUnitBlock fun _ _ hy => hy.writeTeamBlock).writeEvents
  split
  · exact hteams.writeMatrixBlock
  · exact hteams

/-- Moving a team's traffic leaves everything else. -/
theorem moveTraffic_foldl_same {α : Type} (l : List α) (s : State) (core core' : Nat) (slot slot' : α → Nat) :
    ∃ P G C R, l.foldl (fun s t => moveTraffic s core (slot t) core' (slot' t)) s =
      { s with pendings := P, gangAcc := G, cmds := C, reqs := R } := by
  refine List.foldlRecOn (motive := fun y => ∃ P G C R, y = { s with pendings := P, gangAcc := G, cmds := C, reqs := R })
    l _ ?_ ?_
  · exact ⟨_, _, _, _, rfl⟩
  · rintro _ ⟨_, _, _, _, rfl⟩ _ _
    exact ⟨_, _, _, _, rfl⟩

theorem State.onLaunch_same (s : State) (l : Nat) (f : Launch → Launch) :
    ∃ L, s.onLaunch l f = { s with launches := L } := by
  unfold State.onLaunch
  split
  · exact ⟨_, rfl⟩
  · exact ⟨_, rfl⟩

/-- A unit that leaves its core, where no other unit resumes, is suspended. -/
theorem leaveCore_suspended {s : State} {v k : Nat} {u : UnitRec} {ts : List (Nat × Team)}
    (hs : s.units.sorted = true) (hr : ∀ e ∈ s.units, e.1 ≠ v → e.2.resumeCore ≠ u.core + 1) :
    Suspended s (leaveCore s v k u ts) v k u := by
  unfold leaveCore
  extract_lets free x placed home moved listed
  obtain ⟨_, _, _, _, hmoved⟩ : ∃ P G C R, moved = { home with pendings := P, gangAcc := G, cmds := C, reqs := R } :=
    moveTraffic_foldl_same ts home u.core (savedCore v) (·.1) (·.2.index)
  obtain ⟨L, hlisted⟩ : ∃ L, listed = { moved with launches := L } := moved.onLaunch_same _ _
  have hbusy : resumeRuns listed u.core = false := by
    rw [hlisted, hmoved]
    refine List.any_eq_false.2 fun e he => ?_
    rcases FMap.mem_put_sorted hs he with rfl | ⟨he, hne⟩
    · simp
    · simp [hr e he hne]
  rw [hbusy, hlisted, hmoved]
  refine ⟨⟨_, State.unit_setUnit_same _ _ _, rfl, rfl⟩, fun e he => ?_, ?_, ?_, ?_, ?_, rfl⟩
  · exact bne_iff_ne.1 (List.mem_filter.1 he).2
  · exact congrArg Darning.unit (State.darning_setDarning s k x)
  · exact congrArg Darning.state (State.darning_setDarning s k x)
  · rw [State.core_setCore]
  · rw [State.core_setCore]

/-- Suspending a unit that has no command in flight (R408, R410, R414). -/
theorem suspendUnit_suspended {s : State} {v k : Nat} {u : UnitRec} (hu : s.unit v = some u)
    (hc : ∀ e ∈ s.cmds, e.2.unit ≠ v) (hs : s.units.sorted = true)
    (hr : ∀ e ∈ s.units, e.1 ≠ v → e.2.resumeCore ≠ u.core + 1) : Suspended s (suspendUnit s v k) v k u := by
  obtain ⟨ecc, cs, hread⟩ := readOperands_same s v
  rw [← readSources_of_none hc] at hread
  rw [suspendUnit_eq hread (by rw [readSources_of_none hc]; exact hu), readSources_of_none hc]
  obtain ⟨far, psn, hw⟩ := SameButFar.refl.writeSaveArea (v := v) (u := u)
    (s := { s with clusters := cs, mem := { s.mem with ecc := ecc } })
  rw [hw]
  exact leaveCore_suspended hs hr

end Sys2Proof.Machine
end

/-! ## Saving the teams of a unit (R408, R409). -/

section
namespace Sys2Proof.Machine
open Sys2Proof Sys2Proof.Claims

/-! ### Saving a unit's teams -/

theorem settleResults_of_none {s : State} (hp : s.pendings = []) (core slot : Nat) : settleResults s core slot = s := by
  simp [settleResults, hp]

/-- With no result pending, a save at instruction level only marks the team (R409). -/
theorem saveTeam_of_none {s : State} (hp : s.pendings = []) (core slot : Nat) :
    saveTeam s core slot none = s.onTeam core slot (fun t => { t with set_ := .saved, live := none }) := by
  have hsame (f : Nat × Pending → Nat × Pending) : { s with pendings := s.pendings.map f } = s := by
    rw [hp, List.map_nil, ← hp]
  unfold saveTeam State.onTeam
  rw [settleResults_of_none hp]
  cases h : s.team core slot <;> simp only [h, hsame]

/-- Every team of unit `v` is on the core; each is saved or among those still to be saved. -/
def SavedBut (v core : Nat) (T : FMap Team) (rest : List (Nat × Team)) : Prop :=
  ∀ k t, T.find k = some t → t.unit = v → k / 32 = core ∧ (t.set_ = .saved ∨ (k % 32, t) ∈ rest)

/-- What a save in progress does with one team of the unit. -/
theorem save_step {s : State} {v core : Nat} {a : Nat × Team} {l : List (Nat × Team)} (hp : s.pendings = [])
    (hc : core < 0x10000) (hs : s.teams.sorted = true) (h : SavedBut v core s.teams (a :: l)) :
    ∃ T, (if a.2.set_ != .saved then saveTeam s core a.1 none else s) = { s with teams := T } ∧
      T.sorted = true ∧ SavedBut v core T l := by
  rw [saveTeam_of_none hp]
  split
  · unfold State.onTeam
    rw [State.team_low s _ hc]
    cases hf : s.teams.find (teamKey core a.1) with
    | none =>
      refine ⟨_, rfl, hs, fun k t hk hv => ?_⟩
      obtain ⟨hcore, hsaved⟩ := h k t hk hv
      refine ⟨hcore, hsaved.imp_right fun hm => (List.mem_cons.1 hm).resolve_left ?_⟩
      rintro rfl
      rw [teamKey, ← hcore, Nat.div_add_mod', hk] at hf
      cases hf
    | some t₀ =>
      refine ⟨_, State.setTeam_low _ _ _ hc, FMap.sorted_put _ _ _ hs, fun k t hk hv => ?_⟩
      by_cases hkey : k = teamKey core a.1
      · rw [hkey, FMap.find_put_same, Option.some.injEq] at hk
        subst hk
        exact ⟨hkey ▸ (h _ t₀ hf hv).1, .inl rfl⟩
      · rw [FMap.find_put_other _ _ hkey] at hk
        obtain ⟨hcore, hsaved⟩ := h k t hk hv
        refine ⟨hcore, hsaved.imp_right fun hm => (List.mem_cons.1 hm).resolve_left ?_⟩
        rintro rfl
        exact hkey (by rw [teamKey, ← hcore, Nat.div_add_mod'])
  · next hset =>
    refine ⟨_, rfl, hs, fun k t hk hv => ?_⟩
    obtain ⟨hcore, hsaved⟩ := h k t hk hv
    refine ⟨hcore, hsaved.elim .inl fun hm => (List.mem_cons.1 hm).imp ?_ id⟩
    rintro rfl
    simpa using hset

theorem save_foldl {v core : Nat} (hc : core < 0x10000) (l : List (Nat × Team)) {s : State} (hp : s.pendings = [])
    (hs : s.teams.sorted = true) (h : SavedBut v core s.teams l) :
    ∃ T, l.foldl (fun s a => if a.2.set_ != .saved then saveTeam s core a.1 none else s) s = { s with teams := T } ∧
      T.sorted = true ∧ SavedBut v core T [] := by
  induction l generalizing s with
  | nil => exact ⟨_, rfl, hs, h⟩
  | cons a l ih =>
    obtain ⟨T, hstep, hT, hbut⟩ := save_step hp hc hs h
    rw [List.foldl_cons, hstep]
    exact ih (s := { s with teams := T }) hp hT hbut

theorem State.onProg_same (s : State) (c p : Nat) (f : Prog → Prog) : ∃ P, s.onProg c p f = { s with progs := P } := by
  unfold State.onProg
  split
  · exact ⟨_, rfl⟩
  · exact ⟨_, rfl⟩

theorem State.saved_of_onProg {s : State} {c p : Nat} {r : Prog}
    (h : (s.onProg c p (fun r => { r with saved := true })).prog c p = some r) : r.saved = true := by
  cases hp : s.prog c p with
  | none => rw [State.onProg, hp] at h; cases hp.symm.trans h
  | some q =>
    rw [State.onProg_of _ _ hp, State.prog_setProg_same, Option.some.injEq] at h
    rw [← h]

theorem unitSaved_iff {s : State} {v : Nat} {u : UnitRec} : unitSaved s v u = true ↔
    (∀ e ∈ s.teams, e.2.unit = v → e.2.set_ = .saved) ∧
      ∀ c p r, boundProg s v u = some (c, p) → s.prog c p = some r → r.saved = true := by
  have hteams : (s.teamsOf v).all (fun t => t.2.set_ == .saved) = true ↔
      ∀ e ∈ s.teams, e.2.unit = v → e.2.set_ = .saved := by
    simp [State.teamsOf, imp_iff_not_or]
  unfold unitSaved
  rw [Bool.and_eq_true, hteams]
  refine and_congr_right fun _ => ?_
  cases boundProg s v u with
  | none => simp
  | some b =>
    obtain ⟨c, p⟩ := b
    cases hp : s.prog c p with
    | none =>
      simp only [hp, true_iff]
      intro _ _ _ hb hr
      cases hb
      cases hp.symm.trans hr
    | some r =>
      simp only [hp]
      refine ⟨fun h _ _ _ hb hr => ?_, fun h => h c p r rfl hp⟩
      cases hb
      cases hp.symm.trans hr
      exact h

/-- A save of the whole unit changes its teams and programs only, and leaves the unit saved (R408, R409). -/
theorem saveBlocked_all {s : State} {v : Nat} {u : UnitRec} (h : Savable s v u) :
    ∃ T P, saveBlocked s v u true = { s with teams := T, progs := P } ∧
      unitSaved { s with teams := T, progs := P } v u = true := by
  obtain ⟨-, -, -, -, -, hcore, hsort, hpend, -, hteams, -, -⟩ := h
  have hbut : SavedBut v u.core s.teams (s.teamsOf v) := fun k t hk hv => by
    have hm := FMap.mem_of_find hk
    exact ⟨hteams _ hm hv, .inr (List.mem_map.2 ⟨_, List.mem_filter.2 ⟨hm, by simpa using hv⟩, rfl⟩)⟩
  obtain ⟨T, hfold, hT, hsaved⟩ := save_foldl hcore _ hpend hsort hbut
  have hall : ∀ e ∈ T, e.2.unit = v → e.2.set_ = .saved := fun e he hv => by
    simpa using (hsaved _ _ (FMap.find_of_mem hT he) hv).2
  unfold saveBlocked
  simp only [Bool.true_or, Bool.and_true, hfold, if_true]
  cases hb : boundProg { s with teams := T } v u with
  | none => exact ⟨T, s.progs, rfl, unitSaved_iff.2 ⟨hall, fun c p r hbound => by cases hb.symm.trans hbound⟩⟩
  | some b =>
    obtain ⟨c, p⟩ := b
    obtain ⟨P, hP⟩ := State.onProg_same { s with teams := T } c p (fun r => { r with saved := true })
    refine ⟨T, P, hP, unitSaved_iff.2 ⟨hall, fun c' p' r hbound hr => ?_⟩⟩
    cases hb.symm.trans hbound
    rw [← hP] at hr
    exact State.saved_of_onProg hr

end Sys2Proof.Machine
end

/-! ## From a marked unit to its suspension (R407, R408). -/

section
namespace Sys2Proof.Machine
open Sys2Proof Sys2Proof.Claims

/-! ### Units that are being pre-empted -/

theorem areaTaken_other {s x : State} {v : Nat} {u w : UnitRec} (hfence : x.cmFence = s.cmFence)
    (harea : (x.core u.core).psave = (s.core u.core).psave) (hcore : w.core = u.core)
    (hunits : ∀ e ∈ x.units, e.1 ≠ v → e ∈ s.units) (h : areaTaken s v u = false) : areaTaken x v w = false := by
  unfold areaTaken saveArea at h ⊢
  rw [hcore, hfence]
  cases hf : s.cmFence.contains u.core with
  | false => rfl
  | true =>
    simp only [hf, Bool.true_and, if_true, List.any_eq_false] at h ⊢
    intro e he
    by_cases hv : e.1 = v
    · simp [hv]
    · rw [harea]; exact h e (hunits e he hv)

/-- Marking the unit of a save keeps what the save needs. -/
theorem savable_marked {s : State} {v : Nat} {u w : UnitRec} {C : FMap Core} {T : FMap Team} {P : FMap Prog}
    (h : Savable s v u) (hcore : w.core = u.core) (hgang : w.gang = u.gang) (hst : w.st ≠ .resuming)
    (harea : (C.look (Core.idle u.core) u.core).psave = (s.core u.core).psave) (hT : T.sorted = true)
    (hteams : ∀ e ∈ T, e.2.unit = v → e.1 / 32 = u.core) :
    Savable { s with units := s.units.put v w, cores := C, teams := T, progs := P } v w := by
  obtain ⟨-, hn, htaken, hresume, hg, hlow, -, hpend, hcmds, -, hothers, hsort⟩ := h
  have hother {p : Nat × UnitRec → Prop} (hp : ∀ e ∈ s.units, e.1 ≠ v → p e) :
      ∀ e ∈ s.units.put v w, e.1 ≠ v → p e :=
    fun e he hne => (FMap.mem_put he).elim (fun h => absurd (congrArg Prod.fst h) hne) fun h => hp e h hne
  refine ⟨FMap.find_put_same _ _ _, fun e he hr => ?_,
    areaTaken_other (s := s) (u := u) rfl harea hcore (hother fun _ h _ => h) htaken,
    hother (hcore ▸ hresume), hgang.trans hg, hcore ▸ hlow, hT, hpend, hcmds, hcore ▸ hteams, hother hothers,
    FMap.sorted_put _ _ _ hsort⟩
  rcases FMap.mem_put he with rfl | he
  · exact absurd hr hst
  · exact hn e he hr

theorem State.setUnit_setUnit (s : State) (v : Nat) (u w : UnitRec) : (s.setUnit v u).setUnit v w = s.setUnit v w := by
  simp only [State.setUnit, FMap.put_put]

theorem unitSaved_setUnit (s : State) (v : Nat) (u w : UnitRec) : unitSaved (s.setUnit v w) v u = unitSaved s v u := rfl

theorem freeEntry_setUnit (s : State) (v d : Nat) (w : UnitRec) : freeEntry (s.setUnit v w) d = freeEntry s d := rfl

theorem gangUnits_alone (s : State) (v : Nat) {u : UnitRec} (hgang : u.gang = 0) : gangUnits s v u = [v] := by
  simp [gangUnits, hgang]

/-- A unit that is alone in its gang, and all saved, is suspended (R408). -/
theorem settleUnit_of_saved {s x : State} {v k : Nat} {u : UnitRec} (hu : s.unit v = some u) (hst : u.st = .saving)
    (hgang : u.gang = 0) (hx : saveBlocked s v u true = x) (hxu : x.unit v = some u) (hsaved : unitSaved x v u = true)
    (htaken : areaTaken (x.setUnit v u) v u = false) (hk : freeEntry x (dieOf u.core) = some k) :
    ∃ A, settleUnit s v = suspendUnit (x.setUnit v { u with save := A }) v k := by
  have hsame : { u with st := .saving } = u := by rw [← hst]
  refine ⟨saveArea (x.setUnit v u) u, ?_⟩
  unfold settleUnit
  simp [hu, hst, hx, hsaved, State.onUnit_of _ _ hxu, hsame, gangUnits_alone _ _ hgang, State.unit_setUnit_same,
    unitSaved_setUnit, htaken, freeEntry_setUnit, hk, State.setUnit_setUnit]

/-- A unit that is SAVING, and that nothing keeps, is suspended at once (R408). -/
theorem settleUnit_suspended {s : State} {v k : Nat} {u : UnitRec} (h : Savable s v u) (hst : u.st = .saving)
    (hk : freeEntry s (dieOf u.core) = some k) : Suspended s (settleUnit s v) v k u := by
  obtain ⟨T, P, hsave, hsaved⟩ := saveBlocked_all h
  obtain ⟨hu, -, htaken, hresume, hgang, -, -, -, hcmds, -, -, hsort⟩ := h
  have hold (w : UnitRec) : ∀ e ∈ s.units.put v w, e.1 ≠ v → e ∈ s.units := fun e he hne =>
    (FMap.mem_put he).resolve_left fun h => hne (congrArg Prod.fst h)
  obtain ⟨A, hA⟩ := settleUnit_of_saved hu hst hgang hsave hu hsaved
    (areaTaken_other (s := s) rfl rfl rfl (hold u) htaken) hk
  rw [hA]
  exact suspendUnit_suspended (u := { u with save := A }) (State.unit_setUnit_same _ _ _) hcmds
    (FMap.sorted_put _ _ _ hsort) fun e he hne => hresume e (hold _ e he hne) hne

/-- Where one unit alone is being pre-empted and no fence has overtaken a resume, that unit goes on. -/
theorem settleUnits_one {s : State} {v : Nat} {u : UnitRec} (hn : NoneOvertaken s)
    (hone : s.units.filter (fun e => e.2.st == .requested || e.2.st == .saving) = [(v, u)]) :
    settleUnits s = settleUnit s v := by
  have hnone : s.units.filter (fun e => e.2.st == .resuming && placeFenced s e.2) = [] :=
    List.filter_eq_nil_iff.2 fun e he => by
      by_cases hr : e.2.st = .resuming
      · simp [hn e he hr]
      · simp [hr]
  unfold settleUnits
  simp only [hnone, hone, List.foldl_nil, List.foldl_cons]

theorem settleUnits_suspended {s : State} {v k : Nat} {u : UnitRec} (h : Savable s v u) (hst : u.st = .saving)
    (hk : freeEntry s (dieOf u.core) = some k) : Suspended s (settleUnits s) v k u := by
  rw [settleUnits_one h.2.1 (u := u)]
  · exact settleUnit_suspended h hst hk
  · obtain ⟨hu, -, -, -, -, -, -, -, -, -, hothers, hsort⟩ := h
    exact FMap.filter_single hsort hu (by simp [hst]) fun e he hne => by simp [hothers e he hne]

/-! ### Commands -/

/-- The unit as a request or a force leaves it (R407, R408). -/
def askedUnit (s : State) (u : UnitRec) (force : Bool) : UnitRec :=
  { u with
    st := if force then .saving else .requested
    save := bits (s.core u.core).psave.toNat 12 40 * 4096
    deadline := dieCycles s (dieOf u.core) + (s.core u.core).pdl.toNat }

/-- REQ of the unit's teams is set. -/
def askTeam (v : Nat) (e : Nat × Team) : Nat × Team :=
  if e.2.unit == v then (e.1, { e.2 with th := { e.2.th with preq := true } }) else e

@[simp] theorem askTeam_key (v : Nat) (e : Nat × Team) : (askTeam v e).1 = e.1 := by unfold askTeam; split <;> rfl
@[simp] theorem askTeam_unit (v : Nat) (e : Nat × Team) : (askTeam v e).2.unit = e.2.unit := by
  unfold askTeam; split <;> rfl

/-- A request or a force of a unit that runs (R407, R408). -/
theorem startSave_running {s : State} {v : Nat} {u : UnitRec} (hu : s.unit v = some u) (hr : u.st = .running)
    (force command : Bool) : ∃ P, startSave s v force command = { s with
      units := s.units.put v (askedUnit s u force), teams := s.teams.map (askTeam v), progs := P
      cores := s.cores.put u.core { s.core u.core with pcmdBusy := (s.core u.core).pcmdBusy || command } } := by
  unfold startSave
  simp only [hu, hr, show (UnitState.running == .zeroing) = false from rfl,
    show (UnitState.running != .running) = false from rfl, Bool.false_eq_true, if_false]
  split
  · exact Exists.imp (fun _ hP => Eq.trans hP rfl) (State.onProg_same _ _ _ _)
  · exact ⟨_, rfl⟩

@[simp] theorem State.team_setCore (s : State) (c : Nat) (x : Core) (d k : Nat) :
    (s.setCore c x).team d k = s.team d k := rfl
@[simp] theorem State.unit_setCore (s : State) (c : Nat) (x : Core) (v : Nat) : (s.setCore c x).unit v = s.unit v := rfl

theorem pcmdSave_of {s : State} {c : Nat} {sl : BitVec 5} {t : Team} {u : UnitRec} {force : Bool}
    (ht : s.team c sl.toNat = some t) (hu : s.unit t.unit = some u) (hgang : u.gang = 0)
    (hbusy : (s.core c).pcmdBusy = false) : pcmdSave c sl force s =
      .next (settleUnits (startSave (s.setCore c { s.core c with pcmdSlot := sl }) t.unit force true)) := by
  unfold pcmdSave
  simp [hbusy, ht, hu, gangUnits_alone _ _ hgang]

/-- Both commands start from the asked unit with its core busy (R407). -/
theorem pcmdSave_asks {s : State} {c : Nat} {sl : BitVec 5} {t : Team} {u : UnitRec} (ht : s.team c sl.toNat = some t)
    (hu : s.unit t.unit = some u) (hr : u.st = .running) (hcore : u.core = c) (hgang : u.gang = 0)
    (hbusy : (s.core c).pcmdBusy = false) (force : Bool) : ∃ C P, pcmdSave c sl force s = .next (settleUnits { s with
      units := s.units.put t.unit (askedUnit s u force), teams := s.teams.map (askTeam t.unit), cores := C, progs := P }) ∧
      C.look (Core.idle c) c = { s.core c with pcmdSlot := sl, pcmdBusy := true } := by
  obtain ⟨P, hP⟩ := startSave_running (s := s.setCore c { s.core c with pcmdSlot := sl }) hu hr force true
  subst hcore
  have hasked : askedUnit (s.setCore u.core { s.core u.core with pcmdSlot := sl }) u force = askedUnit s u force := by
    unfold askedUnit
    rw [State.core_setCore]; rfl
  rw [pcmdSave_of ht hu hgang hbusy, hP, hasked, State.core_setCore]
  exact ⟨_, P, rfl, by rw [FMap.look_put_same]; simp⟩

end Sys2Proof.Machine
end

/-! ## REQUEST, FORCE, the deadline and RESUME (R2, R407, R408, R414, R463). -/

section
namespace Sys2Proof.Machine
open Sys2Proof Sys2Proof.Claims

theorem mem_askTeams {v : Nat} {T : FMap Team} {e : Nat × Team} (he : e ∈ T.map (askTeam v)) :
    ∃ a ∈ T, ∃ b, e = (a.1, { a.2 with th := { a.2.th with preq := b } }) := by
  obtain ⟨a, ha, rfl⟩ := List.mem_map.1 he
  unfold askTeam
  split
  · exact ⟨a, ha, true, rfl⟩
  · exact ⟨a, ha, a.2.th.preq, rfl⟩

/-- FORCE suspends a unit that nothing keeps (R407, R408, R414). -/
theorem pcmdForce_suspends {s : State} {c k : Nat} {sl : BitVec 5} {t : Team} {u : UnitRec}
    (ht : s.team c sl.toNat = some t) (hr : u.st = .running) (hcore : u.core = c)
    (hbusy : (s.core c).pcmdBusy = false) (h : Savable s t.unit u) (hk : freeEntry s (dieOf c) = some k) :
    ∃ x, exec (.pcmdForce c sl) s = .next x ∧ Suspended s x t.unit k u := by
  obtain ⟨hu, -, -, -, hgang, -, hsort, -, -, hteams, -, -⟩ := id h
  obtain ⟨C, P, hasks, hC⟩ := pcmdSave_asks ht hu hr hcore hgang hbusy true
  subst hcore
  refine ⟨_, hasks, settleUnits_suspended (u := askedUnit s u true) (savable_marked h rfl rfl nofun (by rw [hC])
    (FMap.sorted_map (askTeam_key _) hsort) ?_) rfl hk⟩
  intro e he hv
  obtain ⟨a, ha, b, rfl⟩ := mem_askTeams he
  exact hteams a ha hv

/-- The deadline of a request saves every team at once (R408). -/
theorem preemptDeadline_suspends {s : State} {v k : Nat} {u : UnitRec} (h : Savable s v u) (hr : u.st = .requested)
    (hd : u.deadline ≤ dieCycles s (dieOf u.core)) (hk : freeEntry s (dieOf u.core) = some k) :
    ∃ x, exec (.preemptDeadline v) s = .next x ∧ Suspended s x v k u := by
  obtain ⟨hu, -, -, -, -, -, hsort, -, -, hteams, -, -⟩ := id h
  refine ⟨settleUnits (s.setUnit v { u with st := .saving }), ?_, settleUnits_suspended
    (u := { u with st := .saving }) (savable_marked h rfl rfl nofun rfl hsort hteams) rfl hk⟩
  show execPreemptDeadline v s = _
  unfold execPreemptDeadline
  simp [hu, hr, hd]

/-- A team whose streams wait for nothing is not blocked (R228). -/
theorem teamBlocked_of_free {s : State} {core slot : Nat} {t : Team} (hw : t.th.wait = .none) (hp : t.set_ ≠ .parked)
    (hq : t.queue = [] ∨ t.th.handler = true) : teamBlocked s core slot t = false := by
  have hlane : laneBlocked s core slot t = false := by
    unfold laneBlocked headPass
    rcases hq with hq | hq
    · simp [hq]
    · simp [hq]
  simp [teamBlocked, scalarBlocked, codeParked, hw, hp, hlane, Wait.blocks]

/-- A requested unit that is not all saved waits (R408). -/
theorem settleUnit_of_unsaved {s x : State} {v : Nat} {u : UnitRec} (hu : s.unit v = some u) (hst : u.st = .requested)
    (hgang : u.gang = 0) (hx : saveBlocked s v u false = x) (hxu : x.unit v = some u) (hsaved : unitSaved x v u = false) :
    settleUnit s v = x := by
  unfold settleUnit
  simp [hu, hst, show (UnitState.requested == .saving) = false from rfl, hx, hsaved, gangUnits_alone _ _ hgang, hxu,
    UnitRec.away]

/-- A requested unit none of whose teams has blocked waits for them (R408). -/
theorem settleUnit_requested {s : State} {v : Nat} {u : UnitRec} (hu : s.unit v = some u) (hst : u.st = .requested)
    (hgang : u.gang = 0) (hfree : ∀ e ∈ s.teams, e.2.unit = v → teamBlocked s u.core (e.1 % 32) e.2 = false)
    {e : Nat × Team} (he : e ∈ s.teams) (hv : e.2.unit = v) (hset : e.2.set_ ≠ .saved) :
    ∃ P, settleUnit s v = { s with progs := P } := by
  have hfold : (s.teamsOf v).foldl (fun s t =>
      if t.2.set_ != .saved && (false || teamBlocked s u.core t.1 t.2) then saveTeam s u.core t.1 none else s) s = s := by
    refine List.foldlRecOn (motive := (· = s)) _ _ rfl ?_
    rintro _ rfl a ha
    obtain ⟨x, hx, rfl⟩ := List.mem_map.1 ha
    obtain ⟨hx, hxv⟩ := List.mem_filter.1 hx
    simp [hfree x hx (by simpa using hxv)]
  obtain ⟨P, hP⟩ : ∃ P, saveBlocked s v u false = { s with progs := P } := by
    unfold saveBlocked
    simp only [hfold]
    split
    · exact State.onProg_same _ _ _ _
    · exact ⟨_, rfl⟩
  have hsaved : unitSaved { s with progs := P } v u = false :=
    Bool.eq_false_iff.2 fun h => hset ((unitSaved_iff.1 h).1 e he hv)
  exact ⟨P, settleUnit_of_unsaved hu hst hgang hP hu hsaved⟩

/-- REQUEST marks the unit and waits for the teams that are not blocked (R2, R407, R408). -/
theorem pcmdRequest_waits {s : State} {c : Nat} {sl : BitVec 5} {t : Team} {u : UnitRec} (hlow : c < 0x10000)
    (ht : s.team c sl.toNat = some t) (hu : s.unit t.unit = some u) (hr : u.st = .running) (hcore : u.core = c)
    (hgang : u.gang = 0) (hbusy : (s.core c).pcmdBusy = false) (hn : NoneOvertaken s)
    (hothers : ∀ e ∈ s.units, e.2.st ≠ .requested ∧ e.2.st ≠ .saving)
    (hfree : ∀ e ∈ s.teams, e.2.unit = t.unit → e.2.th.wait = .none ∧ e.2.set_ ≠ .saved ∧ e.2.set_ ≠ .parked ∧
      (e.2.queue = [] ∨ e.2.th.tcause.getLsbD 63 = true)) :
    ∃ x y v, exec (.pcmdRequest c sl) s = .next x ∧ x.unit t.unit = some v ∧ v.st = .requested ∧
      v.save = bits (s.core c).psave.toNat 12 40 * 4096 ∧ v.deadline = dieCycles s (dieOf c) + (s.core c).pdl.toNat ∧
      x.team c sl.toNat = some y ∧ y.th.preq = true ∧ (x.core c).pcmdBusy = true := by
  obtain ⟨C, P, hasks, hC⟩ := pcmdSave_asks ht hu hr hcore hgang hbusy false
  subst hcore
  generalize hx : ({ s with
    units := s.units.put t.unit (askedUnit s u false), teams := s.teams.map (askTeam t.unit), cores := C, progs := P } :
      State) = x at hasks
  have hxt : x.team u.core sl.toNat = some (askTeam t.unit (teamKey u.core sl.toNat, t)).2 := by
    rw [State.team_low _ _ hlow] at ht ⊢
    rw [← hx, FMap.find_map (askTeam_key _), ht]; rfl
  have hunit : x.unit t.unit = some (askedUnit s u false) := by rw [← hx]; exact FMap.find_put_same _ _ _
  have hteam : (teamKey u.core sl.toNat, (askTeam t.unit (teamKey u.core sl.toNat, t)).2) ∈ x.teams := by
    rw [State.team_low _ _ hlow] at hxt
    exact FMap.mem_of_find hxt
  have hblock : ∀ e ∈ x.teams, e.2.unit = t.unit → e.2.set_ ≠ .saved ∧ teamBlocked x u.core (e.1 % 32) e.2 = false := by
    intro e he hv
    obtain ⟨a, ha, b, rfl⟩ := mem_askTeams (hx ▸ he)
    obtain ⟨hwait, hsaved, hparked, hqueue⟩ := hfree a ha hv
    exact ⟨hsaved, teamBlocked_of_free hwait hparked hqueue⟩
  have hone : settleUnits x = settleUnit x t.unit := settleUnits_one (u := askedUnit s u false)
    (fun e he hres => by
      rw [← hx] at he ⊢
      rcases FMap.mem_put he with rfl | he
      · cases hres
      · exact hn e he hres)
    (by rw [← hx]; exact FMap.filter_put (fun e he => by simp [hothers e he]) rfl)
  obtain ⟨P', hsettle⟩ := settleUnit_requested hunit rfl hgang (fun e he hv => (hblock e he hv).2) hteam
    (askTeam_unit _ _) (hblock _ hteam (askTeam_unit _ _)).1
  rw [hone, hsettle] at hasks
  refine ⟨{ x with progs := P' }, _, _, hasks, hunit, rfl, rfl, rfl, hxt, ?_, ?_⟩
  · simp [askTeam]
  · show (x.core u.core).pcmdBusy = true
    rw [← hx]
    exact congrArg Core.pcmdBusy hC

/-- While its image is being copied a unit is not loaded (R415). -/
theorem tryLoad_of_copying {s : State} {v : Nat} {u : UnitRec} (hu : s.unit v = some u)
    (hcopy : (s.darning u.entry).state = 1) : tryLoad s v = s := by
  unfold tryLoad
  simp [hu, hcopy]

@[simp] theorem State.setCore_setCore (s : State) (c : Nat) (x y : Core) : (s.setCore c x).setCore c y = s.setCore c y := by
  simp only [State.setCore, FMap.put_put]

theorem State.setUnit_setCore (s : State) (c : Nat) (x : Core) (v : Nat) (u : UnitRec) :
    (s.setCore c x).setUnit v u = (s.setUnit v u).setCore c x := rfl

theorem resumeAllowed_setCore (s : State) (c : Nat) (x : Core) (v : Nat) (u : UnitRec) (core : Nat) :
    resumeAllowed (s.setCore c x) v u core = resumeAllowed s v u core := rfl

/-- RESUME is remembered while the image is copied (R407, R415, R463). -/
theorem pcmdResume_waits {s : State} {core v : Nat} {slot : BitVec 5} {u : UnitRec}
    (hbusy : (s.core core).pcmdBusy = false) (hallowed : resumeAllowed s v u core = true)
    (hfind : s.units.find? (fun e => e.2.st == .suspended && e.2.save == bits (s.core core).psave.toNat 12 40 * 4096 &&
      e.2.resumeCore == 0) = some (v, u)) (hcopy : (s.darning u.entry).state = 1) :
    exec (.pcmdResume core slot) s = .next ((s.setUnit v { u with resumeCore := core + 1 }).setCore core
      { s.core core with pcmdSlot := slot, pcmdBusy := true }) := by
  show execPcmdResume core slot s = _
  have hload : tryLoad ((s.setUnit v { u with resumeCore := core + 1 }).setCore core
      { s.core core with pcmdSlot := slot, pcmdBusy := true }) v = _ :=
    tryLoad_of_copying (u := { u with resumeCore := core + 1 }) (State.unit_setUnit_same s v _) hcopy
  unfold execPcmdResume
  simp [hbusy, hfind, hallowed, resumeAllowed_setCore, State.setUnit_setCore, hload]

end Sys2Proof.Machine
end

/-! ## The copied image, landings meanwhile, and what a save area gives back (R168, R415, R417). -/

section
namespace Sys2Proof.Machine
open Sys2Proof Sys2Proof.Claims

/-! ### Landings meanwhile -/

theorem State.onUnit_same (s : State) (v : Nat) (f : UnitRec → UnitRec) : ∃ U, s.onUnit v f = { s with units := U } := by
  unfold State.onUnit
  split
  · exact ⟨_, rfl⟩
  · exact ⟨_, rfl⟩

theorem closeEntry_same (s : State) (v k : Nat) : ∃ D U, closeEntry s v k = { s with dies := D, units := U } := by
  obtain ⟨U, hU⟩ := (s.setDarning k Darning.free).onUnit_same v
    (fun u => { u with entry := if u.entry == k then 0 else u.entry })
  exact ⟨_, U, hU⟩

/-- An arrival that passes the entries of its unit leaves requests and memories. -/
theorem arriveAt_same (s : State) (v id : Nat) : ∃ D U, arriveAt s v id = { s with dies := D, units := U } := by
  refine List.foldlRecOn (motive := fun y => ∃ D U, y = { s with dies := D, units := U }) (entriesOf s v) _ ?_ ?_
  · exact ⟨_, _, rfl⟩
  · rintro _ ⟨D, U, rfl⟩ k _
    unfold arriveEntry
    extract_lets e e'
    split
    · exact ⟨D, U, rfl⟩
    · split
      · obtain ⟨D', U', h⟩ := closeEntry_same { s with dies := D, units := U } v k
        exact ⟨D', U', h⟩
      · exact ⟨_, _, rfl⟩

/-- What lands for a unit whose image is in the shadow is diverted (R168, R415). -/
theorem landing_diverts {s : State} {id : Nat} {r : Req} {c : Cmd} {u : UnitRec} (hr : s.reqs.find id = some r)
    (hkind : r.kind = .fpost) (hback : r.answered = true) (hc : s.cmds.find r.cmd = some c) (hu : s.unit c.unit = some u)
    (hst : u.st = .suspended) (hentry : u.entry ≠ 0) (hmine : (s.darning u.entry).unit = c.unit)
    (hdivert : (s.darning u.entry).state = 2) :
    ∃ x y, exec (.landing id) s = .next x ∧ x.reqs.find id = some y ∧ y.st = .diverted ∧ x.mem = s.mem := by
  have hret : r.st = .returned := by
    simp only [Req.answered, Bool.and_eq_true, beq_iff_eq] at hback
    exact hback.1
  have hlandable : landable s r = some s := by simp [landable, hret, hback]
  have hlost : lostOpen s u = false := by simp [lostOpen, hst]
  have hland : land s id r c u = arriveAt (divert s id r u) c.unit id := by
    simp [land, landingAt, hret, hlost, hentry, hmine, hdivert]
  obtain ⟨D, U, harrive⟩ := arriveAt_same (divert s id r u) c.unit id
  refine ⟨arriveAt (divert s id r u) c.unit id, _, ?_, by rw [harrive]; exact FMap.find_put_same _ _ _, rfl,
    by rw [harrive]; rfl⟩
  show execLanding id s = _
  unfold execLanding
  simp [hr, hkind, hlandable, hc, hu, hlost, hland]

/-! ### The image -/

@[simp] theorem State.darning_setUnit (s : State) (v : Nat) (u : UnitRec) (k : Nat) :
    (s.setUnit v u).darning k = s.darning k := rfl
@[simp] theorem State.unit_setDarning (s : State) (k : Nat) (x : Darning) (v : Nat) :
    (s.setDarning k x).unit v = s.unit v := rfl

/-- The copied image frees the allocation, and its entry diverts what lands later (R415). -/
theorem darningCopyDone_frees {s : State} {die entry : Nat} {u : UnitRec}
    (hu : s.unit (s.darning (64 * die + entry + 1)).unit = some u) (hcopy : (s.darning (64 * die + entry + 1)).state = 1)
    (hst : u.st = .suspended) (hecc : s.mem.ecc = []) : ∃ x, exec (.darningCopyDone die entry) s = .next x ∧
      x.unit (s.darning (64 * die + entry + 1)).unit = some { u with placed := false } ∧
      x.darning (64 * die + entry + 1) = { s.darning (64 * die + entry + 1) with state := 2 } ∧
      x.mem.spad = s.mem.spad := by
  generalize hk : 64 * die + entry + 1 = k at *
  have hread (core off n : Nat) : eccRead s core off n = s := by simp [eccRead, hecc]
  have hhurt : copyHurt s u = false := by simp [copyHurt, hecc]
  obtain ⟨far, psn, hout⟩ := SameButFar.refl.copyOut (s := s) (u := u)
  refine ⟨((copyOut s u).setUnit (s.darning k).unit { u with placed := false }).setDarning k
    { s.darning k with state := 2 }, ?_, State.unit_setUnit_same _ _ _, State.darning_setDarning _ _ _, ?_⟩
  · show execDarningCopyDone die entry s = _
    unfold execDarningCopyDone
    simp [hk, hcopy, hu, hread, hhurt, hst]
  · rw [hout]; rfl

/-- `x` is `s` but for the scratchpads and their noted ECC errors. -/
def SameButSpad (s x : State) : Prop :=
  ∃ spad psn ecc, x = { s with mem := { s.mem with spad := spad, spadPsn := psn, ecc := ecc } }

theorem copyIn_same (s : State) (u : UnitRec) : SameButSpad s (copyIn s u) := by
  unfold copyIn
  refine List.foldlRecOn (motive := SameButSpad s) _ _ ⟨_, _, _, rfl⟩ ?_
  intro y hy o _
  refine List.foldlRecOn (motive := SameButSpad s) _ _ hy ?_
  rintro _ ⟨_, _, _, rfl⟩ w _
  dsimp only
  split
  · exact ⟨_, _, _, rfl⟩
  · exact ⟨_, _, _, rfl⟩

/-! ### The state that a save area gives -/

theorem loadUnit_same (s : State) (v : Nat) (u : UnitRec) :
    ∃ W G B I, loadUnit s v u = { u with windows := W, tags := G, bars := B, tids := I } := by
  unfold loadUnit
  extract_lets pa
  split
  · exact ⟨_, _, _, _, rfl⟩
  · exact ⟨_, _, _, _, rfl⟩

/-- `w` is `u` but for what its pipes hold. -/
def SameButPipes (u w : UnitRec) : Prop := ∃ Q, w = { u with pipes := Q }

theorem SameButPipes.loadPipes {u w : UnitRec} (s : State) (t : Team) (h : SameButPipes u w) :
    SameButPipes u (loadPipes s w t) := by
  unfold Machine.loadPipes
  extract_lets pa
  split
  · exact h
  · refine List.foldlRecOn (motive := SameButPipes u) _ _ h ?_
    intro w hw p _
    refine List.foldlRecOn (motive := fun a : UnitRec × Nat => SameButPipes u a.1) _ _ hw ?_
    rintro ⟨_, n⟩ ⟨Q, rfl⟩ e _
    exact ⟨_, rfl⟩

theorem loadRows_same (s : State) (u : UnitRec) : ∃ C, loadRows s u = { s with clusters := C } := by
  unfold loadRows
  split
  · exact ⟨_, rfl⟩
  · exact ⟨_, rfl⟩

theorem loadMatrix_same (s : State) (u : UnitRec) (cl slot : Nat) :
    ∃ C P, loadMatrix s u cl slot = { s with clusters := C, progs := P } := by
  unfold loadMatrix
  split
  · exact ⟨_, _, rfl⟩
  · extract_lets pa
    split
    · exact ⟨_, _, rfl⟩
    · exact ⟨_, _, rfl⟩

/-- The matrix program of a resumed unit, as its block gives it (R411, R417). -/
def loadProgram (s : State) (v : Nat) (u : UnitRec) : State :=
  match boundProg s v u with
  | some (k, p) => loadMatrix (loadRows s u) u k p
  | none => s

theorem loadProgram_same (s : State) (v : Nat) (u : UnitRec) :
    ∃ C P, loadProgram s v u = { s with clusters := C, progs := P } := by
  unfold loadProgram
  split
  · obtain ⟨C, hC⟩ := loadRows_same s u
    rw [hC]
    exact loadMatrix_same _ _ _ _
  · exact ⟨_, _, rfl⟩

/-- The unit as its save area gives it (R412, R413, R417). -/
def loadedUnit (s : State) (v : Nat) (u : UnitRec) : UnitRec :=
  let w := (loadUnit s v u).savedTeams.foldl (fun w x => loadPipes s w x.2) (loadUnit s v u)
  { w with savedTeams := w.savedTeams.map (fun x => (x.1, loadTeam s w x.2)) }

theorem loadTeam_save {u w : UnitRec} (h : w.save = u.save) (s : State) (t : Team) : loadTeam s w t = loadTeam s u t := by
  have hpa : teamBlockAt w t = teamBlockAt u t := by rw [teamBlockAt, h, teamBlockAt]
  unfold loadTeam
  rw [hpa]

theorem loadedUnit_same (s : State) (v : Nat) (u : UnitRec) : ∃ W G B I Q, loadedUnit s v u = { u with
    windows := W, tags := G, bars := B, tids := I, pipes := Q
    savedTeams := u.savedTeams.map (fun x => (x.1, loadTeam s u x.2)) } := by
  obtain ⟨W, G, B, I, hblock⟩ := loadUnit_same s v u
  have hfold (l : List (Nat × Team)) (w : UnitRec) : SameButPipes w (l.foldl (fun w x => loadPipes s w x.2) w) :=
    List.foldlRecOn (motive := SameButPipes w) l _ ⟨_, rfl⟩ fun _ hw x _ => hw.loadPipes s x.2
  obtain ⟨Q, hpipes⟩ := hfold u.savedTeams { u with windows := W, tags := G, bars := B, tids := I }
  refine ⟨W, G, B, I, Q, ?_⟩
  unfold loadedUnit
  rw [hblock, hpipes]
  simp only [loadTeam_save (u := u) (w := { u with windows := W, tags := G, bars := B, tids := I, pipes := Q }) rfl]

theorem loadState_eq {s : State} {v : Nat} {u : UnitRec} (hu : s.unit v = some u) :
    loadState s v = (loadProgram s v u).setUnit v (loadedUnit (loadProgram s v u) v u) := by
  unfold loadState
  rw [hu]
  rfl

theorem look_foldl_put (f : Nat → Word64) (l : List Nat) (m : FMap Word64) {r : Nat} (hr : r ∈ l) :
    FMap.look 0 (l.foldl (fun m r => FMap.put m r (f r)) m) r = f r := by
  induction l using List.reverseRecOn with
  | nil => cases hr
  | append_singleton l a ih =>
    rw [List.foldl_append, List.foldl_cons, List.foldl_nil]
    by_cases ha : r = a
    · rw [ha, FMap.look_put_same]
    · rw [FMap.look_put_other _ _ _ ha]
      exact ih ((List.mem_append.1 hr).resolve_right (by simpa using ha))

theorem Thread.rd_loaded (t : Thread) (s : State) (pa : Nat) {g : BitVec 5} (hg : g ≠ 0) :
    (t.loaded s pa).rd g = physWord s (pa + 0x100 + 8 * g.toNat) := by
  have hlt := g.isLt
  have hne : g.toNat ≠ 0 := fun h0 => hg (BitVec.eq_of_toNat_eq h0)
  have hmem : g.toNat ∈ List.range' 1 31 := List.mem_range'_1.2 (by omega)
  rw [Thread.rd, if_neg hg]
  unfold Thread.loaded
  simp only [look_foldl_put _ _ _ hmem]

theorem loadTeam_th {s : State} {u : UnitRec} {t : Team} (h : areaThere s (teamBlockAt u t) = true) :
    (loadTeam s u t).th = t.th.loaded s (teamBlockAt u t) := by
  unfold loadTeam
  simp only [h, Bool.not_true, Bool.false_eq_true, if_false]

theorem loadTeam_lpc {s : State} {u : UnitRec} {t : Team} (h : areaThere s (teamBlockAt u t) = true) :
    (loadTeam s u t).lpc = physWord s (teamBlockAt u t + 8) := by
  unfold loadTeam
  simp only [h, Bool.not_true, Bool.false_eq_true, if_false, Nat.mul_one]

/-! ### A loaded unit runs -/

/-- A team of a resumed unit as it takes its slot (R408, R417). -/
def resumedTeam (n : Nat) (t : Team) : Team :=
  { t with th := { t.th with preq := false }, live := none, age := 32 * n + t.index,
           set_ := if t.th.wait == .call then .parked else .pending }

/-- One team of a resumed unit takes its slot, and what was in flight for it follows (R417). -/
def resumeTeam (v n : Nat) (u : UnitRec) (s : State) (x : Nat × Team) : State :=
  let sl := (u.slots[x.1]?).getD 0
  settleResults (moveTraffic (s.setTeam u.core sl (resumedTeam n x.2)) (savedCore v) x.2.index u.core sl) u.core sl

theorem resumeTeam_same {s : State} (hp : s.pendings = []) (v n : Nat) {u : UnitRec} (hc : u.core < 0x10000)
    (x : Nat × Team) : ∃ G C R, resumeTeam v n u s x = { s with
      teams := s.teams.put (teamKey u.core ((u.slots[x.1]?).getD 0)) (resumedTeam n x.2)
      pendings := [], gangAcc := G, cmds := C, reqs := R } := by
  have hnone : s = { s with pendings := [] } := by rw [← hp]
  unfold resumeTeam
  dsimp only
  rw [State.setTeam_low _ _ _ hc, settleResults_of_none (by simp [moveTraffic, hp]), hnone]
  exact ⟨_, _, _, rfl⟩

theorem resumeTeams_same {s : State} (hp : s.pendings = []) (v n : Nat) {u : UnitRec} (hc : u.core < 0x10000)
    (l : List (Nat × Team)) : ∃ T G C R, l.foldl (resumeTeam v n u) s =
      { s with teams := T, pendings := [], gangAcc := G, cmds := C, reqs := R } := by
  refine List.foldlRecOn (motive := fun y => ∃ T G C R, y =
    { s with teams := T, pendings := [], gangAcc := G, cmds := C, reqs := R }) l _ ?_ ?_
  · exact ⟨s.teams, s.gangAcc, s.cmds, s.reqs, by rw [← hp]⟩
  · rintro _ ⟨T, G, C, R, rfl⟩ x _
    obtain ⟨G', C', R', h⟩ := resumeTeam_same
      (s := { s with teams := T, pendings := [], gangAcc := G, cmds := C, reqs := R }) rfl v n hc x
    exact ⟨_, G', C', R', h⟩

/-- What follows once the state of a unit is loaded, where no event waits (R229, R408, R417). -/
def runLoaded (s : State) (v : Nat) (u : UnitRec) : State :=
  let s := u.savedTeams.foldl (resumeTeam v s.nextId u) ({ s with nextId := s.nextId + 1 }.setUnit v
    { u with st := .running, savedTeams := [], resumeCore := 0, auto := false, events := [], lostEvents := 0 })
  let s := s.onLaunch u.launch (fun l => { l with suspended := l.suspended.filter (· != u.index) })
  let s := s.setCore u.core { s.core u.core with
    pcmdBusy := (s.core u.core).pcmdBusy && u.auto
    pstat := ((s.core u.core).pstat &&& 0x3FFFFFFFFFFFFFFF#64) ||| 0x8000000000000000#64 }
  match boundProg s v u with
  | some (k, p) => s.onProg k p (fun r => { r with saved := false, th := { r.th with preq := false } })
  | none => s

theorem runUnit_eq {s : State} {v : Nat} {u : UnitRec} (hu : (loadState s v).unit v = some u) (he : u.events = [])
    (hl : u.lostEvents = 0) : runUnit s v = runLoaded (loadState s v) v u := by
  unfold runUnit
  simp only [hu, he, hl, freshId, beq_self_eq_true, if_true, List.foldl_nil]
  rfl

/-- What a loaded unit that runs leaves (R408, R415, R417). -/
theorem runLoaded_runs {s : State} {v : Nat} {u : UnitRec} (hp : s.pendings = []) (hc : u.core < 0x10000) :
    ∃ y, (runLoaded s v u).unit v = some y ∧ y.st = .running ∧ y.entry = u.entry ∧ y.savedTeams = [] ∧
      (runLoaded s v u).dies = s.dies ∧
      ((runLoaded s v u).core u.core).pcmdBusy = ((s.core u.core).pcmdBusy && u.auto) ∧
      ∀ i t, u.savedTeams = [(i, t)] →
        (runLoaded s v u).team u.core (u.slots.getD i 0) = some (resumedTeam s.nextId t) := by
  unfold runLoaded
  extract_lets placed listed core freed
  obtain ⟨L, hlisted⟩ : ∃ L, listed = { placed with launches := L } := placed.onLaunch_same _ _
  obtain ⟨T, G, C, R, hplaced⟩ : ∃ T G C R, placed = { s.setUnit v _ with
      nextId := s.nextId + 1, teams := T, pendings := [], gangAcc := G, cmds := C, reqs := R } :=
    resumeTeams_same (s := { s with nextId := s.nextId + 1 }.setUnit v _) hp v s.nextId hc u.savedTeams
  obtain ⟨P, hfinal⟩ : ∃ P, (match boundProg freed v u with
      | some (k, p) => freed.onProg k p (fun r => { r with saved := false, th := { r.th with preq := false } })
      | none => freed) = { freed with progs := P } := by
    split
    · exact State.onProg_same _ _ _ _
    · exact ⟨_, rfl⟩
  have hunit : listed.unit v = some { u with
      st := .running, savedTeams := [], resumeCore := 0, auto := false, events := [], lostEvents := 0 } := by
    rw [hlisted, hplaced]; exact FMap.find_put_same _ _ _
  have hcore : listed.core u.core = s.core u.core := by rw [hlisted, hplaced]; rfl
  rw [hfinal]
  refine ⟨_, hunit, rfl, rfl, rfl, ?_, ?_, fun i t hone => ?_⟩
  · show listed.dies = s.dies
    rw [hlisted, hplaced]; rfl
  · show (freed.core u.core).pcmdBusy = _
    rw [State.core_setCore, hcore]
  · show listed.team u.core _ = _
    obtain ⟨_, _, _, hteam⟩ := resumeTeam_same (s := { s with nextId := s.nextId + 1 }.setUnit v
      { u with st := .running, savedTeams := [], resumeCore := 0, auto := false, events := [], lostEvents := 0 })
      hp v s.nextId hc (i, t)
    have hplaced : placed = _ := (by simp only [placed, hone, List.foldl_cons, List.foldl_nil] : placed = _).trans hteam
    rw [hlisted, hplaced, State.team_low _ _ hc]
    exact FMap.find_put_same _ _ _

end Sys2Proof.Machine
end

/-! ## The loaded image, and the obligation (R415, R417, R463). -/

section
namespace Sys2Proof.Machine
open Sys2Proof Sys2Proof.Claims

/-- A loaded unit runs, each team with what its block in the save area gives (R417). -/
theorem runUnit_runs {s : State} {v : Nat} {u : UnitRec} (hu : s.unit v = some u) (hp : s.pendings = [])
    (hc : u.core < 0x10000) (he : u.events = []) (hl : u.lostEvents = 0) :
    ∃ y, (runUnit s v).unit v = some y ∧ y.st = .running ∧ y.entry = u.entry ∧ y.savedTeams = [] ∧
      (runUnit s v).dies = s.dies ∧ ((runUnit s v).core u.core).pcmdBusy = ((s.core u.core).pcmdBusy && u.auto) ∧
      ∀ i t, u.savedTeams = [(i, t)] → ∃ r, (runUnit s v).team u.core (u.slots.getD i 0) = some r ∧ r.th.preq = false ∧
        (areaThere s (teamBlockAt u t) = true → r.th.spc = physWord s (teamBlockAt u t) ∧
          r.lpc = physWord s (teamBlockAt u t + 8) ∧ ∀ g : BitVec 5, g ≠ 0 →
            r.th.rd g = physWord s (teamBlockAt u t + 0x100 + 8 * g.toNat)) := by
  obtain ⟨C, P, hprog⟩ := loadProgram_same s v u
  obtain ⟨W, G, B, I, Q, hunit⟩ := loadedUnit_same (loadProgram s v u) v u
  have hload := loadState_eq hu
  rw [hunit, hprog] at hload
  have hloaded := State.unit_setUnit_same { s with clusters := C, progs := P } v { u with
    windows := W, tags := G, bars := B, tids := I, pipes := Q
    savedTeams := u.savedTeams.map (fun x => (x.1, loadTeam { s with clusters := C, progs := P } u x.2)) }
  rw [← hload] at hloaded
  obtain ⟨y, hy, hst, hentry, hsaved, hdies, hbusy, hteam⟩ := runLoaded_runs (s := loadState s v) (v := v) (u := { u with
    windows := W, tags := G, bars := B, tids := I, pipes := Q
    savedTeams := u.savedTeams.map (fun x => (x.1, loadTeam { s with clusters := C, progs := P } u x.2)) })
    (by rw [hload]; exact hp) hc
  rw [runUnit_eq hloaded he hl]
  refine ⟨y, hy, hst, hentry, hsaved, by rw [hdies, hload]; rfl, by rw [hbusy, hload]; rfl, fun i t hone => ?_⟩
  refine ⟨_, hteam i _ (by rw [hone]; rfl), rfl, fun harea => ⟨?_, ?_, fun g hg => ?_⟩⟩
  · exact congrArg Thread.spc (loadTeam_th (s := { s with clusters := C, progs := P }) harea)
  · exact loadTeam_lpc (s := { s with clusters := C, progs := P }) harea
  · exact (congrArg (fun th => Thread.rd th g) (loadTeam_th (s := { s with clusters := C, progs := P }) harea)).trans
      (Thread.rd_loaded t.th { s with clusters := C, progs := P } _ hg)

theorem closeEntry_of {s : State} {v k : Nat} {u : UnitRec} (hu : s.unit v = some u) (hk : u.entry = k) :
    closeEntry s v k = (s.setDarning k Darning.free).setUnit v { u with entry := 0 } := by
  unfold closeEntry
  rw [State.onUnit_of _ _ (show (s.setDarning k Darning.free).unit v = some u from hu)]
  simp [hk]

/-- The state in which a loaded unit starts to run: its image is in place and its entry closed (R415, R417). -/
def imageLoaded (s : State) (v k : Nat) (u : UnitRec) : State :=
  let s := closeEntry (copyIn s u) v k
  s.setCore u.core { s.core u.core with
    pstat := ((s.core u.core).pstat &&& 0xC000000000000000#64) ||| BitVec.ofNat 64 (k - 1) }

theorem imageLoaded_same {s : State} {v k : Nat} {u : UnitRec} (hu : s.unit v = some u) (hk : u.entry = k) :
    ∃ spad psn ecc, imageLoaded s v k u =
      (({ s with mem := { s.mem with spad := spad, spadPsn := psn, ecc := ecc } }.setDarning k Darning.free).setUnit v
        { u with entry := 0 }).setCore u.core { s.core u.core with
          pstat := ((s.core u.core).pstat &&& 0xC000000000000000#64) ||| BitVec.ofNat 64 (k - 1) } := by
  obtain ⟨spad, psn, ecc, hcopy⟩ := copyIn_same s u
  refine ⟨spad, psn, ecc, ?_⟩
  unfold imageLoaded
  rw [closeEntry_of (s := copyIn s u) (by rw [hcopy]; exact hu) hk, hcopy]
  rfl

theorem resumeLoadDone_eq {s : State} {die entry : Nat} {u : UnitRec}
    (hu : s.unit (s.darning (64 * die + entry + 1)).unit = some u) (hload : (s.darning (64 * die + entry + 1)).state = 3)
    (hst : u.st = .resuming) (hentry : u.entry = 64 * die + entry + 1) (hgang : u.gang = 0) (hfence : u.core ∉ s.cmFence)
    (hpend : (s.darning (64 * die + entry + 1)).pend = 0) : exec (.resumeLoadDone die entry) s =
      .next (runUnit (imageLoaded s (s.darning (64 * die + entry + 1)).unit (64 * die + entry + 1) u)
        (s.darning (64 * die + entry + 1)).unit) := by
  obtain ⟨spad, psn, ecc, himage⟩ := imageLoaded_same hu hentry
  generalize hk : 64 * die + entry + 1 = k at *
  generalize hx : imageLoaded s (s.darning k).unit k u = x at *
  have hunit : x.unit (s.darning k).unit = some { u with entry := 0 } := by
    rw [himage]; exact State.unit_setUnit_same _ _ _
  have hfences : x.cmFence = s.cmFence := by rw [himage]; rfl
  have hready : (loaded x { u with entry := 0 } && !placeFenced x { u with entry := 0 }) = true := by
    simp [loaded, placeFenced, hst, hgang, hfences, hfence]
  have hexec : execResumeLoadDone die entry s =
      if (gangUnits x (s.darning k).unit u).all (fun w => match x.unit w with
        | some r => loaded x r && !placeFenced x r
        | none => true) then
        .next ((gangUnits x (s.darning k).unit u).foldl runUnit x)
      else .next x := by
    unfold execResumeLoadDone
    simp only [hk, hu, hload, hst, hpend, beq_self_eq_true, Bool.or_true, if_true, ← hx]
    rfl
  show execResumeLoadDone die entry s = _
  rw [hexec, gangUnits_alone _ _ hgang]
  simp [hunit, hready]

theorem State.darning_of_dies {s x : State} (h : x.dies = s.dies) (k : Nat) : x.darning k = s.darning k := by
  unfold State.darning State.die
  rw [h]

/-- A loaded image makes the unit run (R415, R417, R463). -/
theorem resumeLoadDone_runs {s : State} {die entry : Nat} {u : UnitRec}
    (hu : s.unit (s.darning (64 * die + entry + 1)).unit = some u) (hload : (s.darning (64 * die + entry + 1)).state = 3)
    (hst : u.st = .resuming) (hentry : u.entry = 64 * die + entry + 1) (hgang : u.gang = 0) (hfence : u.core ∉ s.cmFence)
    (hc : u.core < 0x10000) (hpend : (s.darning (64 * die + entry + 1)).pend = 0) (he : u.events = [])
    (hl : u.lostEvents = 0) (hp : s.pendings = []) :
    ∃ x y, exec (.resumeLoadDone die entry) s = .next x ∧ x.unit (s.darning (64 * die + entry + 1)).unit = some y ∧
      y.st = .running ∧ y.entry = 0 ∧ y.savedTeams = [] ∧ x.darning (64 * die + entry + 1) = Darning.free ∧
      (x.core u.core).pcmdBusy = ((s.core u.core).pcmdBusy && u.auto) ∧
      ∀ i t, u.savedTeams = [(i, t)] → ∃ r, x.team u.core (u.slots.getD i 0) = some r ∧ r.th.preq = false ∧
        (areaThere s (teamBlockAt u t) = true → r.th.spc = physWord s (teamBlockAt u t) ∧
          r.lpc = physWord s (teamBlockAt u t + 8) ∧ ∀ g : BitVec 5, g ≠ 0 →
            r.th.rd g = physWord s (teamBlockAt u t + 0x100 + 8 * g.toNat)) := by
  obtain ⟨spad, psn, ecc, himage⟩ := imageLoaded_same hu hentry
  have hexec := resumeLoadDone_eq hu hload hst hentry hgang hfence hpend
  generalize hx : imageLoaded s (s.darning (64 * die + entry + 1)).unit (64 * die + entry + 1) u = x at himage hexec
  have hunit : x.unit (s.darning (64 * die + entry + 1)).unit = some { u with entry := 0 } := by
    rw [himage]; exact State.unit_setUnit_same _ _ _
  have hdarning : x.darning (64 * die + entry + 1) = Darning.free := by
    rw [himage]; exact State.darning_setDarning _ _ _
  have hcore : (x.core u.core).pcmdBusy = (s.core u.core).pcmdBusy := by rw [himage, State.core_setCore]
  have hword (pa : Nat) : physWord x pa = physWord s pa := by rw [himage]; rfl
  have harea (pa : Nat) : areaThere x pa = areaThere s pa := by rw [himage]; rfl
  obtain ⟨y, hy, hrun, hfree, hsaved, hdies, hbusy, hteam⟩ :=
    runUnit_runs hunit (by rw [himage]; exact hp) hc he hl
  simp only [hword, harea] at hteam
  exact ⟨_, y, hexec, hy, hrun, hfree, hsaved, (State.darning_of_dies hdies _).trans hdarning,
    hbusy.trans (by rw [hcore]), hteam⟩

/-- Settles O53: each clause is the lemma of its operation. A suspension goes through `leaveCore_suspended`, and a
resume through `resumeLoadDone_eq`, which brings the image and the blocks of the save area back before the unit runs. -/
theorem preemption : Obligations.Preemption := by
  unfold Obligations.Preemption
  refine ⟨?_, ?_, ?_, ?_, ?_⟩
  · intro s c sl t u hlow ht hu hr hcore hgang hbusy
    exact ⟨pcmdRequest_waits hlow ht hu hr hcore hgang hbusy, fun k h hk => pcmdForce_suspends ht hr hcore hbusy h hk⟩
  · intro s v k u h hr hd hk
    exact preemptDeadline_suspends h hr hd hk
  · intro s core v slot u hbusy hallowed hfind hcopy
    exact pcmdResume_waits hbusy hallowed hfind hcopy
  · intro s id r c u hr hkind hback hc hu hst hentry hmine hdivert
    exact landing_diverts hr hkind hback hc hu hst hentry hmine hdivert
  · intro s die entry u _ k e hu
    refine ⟨fun hcopy hst hecc => darningCopyDone_frees hu hcopy hst hecc, ?_⟩
    intro hload hst hentry hgang hfence hc hpend he hl hp
    exact resumeLoadDone_runs hu hload hst hentry hgang hfence hc hpend he hl hp

end Sys2Proof.Machine
end

/-! ## The translation units: invalidations, walks and replay (R12, R17, R20 to R28). -/

section
namespace Sys2Proof.Machine
open Sys2Proof Sys2Proof.Claims

/-! ### Dies and requests -/

@[simp] theorem State.die_setDie (s : State) (d : Nat) (x : Die) : (s.setDie d x).die d = x :=
  FMap.look_put_same _ _ _ _

@[simp] theorem setReq_find (s : State) (id : Nat) (r : Req) : (setReq s id r).reqs.find id = some r :=
  FMap.find_put_same _ _ _

/-! ### Invalidations -/

/-- The TLB entries an invalidation of a scope covers, XINVA being `va` (R20). -/
def scopeCovers (scope job size va : Nat) (e : TlbEntry) : Bool :=
  match scope with
  | 1 => e.job == job
  | 2 => e.job == job && (size == 3 || size == e.size) && e.page == va / 2 ^ pageBits e.size
  | _ => true

/-- An invalidation on an idle unit drops the covered entries and is busy (R20). -/
theorem invalidate_idle {s : State} {die : Nat} (h : (s.die die).inv = none) (scope job size : Nat) :
    ∃ v, invalidate s die scope job size = s.setDie die { s.die die with
      tlb := (s.die die).tlb.filter fun e => !scopeCovers scope job size (s.die die).xinva.toNat e, inv := some v,
      xinvc := BitVec.ofNat 64 (2 ^ 63 + job * 256 + size * 4) } := by
  have hidle : ¬ (s.die die).inv.isSome = true := by simp [h]
  exact ⟨_, if_neg hidle⟩

/-- One invalidation at a time (R20). -/
theorem invalidate_busy {s : State} {die : Nat} (h : (s.die die).inv.isSome = true) (scope job size : Nat) :
    invalidate s die scope job size = s := by
  unfold invalidate
  exact if_pos h

/-- What a started invalidation leaves: the entries it does not cover, BUSY, and JOB and SIZE as written. -/
theorem invalidate_starts {s : State} {die : Nat} (h : (s.die die).inv = none) {scope job size : Nat}
    {gone : TlbEntry → Bool} (hgone : scopeCovers scope job size (s.die die).xinva.toNat = gone) :
    ∃ x, (.next (invalidate s die scope job size) : Result) = .next x ∧
      (x.die die).tlb = (s.die die).tlb.filter (fun e => !gone e) ∧ (x.die die).inv.isSome = true ∧
      (x.die die).xinvc = BitVec.ofNat 64 (2 ^ 63 + job * 256 + size * 4) ∧ x = { s with dies := x.dies } := by
  obtain ⟨v, hx⟩ := invalidate_idle h scope job size
  rw [hx, ← hgone]
  exact ⟨_, rfl, by simp, by simp, by simp, rfl⟩

/-- The address scope in the words of R20. -/
theorem scopeCovers_address (job : BitVec 6) (size : BitVec 2) (va : Nat) :
    scopeCovers 2 job.toNat size.toNat va = fun e => e.job == job.toNat &&
      (size == 3 || size.toNat == e.size) && e.page == va / 2 ^ (16 + 9 * e.size) := by
  funext e
  have hsize : (size.toNat == 3) = (size == 3) := by
    rw [Bool.eq_iff_iff, beq_iff_eq, beq_iff_eq, ← BitVec.toNat_inj]; rfl
  simp only [scopeCovers, hsize, pageBits]

theorem invOver_iff {s : State} {id : Nat} : invOver s id = true ↔
    ∀ r, s.reqs.find id = some r → r.st ≠ .walking ∧ r.st ≠ .holding ∧ r.st ≠ .routed := by
  unfold invOver
  cases s.reqs.find id with
  | none => simp
  | some r => simp [and_assoc]

/-- Settles O44: an idle unit starts the invalidation (`invalidate_starts`), a busy one ignores it, and it ends when each
request it waits for is over. -/
theorem invalidations : Obligations.Invalidations := by
  unfold Obligations.Invalidations
  intro s die job size
  refine ⟨?_, fun hbusy => ⟨?_, ?_, ?_⟩, fun v hv => ⟨fun hover => ?_, fun q r hq hr hst => ?_⟩⟩
  · rintro hidle i gone (⟨rfl, rfl⟩ | ⟨rfl, rfl⟩ | ⟨rfl, rfl⟩)
    · exact invalidate_starts hidle (scope := 1) rfl
    · exact invalidate_starts hidle (scope := 3) rfl
    · exact invalidate_starts hidle (scopeCovers_address job size _)
  · exact congrArg _ (invalidate_busy hbusy 1 _ _)
  · exact congrArg _ (invalidate_busy hbusy 3 _ _)
  · exact congrArg _ (invalidate_busy hbusy 2 _ _)
  · show execInvalidationDone die s = _
    have hall : v.waits.all (invOver s) = true := List.all_eq_true.2 fun q hq => invOver_iff.2 (hover q hq)
    simp only [execInvalidationDone, hv, hall, if_true]
  · show execInvalidationDone die s = _
    have hall : v.waits.all (invOver s) = false := by
      refine List.all_eq_false.2 ⟨q, hq, fun h => ?_⟩
      obtain ⟨hw, hh, hro⟩ := invOver_iff.1 h r hr
      rcases hst with h | h | h
      · exact hw h
      · exact hh h
      · exact hro h
    simp only [execInvalidationDone, hv, hall]
    rfl

end Sys2Proof.Machine
end

/-! ## The operand log and the tags of a unit (R62, R88, R89, R330, R342). -/

section
namespace Sys2Proof.Machine
open Sys2Proof Sys2Proof.Claims

/-! ### What settling a command's log entry leaves -/

/-- `x` is `s` but for what the passing of a command's requests frees: marks of commands, the operand logs and store-fault
queues of teams, and identifiers of units (R62, R330, R400). -/
@[reducible] def LogSettled (s x : State) : Prop :=
  (∃ C T U M, x = { s with cmds := C, teams := T, units := U, mem := M }) ∧
  (∀ k c, s.cmds.find k = some c → ∃ p h, x.cmds.find k = some { c with passed := p, holds := h }) ∧
  (∀ v u, s.unit v = some u → ∃ T I, x.unit v = some { u with savedTeams := T, tids := I }) ∧
  ∀ e ∈ x.teams, ∃ f ∈ s.teams, e.2.unit = f.2.unit ∧ e.2.th.wait = f.2.th.wait

theorem LogSettled.refl (s : State) : LogSettled s s :=
  ⟨⟨_, _, _, _, rfl⟩, fun _ _ h => ⟨_, _, h⟩, fun _ _ h => ⟨_, _, h⟩, fun e h => ⟨e, h, rfl, rfl⟩⟩

theorem LogSettled.trans {s x y : State} (h : LogSettled s x) (g : LogSettled x y) : LogSettled s y := by
  obtain ⟨⟨_, _, _, _, hrest⟩, hcmds, hunits, hteams⟩ := h
  obtain ⟨⟨_, _, _, _, grest⟩, gcmds, gunits, gteams⟩ := g
  refine ⟨?_, fun k c hc => ?_, fun v u hu => ?_, fun e he => ?_⟩
  · rw [grest, hrest]
    exact ⟨_, _, _, _, rfl⟩
  · obtain ⟨_, _, hx⟩ := hcmds k c hc
    obtain ⟨_, _, hy⟩ := gcmds k _ hx
    exact ⟨_, _, hy⟩
  · obtain ⟨_, _, hx⟩ := hunits v u hu
    obtain ⟨_, _, hy⟩ := gunits v _ hx
    exact ⟨_, _, hy⟩
  · obtain ⟨f, hf, hunit, hwait⟩ := gteams e he
    obtain ⟨d, hd, hunit', hwait'⟩ := hteams f hf
    exact ⟨d, hd, hunit.trans hunit', hwait.trans hwait'⟩

theorem LogSettled.putCmd {s : State} {id : Nat} {c : Cmd} (hc : s.cmds.find id = some c) (p : Bool) (h : List Nat) :
    LogSettled s { s with cmds := s.cmds.put id { c with passed := p, holds := h } } := by
  refine ⟨⟨_, _, _, _, rfl⟩, fun k d hd => ?_, fun _ _ h => ⟨_, _, h⟩, fun e h => ⟨e, h, rfl, rfl⟩⟩
  by_cases hk : k = id
  · subst hk
    rw [hc, Option.some.injEq] at hd
    subst hd
    exact ⟨_, _, FMap.find_put_same _ _ _⟩
  · exact ⟨_, _, (FMap.find_put_other _ _ hk).trans hd⟩

theorem LogSettled.setTeam {s : State} {a b : Nat} {t r : Team} (ht : s.team a b = some t) (hunit : r.unit = t.unit)
    (hwait : r.th.wait = t.th.wait) : LogSettled s (s.setTeam a b r) := by
  by_cases ha : a < 0x10000
  · rw [State.setTeam_low _ _ _ ha]
    refine ⟨⟨_, _, _, _, rfl⟩, fun _ _ h => ⟨_, _, h⟩, fun _ _ h => ⟨_, _, h⟩, fun e he => ?_⟩
    rcases FMap.mem_put he with rfl | he
    · rw [State.team_low _ _ ha] at ht
      exact ⟨_, FMap.mem_of_find ht, hunit, hwait⟩
    · exact ⟨e, he, rfl, rfl⟩
  · unfold State.setTeam
    rw [if_neg ha]
    generalize a - 0x10000 = k
    split
    case h_1 w hw =>
      refine ⟨⟨_, _, _, _, rfl⟩, fun _ _ h => ⟨_, _, h⟩, fun v u hu => ?_, fun e he => ⟨e, he, rfl, rfl⟩⟩
      by_cases hv : v = k
      · subst hv
        rw [State.unit, hw, Option.some.injEq] at hu
        subst hu
        exact ⟨_, _, FMap.find_put_same _ _ _⟩
      · exact ⟨_, _, (FMap.find_put_other _ _ hv).trans hu⟩
    case h_2 => exact .refl s

theorem LogSettled.of_sameButFar {s x : State} (h : SameButFar s x) : LogSettled s x := by
  obtain ⟨_, _, rfl⟩ := h
  exact ⟨⟨_, _, _, _, rfl⟩, fun _ _ h => ⟨_, _, h⟩, fun _ _ h => ⟨_, _, h⟩, fun e h => ⟨e, h, rfl, rfl⟩⟩

theorem LogSettled.onTids (s : State) (w : Nat) (f : UnitRec → FMap TidEntry) :
    LogSettled s (s.onUnit w fun r => { r with tids := f r }) := by
  unfold State.onUnit
  split
  case h_1 r hr =>
    refine ⟨⟨_, _, _, _, rfl⟩, fun _ _ h => ⟨_, _, h⟩, fun v u hu => ?_, fun e he => ⟨e, he, rfl, rfl⟩⟩
    by_cases hv : v = w
    · subst hv
      rw [hr, Option.some.injEq] at hu
      subst hu
      exact ⟨_, _, State.unit_setUnit_same _ _ _⟩
    · exact ⟨_, _, (State.unit_setUnit_other _ _ hv).trans hu⟩
  case h_2 => exact .refl s

theorem LogSettled.releaseHolds {s : State} {id : Nat} {c d : Cmd} (hd : s.cmds.find id = some d)
    (hc : { d with passed := c.passed, holds := [] } = { c with holds := [] }) : LogSettled s (releaseHolds s id c) := by
  unfold Machine.releaseHolds
  have h := LogSettled.onTids s c.unit fun r =>
    r.tids.map fun (x : Nat × TidEntry) => (x.1, { x.2 with holders := x.2.holders - c.holds.count x.1 })
  have ⟨_, hcmds, _, _⟩ := h
  obtain ⟨_, _, hfound⟩ := hcmds id d hd
  rw [← hc]
  exact h.trans (.putCmd hfound _ _)

@[simp] theorem Thread.postFull_wait (t : Thread) : t.postFull.wait = t.wait := by
  unfold Thread.postFull Thread.post
  repeat' split
  all_goals rfl

@[simp] theorem Team.freeLog_unit (t : Team) (id : Nat) (f : Option StoreFault) : (t.freeLog id f).unit = t.unit := by
  unfold Team.freeLog
  repeat' split
  all_goals rfl

@[simp] theorem Team.freeLog_wait (t : Team) (id : Nat) (f : Option StoreFault) :
    (t.freeLog id f).th.wait = t.th.wait := by
  unfold Team.freeLog
  split
  · rfl
  · split
    · show (if t.sfq.length == 15 then t.th.postFull else t.th).wait = _
      split
      · exact Thread.postFull_wait _
      · rfl
    · rfl

theorem team_of_cmdTeam {s : State} {c : Cmd} {a b : Nat} {t : Team} (ha : c.agent = .team a b)
    (h : cmdTeam s c = some t) : s.team a b = some t := by
  unfold cmdTeam at h
  rw [ha] at h
  simp only at h
  split at h
  · split at h
    · simp_all
    · cases h
  · cases h

theorem settleLog_settles (s : State) (id : Nat) : LogSettled s (settleLog s id) := by
  unfold settleLog
  split
  · exact .refl s
  · next c hc =>
    split
    · exact .refl s
    · extract_lets marked freed
      have hmarked : LogSettled s marked := .putCmd hc true c.holds
      have hfreed : LogSettled s freed := by
        simp only [freed]
        split
        · exact .refl s
        · split
          · next a b t ha ht =>
            have hteam : marked.team a b = some t := team_of_cmdTeam ha ht
            have hset := hmarked.trans (.setTeam hteam (t.freeLog_unit id c.storeFault) (t.freeLog_wait id c.storeFault))
            split
            · split
              · exact hset.trans (.of_sameButFar SameButFar.refl.writeSfq)
              · exact hset
            · exact hset
          · exact hmarked
      split
      · have ⟨_, hcmds, _, _⟩ := hfreed
        obtain ⟨p, h, hfound⟩ := hcmds id c hc
        exact hfreed.trans (.releaseHolds hfound rfl)
      · exact hfreed

/-- Settling a log entry leaves the requests. -/
theorem settleLog_reqs (s : State) (id : Nat) : (settleLog s id).reqs = s.reqs := by
  obtain ⟨⟨_, _, _, _, h⟩, _⟩ := settleLog_settles s id
  rw [h]

end Sys2Proof.Machine
end

/-! ## Page walks, requests through the TLB, replay and the fault buffer (R12, R17, R23 to R28). -/

section
namespace Sys2Proof.Machine
open Sys2Proof Sys2Proof.Claims

/-! ### Walks -/

theorem raiseFirmware_reqs (s : State) (src : Nat) : (raiseFirmware s src).reqs = s.reqs := rfl

theorem raiseFirmware_die (s : State) (src d : Nat) : (raiseFirmware s src).die d = s.die d := rfl

theorem setReq_setDie_die (s : State) (d id : Nat) (x : Die) (r : Req) : (setReq (s.setDie d x) id r).die d = x :=
  State.die_setDie s d x

/-- A request parked on a page fault, with its record at the producer's place in the buffer (R23, R25). -/
theorem parkReq_parks (s : State) (id : Nat) (r : Req) (pte : Word64) :
    (parkReq s id r pte).reqs.find id = some { r with st := .parked } ∧
    ((parkReq s id r pte).die r.die).xfbp = (s.die r.die).xfbp + 1 ∧
    ∃ w1, ((parkReq s id r pte).die r.die).xfb.find ((s.die r.die).xfbp.toNat % 1024) =
      some [BitVec.ofNat 64 r.va, w1, pte, 0] := by
  unfold parkReq
  extract_lets front drawn open_ s1 d agent kind w1
  have hdie : d = s.die r.die := by
    show State.die s1 r.die = _
    simp only [s1, drawn]
    split <;> rfl
  refine ⟨?_, ?_, BitVec.ofNat 64 w1, ?_⟩
  · rw [raiseFirmware_reqs]
    exact setReq_find _ _ _
  · rw [raiseFirmware_die, setReq_setDie_die, hdie]
  · rw [raiseFirmware_die, setReq_setDie_die, hdie]
    exact FMap.find_put_same _ _ _

theorem pageTableWalk_read {s : State} {id : Nat} {r : Req} {bs : List Byte} (hr : s.reqs.find id = some r)
    (hst : r.st = .walking) (hread : physRead s (r.table + 8 * tableIndex r.level r.va) 8 = some (bs, false)) :
    exec (.pageTableWalk id) s =
      if !(bytesWord bs).getLsbD 0 then .next (notPresent s id r (bytesWord bs))
      else if malformed (bytesWord bs) r.level then .next (faultReq s id { r with st := .fresh } 1 (bytesWord bs))
      else if bits (bytesWord bs).toNat 8 2 == 3 then
        .next (setReq s id { r with
          level := r.level - 1,
          table := bits (bytesWord bs).toNat 16 36 * 65536 + bits (bytesWord bs).toNat 12 4 * 4096 })
      else .next (walkLeaf s id r (bytesWord bs) (r.table + 8 * tableIndex r.level r.va)) := by
  show execPageTableWalk id s = _
  unfold execPageTableWalk
  simp only [hr, hst, hread, bne_self_eq_false, Bool.false_eq_true, if_false]

/-- A pointer to a lower table is malformed only at the last level (R14). -/
theorem malformed_of_pointer {pte : Word64} {level : Nat} (h : bits pte.toNat 8 2 = 3) (hl : level ≠ 0) :
    malformed pte level = false := by
  simp [malformed, h, hl]

/-! ### Through the TLB -/

/-- A request that no fault awaits goes to the module the extent tables name (R17, R33). -/
theorem lookup_routes {s : State} {id : Nat} {r : Req} {e : TlbEntry} {m a : Nat} (hk : r.kind = .fpost)
    (h : extentOf s (leafPa e.pte e.size r.va) = .routed m a (e.pte.getLsbD 5)) :
    (lookup s id r e).reqs.find id =
      some { r with st := .routed, module := m, maddr := a, sq := e.pte.getLsbD 4, level := e.size } := by
  -- `lookup` is unfolded as a function: an equation of its values would have the checker evaluate the extent tables.
  generalize hdef : lookup = f
  delta lookup at hdef
  rw [← hdef]
  simp only [h, hk, bne_self_eq_false, Bool.false_eq_true, if_false, settleLog_reqs]
  exact setReq_find _ _ _

/-- A request for a tile piece whose page is in the TLB goes through its leaf (R18, R19). -/
theorem requestTranslate_hit {s : State} {id : Nat} {r : Req} {e : TlbEntry} (hr : s.reqs.find id = some r)
    (hst : r.st = .fresh) (hz : r.zero = false) (hk : r.kind = .fpost) (hl : r.level ≠ 4)
    (hva : r.va + r.len ≤ 2 ^ 56)
    (hheld : (s.reqs.filter (fun q => q.2.die == r.die && q.2.st == .holding)).length < 64)
    (he : (s.die r.die).tlb.find? (fun e => e.covers r.job r.va) = some e) :
    exec (.requestTranslate id) s = .next (throughLeaf s id r e) := by
  have hturn : translatable s id r = true := by simp [translatable, behindReplay, hst, hz, hl, hheld]
  have hready : dataReady s r = some s := by simp [dataReady, hk]
  have hcanon : nonCanon (r.va + r.len - 1) = false := by simp only [nonCanon, decide_eq_false_iff_not]; omega
  show execRequestTranslate id s = _
  simp only [execRequestTranslate, hr, hturn, hready, translate, hcanon, he, Bool.not_true, Bool.false_eq_true, if_false]

/-- A read that its leaf permits is looked up in the extent tables (R16, R17). -/
theorem throughLeaf_read {s : State} {id : Nat} {r : Req} {e : TlbEntry} (hk : r.kind = .fpost) (hw : r.write = false)
    (he : e.pte.getLsbD 1 = true) : throughLeaf s id r e = lookup s id r e := by
  have hp : permitted e.pte r = true := by simp [permitted, hk, he]
  simp only [throughLeaf, hp, hw, Bool.not_true, Bool.false_and, Bool.false_eq_true, if_false]

/-! ### Replay and the fault buffer -/

/-- REPLAY in the words of R28. -/
theorem replay_eq (s : State) (die : Nat) (job : BitVec 6) :
    exec (.replay die job) s = .next { s with reqs := s.reqs.map fun e =>
      if e.2.die = die ∧ e.2.job = job.toNat ∧ e.2.st = .parked then (e.1, { e.2 with st := .fresh, level := 4 })
      else e } := by
  show execReplay die job s = _
  refine congrArg (fun q => (.next { s with reqs := q } : Result)) (List.map_congr_left fun e _ => ?_)
  refine if_congr ?_ rfl rfl
  simp [and_assoc]

/-- Consuming records where no walker holds a request moves the consumer's index only (R26, R27). -/
theorem faultBufferConsume_none {s : State} {die : Nat} (w : BitVec 11)
    (h : ∀ e ∈ s.reqs, e.2.die = die → e.2.st ≠ .holding) :
    exec (.faultBufferConsume die w) s = .next (s.setDie die { s.die die with xfbc := w }) := by
  have hheld : s.reqs.filter (fun e => e.2.die == die && e.2.st == .holding) = [] :=
    List.filter_eq_nil_iff.2 fun e he => by simpa using h e he
  show execFaultBufferConsume die w s = _
  simp only [execFaultBufferConsume, State.setDie_reqs, hheld, List.foldl_nil]

/-- Settles O43: a walk's entry is not present (`parkReq_parks`) or a pointer, a hit goes through its leaf to its module
(`lookup_routes`), and the replay and the consumer do what R26 and R28 say. -/
theorem translation : Obligations.Translation := by
  unfold Obligations.Translation
  refine ⟨?_, ?_, replay_eq, fun s die w h => faultBufferConsume_none w h⟩
  · intro s id r bs hr hst hread
    refine ⟨fun hv hroom => ?_, fun hv hptr hl => ?_⟩
    · refine ⟨parkReq s id r (bytesWord bs), ?_, parkReq_parks s id r (bytesWord bs)⟩
      rw [pageTableWalk_read hr hst hread, if_pos (by rw [hv]; rfl)]
      simp only [notPresent, hroom, Bool.false_eq_true, if_false]
    · rw [pageTableWalk_read hr hst hread, if_neg (by rw [hv]; decide), if_neg (by simp [malformed_of_pointer hptr hl]),
        if_pos (by simp [hptr])]
      rfl
  · intro s id r e m a hr hst hz hk hl hva _ hw hheld he hread hext
    exact ⟨_, (requestTranslate_hit hr hst hz hk hl hva hheld he).trans (congrArg _ (throughLeaf_read hk hw hread)),
      lookup_routes hk hext⟩

end Sys2Proof.Machine
end

/-! ## The extent tables and the code caches (R36, R47). -/

section
namespace Sys2Proof
variable {α ι : Type}

/-- A map written key by key holds at a key what the entries for it agree on. -/
theorem FMap.find_foldl_put {key : ι → Nat} {val : ι → α} {l : List ι} {k : Nat} {v : α}
    (hsome : ∃ i ∈ l, key i = k) (hval : ∀ i ∈ l, key i = k → val i = v) (m : FMap α) :
    FMap.find (l.foldl (fun m i => FMap.put m (key i) (val i)) m) k = some v := by
  induction l using List.reverseRecOn with
  | nil => obtain ⟨_, hi, _⟩ := hsome; cases hi
  | append_singleton l a ih =>
    rw [List.foldl_append, List.foldl_cons, List.foldl_nil]
    by_cases hk : key a = k
    · rw [hk, FMap.find_put_same, hval a (by simp) hk]
    · rw [FMap.find_put_other _ _ (Ne.symm hk)]
      refine ih ?_ fun i hi => hval i (by simp [hi])
      obtain ⟨i, hi, hik⟩ := hsome
      rcases List.mem_append.1 hi with hi | hi
      · exact ⟨i, hi, hik⟩
      · exact absurd (List.mem_singleton.1 hi ▸ hik) hk

end Sys2Proof

namespace Sys2Proof.Machine
open Sys2Proof Sys2Proof.Claims

/-! ### EXTCOMMIT -/

theorem extcommit_idle {s : State} (h : s.extBusy = false) : exec .extcommit s = .next { s with
    extLive := s.extStaged, mrtLive := s.mrtStaged, extBusy := true,
    modRevoked := s.modRevoked.filter fun x => !(newGrants s).contains x } := by
  show execExtcommit s = _
  simp only [execExtcommit, h, Bool.false_eq_true, if_false]

theorem extcommit_busy {s : State} (h : s.extBusy = true) : exec .extcommit s = .next s := if_pos h

/-- Bring-up, as tables are committed, moves only its own status and the counter of open values (R459). -/
theorem bootExtents_same (s : State) : ∃ b n, bootExtents s = { s with boot := b, freeCtr := n } := by
  unfold bootExtents stepFails
  split
  · split
    · exact ⟨_, _, rfl⟩
    · cases Config.stepFails 5 s.freeCtr
      · exact ⟨_, _, rfl⟩
      · exact ⟨_, _, rfl⟩
  · exact ⟨_, _, rfl⟩

theorem extcommitDone_busy {s : State} (h : s.extBusy = true) :
    exec .extcommitDone s = .next (bootExtents { s with extBusy := false }) := if_pos h

/-! ### Streams, and the job they run for -/

theorem State.setTeam_same (s : State) (c k : Nat) (t : Team) :
    ∃ T U, s.setTeam c k t = { s with teams := T, units := U } := by
  unfold State.setTeam
  split
  · exact ⟨_, _, rfl⟩
  · split
    · exact ⟨_, _, rfl⟩
    · exact ⟨_, _, rfl⟩

theorem State.onThread_same (s : State) (a : Agent) (f : Thread → Thread) :
    ∃ T P U, s.onThread a f = { s with teams := T, progs := P, units := U } := by
  cases a with
  | team c k =>
    show ∃ T P U, s.onTeam c k _ = _
    unfold State.onTeam
    split
    · obtain ⟨T, U, h⟩ := s.setTeam_same c k _
      exact ⟨T, _, U, h⟩
    · exact ⟨_, _, _, rfl⟩
  | prog c p =>
    obtain ⟨P, h⟩ := s.onProg_same c p fun r => { r with th := f r.th }
    exact ⟨_, P, _, h⟩
  | hart _ => exact ⟨_, _, _, rfl⟩
  | device => exact ⟨_, _, _, rfl⟩

/-- A team that stands in a slot or a save area is found there once it is set. -/
theorem State.team_setTeam (s : State) {c k : Nat} {t : Team} (r : Team) (h : s.team c k = some t) :
    (s.setTeam c k r).team c k = some r := by
  by_cases hc : c < 0x10000
  · exact State.team_setTeam_same s k r hc
  · unfold State.team State.setTeam at *
    rw [if_neg hc] at *
    generalize c - 0x10000 = v at *
    cases hv : s.units.find v with
    | none => simp [hv] at h
    | some w => simp [hc, FMap.find_put_same]

/-- Setting a team moves no unit to another job. -/
theorem State.unit_setTeam_job (s : State) (c k : Nat) (r : Team) (v : Nat) :
    ((s.setTeam c k r).unit v).map UnitRec.job = (s.unit v).map UnitRec.job := by
  unfold State.setTeam
  split
  · rfl
  · generalize c - 0x10000 = w
    split
    · next u hu =>
      by_cases hv : v = w
      · subst hv
        simp [State.unit, hu, FMap.find_put_same]
      · simp [State.unit, FMap.find_put_other _ _ hv]
    · rfl

theorem jobOf_congr {s x : State} (ht : x.teams = s.teams) (hp : x.progs = s.progs) (hu : x.units = s.units)
    (a : Agent) : jobOf x a = jobOf s a := by
  unfold jobOf State.team State.prog State.unit
  rw [ht, hp, hu]

theorem jobOf_team {s : State} {c k : Nat} {t : Team} (h : s.team c k = some t) :
    jobOf s (.team c k) = ((s.unit t.unit).map UnitRec.job).getD 0 := by
  simp only [jobOf, h]
  cases s.unit t.unit <;> rfl

theorem jobOf_onThread (s : State) (a : Agent) (f : Thread → Thread) : jobOf (s.onThread a f) a = jobOf s a := by
  cases a with
  | team c k =>
    cases ht : s.team c k with
    | none =>
      have hsame : s.onThread (.team c k) f = s := by
        show s.onTeam c k _ = s
        unfold State.onTeam
        rw [ht]
      rw [hsame]
    | some t =>
      rw [State.onThread_team s f ht, jobOf_team ht, jobOf_team (s.team_setTeam _ ht), State.unit_setTeam_job]
  | prog c p =>
    show jobOf (s.onProg c p _) _ = _
    unfold State.onProg
    split
    · next r hr => simp only [jobOf, State.prog_setProg_same, hr]
    · rfl
  | hart _ => rfl
  | device => rfl

/-! ### Code caches -/

theorem giveUpLine_same (s : State) (cache : Nat) : ∃ C, giveUpLine s cache = { s with code := C } := by
  have hdrop (ls : List Nat) (n : Nat) : ∃ C, (match ls[n]? with
      | some k => { s with code := s.code.filter (fun e => e.1 / 128 != k) }
      | none => s) = { s with code := C } := by
    split
    · exact ⟨_, rfl⟩
    · exact ⟨_, rfl⟩
  unfold giveUpLine
  extract_lets ls
  split
  · exact hdrop _ _
  · split
    · exact hdrop _ _
    · exact ⟨_, rfl⟩

/-- Where a line's parcels lie in the cache of its requester. -/
def lineKey (r : Req) : Nat := (cacheOf r.agent * 64 + r.job) * 2 ^ 64 + r.va

/-- Installing a line changes its cache only, which then holds each of the line's 32 parcels (R47). -/
theorem installLine_fills (s : State) (r : Req) : ∃ C, installLine s r = { s with code := C } ∧ ∀ j, j < 32 →
    C.find (lineKey r + 4 * j) = some (BitVec.ofNat 32 (numOfBytes ((r.data.drop (4 * j)).take 4))) := by
  obtain ⟨C, hC⟩ := giveUpLine_same s (cacheOf r.agent)
  unfold installLine
  extract_lets key room
  obtain ⟨C, hroom⟩ : ∃ C, room = { s with code := C } := by
    simp only [room]
    split
    · exact ⟨_, rfl⟩
    · exact ⟨C, hC⟩
  rw [hroom]
  refine ⟨_, rfl, fun j hj => ?_⟩
  rw [show lineKey r = key from rfl]
  generalize key = key
  refine FMap.find_foldl_put (key := fun i => key + 4 * i) ⟨j, List.mem_range.2 hj, rfl⟩ (fun i _ hi => ?_) C
  rw [show i = j by omega]

/-- A stream that waits for a line of code goes on (R47). -/
def codeArrived (line : Nat) (th : Thread) : Thread :=
  match th.wait with
  | .code va => if va / 128 * 128 == line then { th with wait := .none } else th
  | _ => th

theorem codeCacheFill_returned {s : State} {id : Nat} {r : Req} (hr : s.reqs.find id = some r) (hk : r.kind = .code)
    (hst : r.st = .returned) (hleg : r.leg = .back) (hpsn : r.psn.contains true = false) :
    exec (.codeCacheFill id) s =
      .next ((dropReq (installLine s r) id).onThread r.agent (codeArrived r.va)) := by
  show execCodeCacheFill id s = _
  unfold execCodeCacheFill
  simp only [hr, hk, hst, hleg, hpsn, bne_self_eq_false, Bool.false_eq_true, if_false]
  rfl

/-- The requester of a filled line finds its parcels, and the request is gone (R47). -/
theorem codeCacheFill_fills {s : State} {id : Nat} {r : Req} (hjob : jobOf s r.agent = r.job) (f : Thread → Thread) :
    ((dropReq (installLine s r) id).onThread r.agent f).reqs.find id = none ∧ ∀ j, j < 32 →
      codeParcel ((dropReq (installLine s r) id).onThread r.agent f) r.agent (r.va + 4 * j) =
        some (numOfBytes ((r.data.drop (4 * j)).take 4) % 2 ^ 32) := by
  obtain ⟨C, hC, hfind⟩ := installLine_fills s r
  rw [hC]
  generalize hx : dropReq { s with code := C } id = x
  have hjob' : jobOf x r.agent = r.job := (jobOf_congr (by rw [← hx]; rfl) (by rw [← hx]; rfl) (by rw [← hx]; rfl)
    r.agent).trans hjob
  obtain ⟨T, P, U, hsame⟩ := x.onThread_same r.agent f
  have hcode : (x.onThread r.agent f).code = C := by rw [hsame, ← hx]; rfl
  have hreqs : (x.onThread r.agent f).reqs = s.reqs.del id := by rw [hsame, ← hx]; rfl
  refine ⟨by rw [hreqs, FMap.find_del_same], fun j hj => ?_⟩
  have hkey : codeKey (x.onThread r.agent f) r.agent (r.va + 4 * j) = lineKey r + 4 * j := by
    rw [codeKey, jobOf_onThread, hjob', lineKey, Nat.add_assoc]
  rw [codeParcel, hkey, hcode, hfind j hj, Option.map_some, BitVec.toNat_ofNat]

/-- Settles O45: the commit and its end each write what R36 says, and a filled line's parcels are found by its requester
(`codeCacheFill_fills`). -/
theorem tablesAndCode : Obligations.TablesAndCode := by
  unfold Obligations.TablesAndCode
  refine ⟨fun s => ⟨fun hidle => ⟨_, extcommit_idle hidle, rfl, rfl, rfl, rfl, rfl⟩,
    fun hbusy => ⟨extcommit_busy hbusy, _, extcommitDone_busy hbusy, ?_⟩, _, rfl, rfl, rfl, rfl⟩, ?_⟩
  · obtain ⟨b, n, hboot⟩ := bootExtents_same { s with extBusy := false }
    rw [hboot]
    exact ⟨rfl, rfl⟩
  · intro s id r hr hk hst hleg hpsn hjob
    exact ⟨_, codeCacheFill_returned hr hk hst hleg hpsn, codeCacheFill_fills hjob _⟩

end Sys2Proof.Machine
end

/-! ## Reads and writes at the modules (R33, R190, R202, R386, R464). -/

section
namespace Sys2Proof.Machine
open Sys2Proof Sys2Proof.Claims

/-! ### Cells written whole -/

/-- A cell that gives every bit keeps none of the old ones. -/
theorem whole_byte (b old : Byte) : (b &&& 0xFF) ||| (old &&& ~~~0xFF) = b := by
  show (b &&& BitVec.allOnes 8) ||| (old &&& ~~~BitVec.allOnes 8) = b
  simp only [BitVec.not_allOnes, BitVec.and_allOnes, BitVec.and_zero, BitVec.or_zero]

/-- A word of cells that give every bit is written as its bytes, poisoned where one of them is (R82, R464). -/
theorem writeWord_whole (rd : State → Nat → Byte) (wr : State → Nat → List Byte → Bool → State) (s : State) (k : Nat)
    {cs : List (Byte × Byte × Bool)} (h : ∀ c ∈ cs, c.2.1 = 0xFF) :
    writeWord rd wr s k cs = wr s k (cs.map (·.1)) (anyPoison cs) := by
  have hbytes : (cs.zipIdx.map fun (c : (Byte × Byte × Bool) × Nat) =>
      (c.1.1 &&& c.1.2.1) ||| (rd s (k + c.2) &&& ~~~c.1.2.1)) = cs.map (·.1) := by
    have hcell : ∀ c ∈ cs.zipIdx, (c.1.1 &&& c.1.2.1) ||| (rd s (k + c.2) &&& ~~~c.1.2.1) = (Prod.fst ∘ Prod.fst) c := by
      intro c hc
      rw [h c.1 (List.fst_mem_of_mem_zipIdx hc)]
      exact whole_byte _ _
    rw [List.map_congr_left hcell, ← List.map_map, List.zipIdx_map_fst]
  have hall : cs.all (fun c => c.2.1 == 0xFF) = true := List.all_eq_true.2 fun c hc => by rw [h c hc]; rfl
  unfold writeWord
  simp only [hbytes, hall, if_true]
  cases anyPoison cs <;> rfl

theorem SameButFar.moduleCells {s x : State} {m a : Nat} {cs : List (Byte × Byte × Bool)} (h : SameButFar s x) :
    SameButFar s (moduleCells x m a cs) := by
  have hwrite {y : State} {k : Nat} {bs : List Byte} {p : Bool} (hy : SameButFar s y) :
      SameButFar s (moduleWrite y m k bs p) := by
    obtain ⟨_, _, rfl⟩ := hy
    exact ⟨_, _, rfl⟩
  unfold Machine.moduleCells writeCells
  refine h.foldl fun y w hy => ?_
  unfold writeWord
  exact .ite (hwrite hy) (.ite (hwrite hy) (hy.foldl fun _ _ hz => hwrite hz))

/-- The bytes after `n` words of whole cells, from word `w` on, have been written one after another. -/
theorem moduleWords_byte (rd : State → Nat → Byte) (m a : Nat) {cs : List (Byte × Byte × Bool)}
    (h : ∀ c ∈ cs, c.2.1 = 0xFF) (n w : Nat) (s : State) (hw : a < 8 * w + 8) (j : Nat) :
    byteAt ((List.range' w n).foldl (fun s w => writeWord rd (fun s k bs p => moduleWrite s m k bs p) s (max a (8 * w))
        ((cs.drop (max a (8 * w) - a)).take (8 * w + 8 - max a (8 * w)))) s).mem.far j =
      if farKey m (max a (8 * w)) ≤ j ∧ j < farKey m (8 * (w + n)) ∧ j < farKey m a + cs.length then
        ((cs.map (·.1))[j - farKey m a]?).getD 0
      else byteAt s.mem.far j := by
  have hkey (k : Nat) : farKey m k = m * 2 ^ 41 + k := rfl
  induction n generalizing w s with
  | zero =>
    rw [if_neg (by rw [hkey, hkey]; omega)]
    rfl
  | succ n ih =>
    have hpart : ∀ c ∈ (cs.drop (max a (8 * w) - a)).take (8 * w + 8 - max a (8 * w)), c.2.1 = 0xFF :=
      fun c hc => h c (List.mem_of_mem_drop (List.mem_of_mem_take hc))
    rw [List.range'_succ, List.foldl_cons, ih _ _ (by omega), writeWord_whole _ _ _ _ hpart, moduleWrite_byte]
    simp only [hkey, List.length_map, List.length_take, List.length_drop, List.map_take, List.map_drop,
      List.getElem?_take, List.getElem?_drop]
    generalize m * 2 ^ 41 = base
    by_cases hlater : base + max a (8 * (w + 1)) ≤ j ∧ j < base + 8 * (w + 1 + n) ∧ j < base + a + cs.length
    · rw [if_pos hlater, if_pos (by omega)]
    · rw [if_neg hlater]
      by_cases hnow : base + max a (8 * w) ≤ j ∧ j < base + 8 * (w + (n + 1)) ∧ j < base + a + cs.length
      · rw [if_pos hnow, if_pos (by omega), if_pos (by omega),
          show max a (8 * w) - a + (j - (base + max a (8 * w))) = j - (base + a) by omega]
      · rw [if_neg hnow, if_neg (by omega)]

/-- Cells that give every bit are written as their bytes (R190, R464). -/
theorem moduleCells_whole (s : State) (m a : Nat) {cs : List (Byte × Byte × Bool)} (h : ∀ c ∈ cs, c.2.1 = 0xFF) :
    BytesWritten s.mem.far (moduleCells s m a cs).mem.far (farKey m a) (cs.map (·.1)) := by
  have hkey (k : Nat) : farKey m k = m * 2 ^ 41 + k := rfl
  intro j
  unfold moduleCells writeCells wordsOf
  rcases cs with _ | ⟨c, cs⟩
  · show byteAt s.mem.far j = _
    rw [if_neg (by simp)]
  · generalize hcs : c :: cs = cells at h
    have hn : cells.length ≠ 0 := by rw [← hcs]; simp
    have hbound := moduleWords_byte (fun s k => byteAt s.mem.far (farKey m k)) m a h
      ((a + cells.length - 1) / 8 - a / 8 + 1) (a / 8) s (by omega) j
    rw [if_neg (by simpa using hn)]
    refine hbound.trans (if_congr ?_ rfl rfl)
    rw [List.length_map]
    simp only [hkey]
    omega

/-! ### A request at its module -/

theorem arrived_of_atModule {s : State} {id : Nat} {r : Req} (h : AtModule s id r) : r.arrived = true := by
  obtain ⟨_, hst, hleg, _⟩ := h
  simp [Req.arrived, hst, hleg]

/-- A request that has not all arrived is not performed (R190). -/
theorem notArrived_waits {s : State} {id : Nat} {r : Req} (hr : s.reqs.find id = some r) (hleg : r.leg ≠ .there) :
    exec (.readRequest id) s = .next s ∧ exec (.writePacket id) s = .next s ∧ exec (.atomicRequest id) s = .next s := by
  have harr : r.arrived = false := by simp [Req.arrived, hleg]
  refine ⟨?_, ?_, ?_⟩
  · show execReadRequest id s = _
    simp only [execReadRequest, hr, harr, Bool.not_false, Bool.true_or, if_true]
  · show execWritePacket id s = _
    simp only [execWritePacket, hr, harr, Bool.not_false, if_true]
  · show execAtomicRequest id s = _
    simp only [execAtomicRequest, hr, harr, Bool.not_false, Bool.or_true, Bool.true_or, if_true]

/-- What a read brings back: the bytes at its module with their poison, or zeros, all poisoned, where its extent was revoked
(R33, R190, R202). -/
def Req.read (s : State) (r : Req) : Req := { r with
  st := .returned
  data := if r.revoked then List.replicate r.len 0 else (moduleRead s r.module r.maddr r.len).1
  psn := if r.revoked then List.replicate r.len true else modulePoisonBits s r.module r.maddr r.len }

theorem readRequest_reads {s : State} {id : Nat} {r : Req} (h : AtModule s id r)
    (hk : r.kind ∈ ([.fpost, .code, .bind, .header, .record, .list, .cpySrc] : List ReqKind)) :
    exec (.readRequest id) s = .next (setReq s id (r.read s)) := by
  have harr := arrived_of_atModule h
  obtain ⟨hr, _, _, hsq⟩ := h
  show execReadRequest id s = _
  simp only [execReadRequest, hr, harr, hsq, Bool.not_true, Bool.or_false, Bool.false_eq_true, if_false]
  simp only [List.mem_cons, List.not_mem_nil, or_false] at hk
  rcases hk with hk | hk | hk | hk | hk | hk | hk <;> simp only [hk, Req.read]

/-- A packet of one write is performed at its module, or dropped where its extent was revoked (R190, R202). -/
theorem writePacket_one {s : State} {id : Nat} {r : Req} (h : AtModule s id r) (hk : r.kind = .wpost ∨ r.kind = .cpyDst)
    (hone : packetOf s r Req.arrived = [(id, r)]) : exec (.writePacket id) s = .next (if r.revoked then
      setReq s id { r with st := .returned }
      else moduleCells (setReq s id { r with st := .returned }) r.module r.maddr r.cells) := by
  have harr := arrived_of_atModule h
  obtain ⟨hr, _, _, hsq⟩ := h
  have hwrite : performWrite s id r = if r.revoked then setReq s id { r with st := .returned }
      else moduleCells (setReq s id { r with st := .returned }) r.module r.maddr r.cells := by
    simp only [performWrite, hsq, Bool.false_eq_true, if_false]
  show execWritePacket id s = _
  rw [← hwrite]
  rcases hk with hk | hk
  · simp only [execWritePacket, hr, harr, hk, hone, List.foldl_cons, List.foldl_nil, Bool.not_true,
      Bool.false_eq_true, if_false]
  · simp only [execWritePacket, hr, harr, hk, hone, List.foldl_cons, List.foldl_nil, Bool.not_true,
      Bool.false_eq_true, if_false]

/-- The cells of a routed request, its bytes given whole. -/
theorem cells_whole {r : Req} (hst : r.st = .routed) (hw : WholeBytes r) :
    r.cells.map (·.1) = r.data ∧ ∀ c ∈ r.cells, c.2.1 = 0xFF := by
  have hcells : r.cells = r.data.zipIdx.map fun d =>
      (d.1, (r.mask[d.2]?).getD 0xFF, r.revoked || (r.psn[d.2]?).getD false) := by
    simp [Req.cells, hst]
  rw [hcells]
  refine ⟨?_, fun c hc => ?_⟩
  · rw [List.map_map]
    exact List.zipIdx_map_fst 0 r.data
  · obtain ⟨d, _, rfl⟩ := List.mem_map.1 hc
    show (r.mask[d.2]?).getD 0xFF = 0xFF
    cases hm : r.mask[d.2]? with
    | none => rfl
    | some m => exact hw m (List.mem_of_getElem? hm)

/-- The bytes of a write packet of one request are stored (R190). -/
theorem writePacket_stores {s : State} {id : Nat} {r : Req} (h : AtModule s id r)
    (hk : r.kind = .wpost ∨ r.kind = .cpyDst) (hone : packetOf s r Req.arrived = [(id, r)]) (hrev : r.revoked = false)
    (hw : WholeBytes r) : ∃ x, exec (.writePacket id) s = .next x ∧ x.reqs = s.reqs.put id { r with st := .returned } ∧
      BytesWritten s.mem.far x.mem.far (farKey r.module r.maddr) r.data ∧ x.mem.spad = s.mem.spad := by
  have hst : r.st = .routed := h.2.1
  obtain ⟨hdata, hmask⟩ := cells_whole hst hw
  have hbytes := moduleCells_whole (setReq s id { r with st := .returned }) r.module r.maddr hmask
  rw [hdata] at hbytes
  refine ⟨_, (writePacket_one h hk hone).trans (by rw [hrev, if_neg Bool.false_ne_true]), ?_, hbytes, ?_⟩
  all_goals
    obtain ⟨_, _, hsame⟩ := SameButFar.refl.moduleCells (s := setReq s id { r with st := .returned }) (m := r.module)
      (a := r.maddr) (cs := r.cells)
    rw [hsame]
    rfl

/-! ### Atomics -/

/-- Without capture and replay no decision holds an atomic back (R441). -/
theorem atomDecision_off {s : State} (h : s.cap.mode = 0) (m a n : Nat) : atomDecision s m a n = some s := by
  unfold atomDecision
  refine List.foldlRecOn (motive := fun r => r = some s) _ _ rfl ?_
  rintro _ rfl w _
  simp [wordDecision, decision, h]

/-- What an atomic leaves of its word, and what it brings back, in its turn (R256, R337). -/
def atomicActs (s : State) (id : Nat) (r : Req) (c : Cmd) : State :=
  let old := moduleRead s r.module r.maddr r.len
  let w := 2 ^ (8 * r.len)
  setReq (if r.revoked || old.2 || c.op == 0xC then s
    else moduleWrite s r.module r.maddr (bytesOfNum r.len
      (atomicOp (8 * r.len) c.op (numOfBytes old.1) (c.operand.toNat % w) (c.compare.toNat % w))) false) id
    { r with st := .returned, data := old.1, psn := List.replicate r.len (r.revoked || old.2) }

theorem atomicRequest_acts {s : State} {id : Nat} {r : Req} {c : Cmd} (h : AtModule s id r) (hk : r.kind = .ratm)
    (hturn : atomicBehind s r = false) (hc : s.cmds.find r.cmd = some c) (hcap : s.cap.mode = 0) :
    exec (.atomicRequest id) s = .next (atomicActs s id r c) := by
  have harr := arrived_of_atModule h
  obtain ⟨hr, _, _, hsq⟩ := h
  show execAtomicRequest id s = _
  simp only [execAtomicRequest, hr, hk, harr, hsq, hturn, hc, atomDecision_off hcap, atomicActs, bne_self_eq_false,
    Bool.not_true, Bool.or_false, Bool.false_eq_true, if_false]
  cases hrev : r.revoked with
  | true => simp
  | false =>
    cases (moduleRead s r.module r.maddr r.len).2 with
    | true => simp
    | false =>
      cases c.op == 0xC with
      | true => simp
      | false => simp

theorem atomicRequest_behind {s : State} {id : Nat} {r : Req} (hr : s.reqs.find id = some r)
    (h : atomicBehind s r = true) : exec (.atomicRequest id) s = .next s := by
  show execAtomicRequest id s = _
  simp only [execAtomicRequest, hr, h, Bool.or_true, if_true]

/-- Bytes that stay are those that were there. -/
theorem bytesWritten_same (m : FMap Byte) (k n : Nat) : BytesWritten m m k (bytesAt m k n) := by
  intro j
  split
  · next h =>
    rw [bytesAt_length] at h
    rw [bytesAt_getElem? m k n (j - k) (by omega), Option.getD_some, show k + (j - k) = j by omega]
  · rfl

end Sys2Proof.Machine
end

/-! ## Acknowledgements of writes (R88, R89, R202). -/

section
namespace Sys2Proof

theorem FMap.mem_del_iff {α : Type} {m : FMap α} {k : Nat} {e : Nat × α} : e ∈ FMap.del m k ↔ e ∈ m ∧ e.1 ≠ k := by
  induction m with
  | nil => simp [FMap.del]
  | cons f m ih =>
    cases hf : f.1 == k
    · have hne : f.1 ≠ k := by simpa using hf
      simp only [FMap.del, hf, cond_false, List.mem_cons, ih]
      constructor
      · rintro (rfl | ⟨he, hk⟩)
        · exact ⟨.inl rfl, hne⟩
        · exact ⟨.inr he, hk⟩
      · rintro ⟨rfl | he, hk⟩
        · exact .inl rfl
        · exact .inr ⟨he, hk⟩
    · have heq : f.1 = k := by simpa using hf
      simp only [FMap.del, hf, cond_true, List.mem_cons, ih]
      constructor
      · rintro ⟨he, hk⟩
        exact ⟨.inr he, hk⟩
      · rintro ⟨rfl | he, hk⟩
        · exact absurd heq hk
        · exact ⟨he, hk⟩

end Sys2Proof

namespace Sys2Proof.Machine
open Sys2Proof Sys2Proof.Claims

/-! ### Tags -/

/-- With no team of the unit blocked in WALL or WANY, a change of a tag moves no stream (R342). -/
theorem tagsChanged_quiet {s : State} {v : Nat} (h : NoTagWaits s v) : tagsChanged s v = s := by
  have hready (r : UnitRec) : tagReady s v r = none := by
    unfold tagReady
    rw [List.filter_eq_nil_iff.2]
    · rfl
    · intro x hx
      obtain ⟨e, he, rfl⟩ := List.mem_map.1 hx
      obtain ⟨he, hp⟩ := List.mem_filter.1 he
      simp only [Bool.and_eq_true, beq_iff_eq] at hp
      split
      · next m any d hw => exact absurd hw (h e he hp.1 m any d)
      · exact Bool.false_ne_true
  show retestTags v (63 + 1) s = s
  unfold retestTags
  split
  · rfl
  · simp only [hready]

/-- What happens under a tag of a unit that runs, where nobody waits for it, goes to the tag (R89). -/
theorem noteTag_running {s : State} {v : Nat} {u : UnitRec} (hu : s.unit v = some u) (hst : u.st = .running)
    (h : NoTagWaits s v) (t bytes done : Nat) (psn flt : Bool) : noteTag s v t bytes done psn flt =
      s.setUnit v { u with tags := u.tags.put t ((u.tag t).note bytes done psn flt) } := by
  have haway : u.away = false := by simp [UnitRec.away, hst]
  unfold noteTag
  simp only [hu, haway, Bool.false_eq_true, if_false]
  exact tagsChanged_quiet h

/-- Bytes and a completion noted one after the other are noted as one. -/
theorem Tag.note_bytes_done (t : Tag) (bytes : Nat) (psn flt : Bool) :
    ((t.note bytes 0 psn flt).note 0 1 false false) = t.note bytes 1 psn flt := by
  simp [Tag.note]

theorem reapUnit_running {s : State} {v : Nat} {u : UnitRec} (hu : s.unit v = some u) (hst : u.st = .running) :
    reapUnit s v = s := by
  unfold reapUnit
  simp [hu, hst]

/-! ### Completion -/

theorem noTagWaits_settled {s x : State} {v : Nat} (h : NoTagWaits s v) (hs : LogSettled s x) : NoTagWaits x v := by
  intro e he hv m any d hw
  obtain ⟨_, _, _, hteams⟩ := hs
  obtain ⟨f, hf, hunit, hwait⟩ := hteams e he
  exact h f hf (hunit ▸ hv) m any d (hwait ▸ hw)

/-- With a request of it left, a command goes on (R89). -/
theorem settleCmd_open {s : State} {id : Nat} (h : ∃ e ∈ s.reqs, e.2.cmd = id) : settleCmd s id = settleLog s id := by
  obtain ⟨e, he, hid⟩ := h
  have hleft : (cmdReqs (settleLog s id) id).isEmpty = false := by
    rw [cmdReqs, settleLog_reqs, List.isEmpty_eq_false_iff]
    exact List.ne_nil_of_mem (List.mem_filter.2 ⟨he, by simpa using hid⟩)
  unfold settleCmd
  extract_lets x
  cases x.cmds.find id with
  | none => rfl
  | some c => simp only [x, hleft, Bool.not_false, if_true]

/-- The last request of a WPOST gone, the command is too, and its tag counts it (R89). -/
theorem settleCmd_closes {s : State} {id : Nat} {c : Cmd} {u : UnitRec} (hc : s.cmds.find id = some c)
    (hk : c.kind = .wpost) (h : ∀ e ∈ s.reqs, e.2.cmd ≠ id) (hu : s.unit c.unit = some u) (hst : u.st = .running)
    (hw : NoTagWaits s c.unit) : (settleCmd s id).reqs = s.reqs ∧ (settleCmd s id).cmds.find id = none ∧
      ∃ r, (settleCmd s id).unit c.unit = some r ∧ r.tags = u.tags.put c.tag ((u.tag c.tag).note 0 1 false false) := by
  have hsettled := settleLog_settles s id
  have hnone : cmdReqs (settleLog s id) id = [] := by
    rw [cmdReqs, settleLog_reqs]
    exact List.filter_eq_nil_iff.2 fun e he => by simpa using h e he
  have hreqs := settleLog_reqs s id
  have ⟨_, hcmds, hunits, _⟩ := hsettled
  obtain ⟨p, l, hfound⟩ := hcmds id c hc
  obtain ⟨T, I, hunit⟩ := hunits c.unit u hu
  have hwaits := noTagWaits_settled hw hsettled
  generalize hx : settleLog s id = x at hnone hreqs hfound hunit hwaits
  generalize hy : ({ x with cmds := x.cmds.del id } : State) = y
  have hyunit : y.unit c.unit = some { u with savedTeams := T, tids := I } := by rw [← hy]; exact hunit
  have hywaits : NoTagWaits y c.unit := by rw [← hy]; exact hwaits
  have hexec : settleCmd s id = y.setUnit c.unit { { u with savedTeams := T, tids := I } with
      tags := u.tags.put c.tag ((u.tag c.tag).note 0 1 false false) } := by
    unfold settleCmd
    simp only [hx, hfound, hnone, List.isEmpty_nil, Bool.not_true, Bool.false_eq_true, if_false, hk, hy]
    rw [noteTag_running hyunit hst hywaits]
    exact reapUnit_running (State.unit_setUnit_same _ _ _) hst
  rw [hexec]
  refine ⟨?_, ?_, _, State.unit_setUnit_same _ _ _, rfl⟩
  · rw [State.setUnit_reqs, ← hy]; exact hreqs
  · rw [State.setUnit_cmds, ← hy]; exact FMap.find_del_same _ _

/-! ### The acknowledgement -/

/-- An acknowledged packet of one write drops its request, counts its bytes, and settles its command (R89). -/
theorem writeAckReceive_one {s : State} {id : Nat} {r : Req} {c : Cmd} {u : UnitRec} (hr : s.reqs.find id = some r)
    (hk : r.kind = .wpost) (hst : r.st = .returned) (hleg : r.leg = .back) (hz : r.zero = false)
    (hrev : r.revoked = false) (hone : packetOf s r Req.answered = [(id, r)]) (hc : s.cmds.find r.cmd = some c)
    (hu : s.unit c.unit = some u) (hrun : u.st = .running) (hw : NoTagWaits s c.unit) :
    exec (.writeAckReceive id) s = .next (settleCmd ((dropReq s id).setUnit c.unit { u with
      tags := u.tags.put c.tag ((u.tag c.tag).note r.len 0 (r.psn.contains true) false) }) r.cmd) := by
  have hans : r.answered = true := by simp [Req.answered, hst, hleg]
  have hack : ackWrite s id r = (dropReq s id).setUnit c.unit { u with
      tags := u.tags.put c.tag ((u.tag c.tag).note r.len 0 (r.psn.contains true) false) } := by
    unfold ackWrite
    simp only [hc, hk, hrev, Bool.false_eq_true, if_false]
    exact noteTag_running (s := dropReq s id) hu hrun hw _ _ _ _ _
  show execWriteAckReceive id s = _
  unfold execWriteAckReceive
  simp only [hr, hans, hk, hz, hone, List.foldl_cons, List.foldl_nil, hack, Bool.not_true, Bool.not_false,
    Bool.false_eq_true, if_false]
  rfl

/-- The tag of an acknowledged write holds its bytes before the command is settled. -/
def ackCounted (s : State) (id : Nat) (r : Req) (c : Cmd) (u : UnitRec) : State :=
  (dropReq s id).setUnit c.unit { u with
    tags := u.tags.put c.tag ((u.tag c.tag).note r.len 0 (r.psn.contains true) false) }

section
variable {s : State} {id : Nat} {r : Req} {c : Cmd} {u : UnitRec}

/-- While other requests of the command are out, the bytes are counted and it goes on (R89). -/
theorem ackCounted_open (h : ∃ e ∈ s.reqs, e.2.cmd = r.cmd ∧ e.1 ≠ id) :
    (settleCmd (ackCounted s id r c u) r.cmd).reqs.find id = none ∧
      TagNoted (settleCmd (ackCounted s id r c u) r.cmd) c.unit u c.tag r.len 0 (r.psn.contains true) false := by
  obtain ⟨e, he, hcmd, hid⟩ := h
  rw [settleCmd_open ⟨e, FMap.mem_del_iff.2 ⟨he, hid⟩, hcmd⟩]
  obtain ⟨_, _, hunits, _⟩ := settleLog_settles (ackCounted s id r c u) r.cmd
  obtain ⟨T, I, hunit⟩ := hunits c.unit _
    (State.unit_setUnit_same _ _ _)
  refine ⟨?_, _, hunit, FMap.look_put_same _ _ _ _⟩
  rw [settleLog_reqs]
  exact FMap.find_del_same _ _

/-- The last acknowledgement of a WPOST counts its bytes and completes it (R89). -/
theorem ackCounted_last (h : ∀ e ∈ s.reqs, e.2.cmd = r.cmd → e.1 = id) (hc : s.cmds.find r.cmd = some c)
    (hk : c.kind = .wpost) (hrun : u.st = .running) (hw : NoTagWaits s c.unit) :
    (settleCmd (ackCounted s id r c u) r.cmd).cmds.find r.cmd = none ∧
      TagNoted (settleCmd (ackCounted s id r c u) r.cmd) c.unit u c.tag r.len 1 (r.psn.contains true) false := by
  have hgone : ∀ e ∈ (ackCounted s id r c u).reqs, e.2.cmd ≠ r.cmd := by
    intro e he hcmd
    obtain ⟨he, hid⟩ := FMap.mem_del_iff.1 he
    exact hid (h e he hcmd)
  obtain ⟨_, hnone, w, hunit, htags⟩ :=
    settleCmd_closes (s := ackCounted s id r c u) hc hk hgone (State.unit_setUnit_same _ _ _) hrun hw
  refine ⟨hnone, w, hunit, ?_⟩
  rw [htags, FMap.look_put_same]
  refine Eq.trans ?_ ((u.tag c.tag).note_bytes_done r.len (r.psn.contains true) false)
  exact congrArg (fun t : Tag => t.note 0 1 false false) (FMap.look_put_same _ _ _ _)

end

/-! ### The statement -/

/-- An atomic that its word obeys: the old bytes come back, and the word becomes the table's value, but for LD and a poisoned
word (R256, R337). -/
theorem atomicActs_bytes {s : State} {id : Nat} {r : Req} (c : Cmd) (hrev : r.revoked = false) :
    let k := farKey r.module r.maddr
    let old := bytesAt s.mem.far k r.len
    let w := 2 ^ (8 * r.len)
    let poisoned := (poisonIn s.mem.farPsn k r.len).isSome
    (atomicActs s id r c).reqs =
        s.reqs.put id { r with st := .returned, data := old, psn := List.replicate r.len poisoned } ∧
      BytesWritten s.mem.far (atomicActs s id r c).mem.far k (if poisoned ∨ c.op = 0xC then old
        else bytesOfNum r.len (atomicOp (8 * r.len) c.op (numOfBytes old) (c.operand.toNat % w) (c.compare.toNat % w))) := by
  intro k old w poisoned
  have hold : moduleRead s r.module r.maddr r.len = (old, poisoned) := rfl
  unfold atomicActs
  simp only [hold, hrev, Bool.false_or]
  by_cases hstay : poisoned = true ∨ c.op = 0xC
  · rw [if_pos hstay, if_pos (by simpa using hstay)]
    exact ⟨rfl, bytesWritten_same _ _ _⟩
  · rw [if_neg hstay, if_neg (by simpa using hstay)]
    exact ⟨rfl, fun j => moduleWrite_byte _ _ _ _ _ j⟩

/-- Settles O46: a request that has arrived acts as `Req.read`, `writePacket_stores` and `atomicActs` say, and an
acknowledgement counts its bytes before its command is settled (`ackCounted_open`, `ackCounted_last`). -/
theorem moduleRequests : Obligations.ModuleRequests := by
  unfold Obligations.ModuleRequests
  intro s id r
  refine ⟨fun hr _ hleg => notArrived_waits hr hleg, fun h hk => ⟨fun hrev => ?_, fun hrev => ?_⟩,
    fun h hk hone => ⟨fun hrev => ?_, fun hrev hw => writePacket_stores h hk hone hrev hw⟩, ?_,
    fun h _ hb => atomicRequest_behind h.1 hb, fun c h hk hturn hc hcap hrev => ?_,
    fun c h hk hturn hc hcap hrev => ⟨_, atomicRequest_acts h hk hturn hc hcap, atomicActs_bytes c hrev⟩⟩
  · rw [readRequest_reads h hk, Req.read, hrev]
    rfl
  · rw [readRequest_reads h hk, Req.read, hrev]
    rfl
  · rw [writePacket_one h hk hone, hrev]
    rfl
  · intro c u hr hk hst hleg hz hrev hone hc hkind hu hrun hw
    have hexec := writeAckReceive_one hr hk hst hleg hz hrev hone hc hu hrun hw
    exact ⟨fun hmore => ⟨_, hexec, ackCounted_open hmore⟩, fun hlast => ⟨_, hexec, ackCounted_last hlast hc hkind hrun hw⟩⟩
  · rw [atomicRequest_acts h hk hturn hc hcap]
    unfold atomicActs
    simp only [hrev, Bool.true_or, if_true]
    rfl

end Sys2Proof.Machine
end

/-! ## What port elements leave of the streams (R86, R111, R112, R236). -/

section
namespace Sys2Proof.Machine
open Sys2Proof Sys2Proof.Claims

/-! ### Elements that are given to pops -/

/-- Between `s` and `x` port elements went to the pops that wait for them: memory is as it was, and each team on its core but
for the causes that wait on it. -/
@[reducible] def ElementsFed (s x : State) : Prop :=
  x.mem = s.mem ∧ x.cur = s.cur ∧
    ∀ k t, s.teams.find k = some t → ∃ P, x.teams.find k = some { t with th := { t.th with pending := P } }

theorem ElementsFed.of_teams {s x : State} (hm : x.mem = s.mem) (hc : x.cur = s.cur) (ht : x.teams = s.teams) :
    ElementsFed s x := ⟨hm, hc, fun _ _ h => ⟨_, ht ▸ h⟩⟩

theorem ElementsFed.refl (s : State) : ElementsFed s s := .of_teams rfl rfl rfl

theorem ElementsFed.trans {s x y : State} (h : ElementsFed s x) (g : ElementsFed x y) : ElementsFed s y := by
  obtain ⟨hmem, hcur, hteams⟩ := h
  obtain ⟨gmem, gcur, gteams⟩ := g
  refine ⟨gmem.trans hmem, gcur.trans hcur, fun k t ht => ?_⟩
  obtain ⟨_, hx⟩ := hteams k t ht
  obtain ⟨P, hy⟩ := gteams k _ hx
  exact ⟨P, hy⟩

theorem ElementsFed.foldl {α : Type} {s x : State} {l : List α} {f : State → α → State} (h : ElementsFed s x)
    (hf : ∀ y a, ElementsFed y (f y a)) : ElementsFed s (l.foldl f x) :=
  List.foldlRecOn l f h fun y hy a _ => hy.trans (hf y a)

theorem Thread.post_same (t : Thread) (p : PendingTrap) : ∃ P, t.post p = { t with pending := P } := by
  unfold Thread.post
  split
  · exact ⟨_, rfl⟩
  · split
    · exact ⟨_, rfl⟩
    · exact ⟨_, rfl⟩

theorem ElementsFed.postCause (s : State) (c k cause sub : Nat) (info : Word64) :
    ElementsFed s (postCause s (.team c k) cause sub info) := by
  show ElementsFed s (s.onTeam c k _)
  unfold State.onTeam
  split
  · next t ht =>
    refine ⟨State.setTeam_mem _ _ _ _, State.setTeam_cur _ _ _ _, fun j r hr => ?_⟩
    by_cases hc : c < 0x10000
    · rw [State.setTeam_low _ _ _ hc]
      rw [State.team_low _ _ hc] at ht
      by_cases hj : j = teamKey c k
      · subst hj
        obtain rfl : t = r := Option.some.inj (ht.symm.trans hr)
        obtain ⟨P, hP⟩ := t.th.post_same ⟨cause, sub, info, false, none⟩
        exact ⟨P, (FMap.find_put_same _ _ _).trans (congrArg (fun th => some { t with th := th }) hP)⟩
      · exact ⟨_, (FMap.find_put_other _ _ hj).trans hr⟩
    · have hteams : (s.setTeam c k { t with th := t.th.post ⟨cause, sub, info, false, none⟩ }).teams = s.teams := by
        unfold State.setTeam
        rw [if_neg hc]
        split <;> rfl
      exact ⟨_, by rw [hteams]; exact hr⟩
  · exact .refl s

theorem ElementsFed.notePoison (s : State) (p : Pending) (info : Word64) : ElementsFed s (notePoison s p info) := by
  unfold Machine.notePoison
  split
  · exact .refl s
  · exact (ElementsFed.postCause s p.core p.slot 0x06 0 info).trans (.of_teams rfl rfl rfl)

/-- SHFL of elements draws open values, and changes nothing else (R112, R315). -/
theorem settleShfl_same (d : Calc) (sub : Nat) (rows : List Row) (s : State) :
    ∃ n, (settleShfl d sub rows s).1 = { s with freeCtr := n } := by
  unfold settleShfl
  refine List.foldlRecOn (motive := fun (a : State × List (Nat × LaneOut)) => ∃ n, a.1 = { s with freeCtr := n }) rows _
    ⟨_, rfl⟩ ?_
  rintro a ⟨n, hn⟩ r _
  extract_lets l src drawn
  clear_value src
  cases src with
  | some q => exact ⟨n, hn⟩
  | none => exact ⟨_, congrArg (fun y : State => { y with freeCtr := y.freeCtr + 1 }) hn⟩

theorem ElementsFed.settleGroup (s : State) (p : Pending) (d : Calc) : ElementsFed s (settleGroup s p d) := by
  unfold Machine.settleGroup
  extract_lets mates
  split
  · split
    · exact .refl s
    · split
      · exact .refl s
      · next op w _ =>
        extract_lets env
        split
        next s' outs hs' =>
        have hsame : ElementsFed s s' := by
          split at hs'
          · obtain ⟨n, hn⟩ := settleShfl_same d w.sub.toNat _ s
            rw [hs'] at hn
            obtain rfl : s' = _ := hn
            exact .of_teams rfl rfl rfl
          · obtain ⟨rfl, _⟩ := Prod.mk.inj hs'
            exact .refl s
        exact hsame.trans (.of_teams rfl rfl rfl)
  · exact .refl s

theorem ElementsFed.assignElement (s : State) (id : Nat) (v : Word32) (psn : Bool) :
    ElementsFed s (assignElement s id v psn) := by
  unfold Machine.assignElement
  split
  · exact .refl s
  · next p _ =>
    split
    · exact .of_teams rfl rfl rfl
    · extract_lets noted
      have hnoted : ElementsFed s noted := by
        simp only [noted]
        split
        · exact .notePoison s p 0x02
        · exact .refl s
      split
      · exact hnoted
      · split
        · exact hnoted.trans (.of_teams rfl rfl rfl)
        · split
          · exact hnoted
          · refine .trans ?_ (.settleGroup _ _ _)
            exact hnoted.trans (.of_teams rfl rfl rfl)

theorem ElementsFed.feedP2 (s : State) (cl : Nat) : ElementsFed s (feedP2 s cl) :=
  ElementsFed.foldl (.of_teams rfl rfl rfl) fun y e => .assignElement y e.1 e.2.1 e.2.2

theorem ElementsFed.feedPipe (s : State) (u key : Nat) : ElementsFed s (feedPipe s u key) := by
  unfold Machine.feedPipe
  split
  · exact .refl s
  · exact ElementsFed.foldl (.of_teams rfl rfl rfl) fun y e => .assignElement y e.1 e.2 false

end Sys2Proof.Machine
end

/-! ## The passes of LDG, STG and ATOMG (R43, R44, R210, R222, R326). -/

section
namespace Sys2Proof.Machine
open Sys2Proof Sys2Proof.Claims

/-! ### What the end of the passes leaves of a team -/

/-- An instruction that raises no flag raises none in its team (R128). -/
theorem Team.raise_none (t : Team) (op : Nat) (long : Bool) (elpc : Word64) : t.raise op long elpc 0 = t := by
  have hhit : (0 : Flags) &&& t.ften = 0 := BitVec.zero_and
  have hfstat : t.fstat ||| (0 : Flags) = t.fstat := BitVec.or_zero
  unfold Team.raise
  simp only [hhit, hfstat, if_true]

/-- The team after the last pass of an instruction without a flag. -/
theorem finishPass_none (s : State) (x : Pass) (t : Team) :
    finishPass s x t 0 = s.setTeam x.core x.slot { t with queue := t.queue.drop 1, laneWait := .none } := by
  unfold finishPass
  rw [Team.raise_none]

theorem Team.putCells_same (t : Team) (lane r : Nat) (cs : List Cell) : ∃ V, t.putCells lane r cs = { t with v := V } := by
  induction cs generalizing t r with
  | nil => exact ⟨_, rfl⟩
  | cons c cs ih => exact ih { t with v := t.v.put (lane * 64 + r) c } (r + 1)

theorem Team.writeNamed_same (t : Team) (w : LaneWord) (n : Nat) (outs : FMap (List Cell)) (keep : List Nat) :
    ∃ V, t.writeNamed w n outs keep = { t with v := V } := by
  unfold Team.writeNamed
  refine List.foldlRecOn (motive := fun y => ∃ V, y = { t with v := V }) t.lanes _ ?_ ?_
  · exact ⟨_, rfl⟩
  rintro _ ⟨V, rfl⟩ l _
  split
  · exact Team.putCells_same { t with v := V } _ _ _
  · split
    · exact Team.putCells_same { t with v := V } _ _ _
    · exact ⟨_, rfl⟩

/-- A delivery touches the v registers and the queues only (R212, R213). -/
theorem Team.deliver_same (t : Team) (op : Nat) (w : LaneWord) (outs : FMap (List Cell)) (keep : List Nat) :
    ∃ V Q, t.deliver op w outs keep = { t with v := V, q := Q } := by
  unfold Team.deliver
  extract_lets d
  split
  · obtain ⟨V, h⟩ := t.writeNamed_same w (destRegs op w.sub.toNat) outs keep
    exact ⟨V, _, h⟩
  · split
    · exact ⟨_, _, rfl⟩
    · exact ⟨_, _, rfl⟩

/-! ### Lanes that are switched off -/

theorem laneBit (l j : Nat) : ((1#1024) <<< l).getLsbD j = (decide (j < 1024) && decide (j = l)) := by
  rw [Bool.eq_iff_iff]
  simp only [BitVec.getLsbD_shiftLeft, BitVec.getLsbD_one, Bool.and_eq_true, decide_eq_true_eq, Bool.not_eq_true',
    decide_eq_false_iff_not]
  omega

theorem Team.switchOff_mask (t : Team) (l : Nat) : (t.switchOff l).mask 0 = t.mask 0 &&& ~~~((1#1024) <<< l) :=
  FMap.look_put_same _ _ _ _

/-- Switching lanes off leaves a team but for k0 and FMASK (R79, R324). -/
theorem Team.switchOffs_same (t : Team) (ls : List Nat) :
    ∃ K F, ls.foldl Team.switchOff t = { t with k := K, fmask := F } := by
  refine List.foldlRecOn (motive := fun y => ∃ K F, y = { t with k := K, fmask := F }) ls _ ?_ ?_
  · exact ⟨_, _, rfl⟩
  rintro _ ⟨K, F, rfl⟩ l _
  exact ⟨_, _, rfl⟩

/-- The lanes switched off leave k0, and enter FMASK. -/
theorem Team.switchOffs_bits (t : Team) {ls : List Nat} (h : ∀ l ∈ ls, l < 1024) (j : Nat) :
    ((ls.foldl Team.switchOff t).mask 0).getLsbD j = ((t.mask 0).getLsbD j && !ls.contains j) ∧
      (ls.foldl Team.switchOff t).fmask.getLsbD j = (t.fmask.getLsbD j || ls.contains j) := by
  induction ls generalizing t with
  | nil => simp
  | cons l ls ih =>
    obtain ⟨hl, hls⟩ := List.forall_mem_cons.1 h
    obtain ⟨hmask, hfmask⟩ := ih (t.switchOff l) hls
    have hbit : ((1#1024) <<< l).getLsbD j = (j == l) := by
      rw [laneBit, Bool.eq_iff_iff]
      simp only [Bool.and_eq_true, decide_eq_true_eq, beq_iff_eq]
      omega
    rw [List.foldl_cons, hmask, hfmask, Team.switchOff_mask]
    refine ⟨?_, ?_⟩
    · by_cases hj : j < 1024
      · simp only [BitVec.getLsbD_and, BitVec.getLsbD_not, hj, hbit, List.contains_cons, decide_true, Bool.true_and,
          Bool.not_or, Bool.and_assoc]
      · simp [BitVec.getLsbD_of_ge _ _ (Nat.le_of_not_lt hj)]
    · show ((t.fmask ||| ((1#1024) <<< l)).getLsbD j || _) = _
      rw [BitVec.getLsbD_or, hbit, List.contains_cons, Bool.or_assoc]

/-! ### Before the first pass -/

/-- An instruction that nothing holds back reaches its passes (R113, R216, R217). -/
theorem withHead_passes {s : State} {c sl : Nat} {t : Team} {u : UnitRec} {e : LaneEntry} {rest : List LaneEntry} {op : Nat}
    {w : LaneWord} (ha : Acting s c sl t u) (h : HeadPasses s (passOf s c sl t u e op w) rest) (k : Pass → Result) :
    withHead op w s k = k (passOf s c sl t u e op w) := by
  obtain ⟨hcur, _, ht, hu⟩ := ha
  obtain ⟨hhandler, hqueue, hempty, hport, hsource, hdest, hroom⟩ := h
  have hwait : (passOf s c sl t u e op w).headWait s = none := by
    unfold Pass.headWait
    rw [hsource, hdest]
    cases hp : (passOf s c sl t u e op w).portDst with
    | none => rfl
    | some p => exact if_pos (hroom p hp)
  have hhandler' : t.th.handler = false := hhandler
  have hqueue' : t.queue = e :: rest := hqueue
  unfold withHead
  rw [withTeam_of hcur ht hu, hhandler', hqueue']
  unfold passOf at hempty hport hwait ⊢
  simp only [Bool.false_eq_true, if_false, hempty, hport, hwait]

/-- Whether a lane opcode is that of LDG, STG or ATOMG. -/
def isGangLane (o : Option (Nat × LaneWord)) : Bool :=
  match o with
  | some (op, _) => op == 0x83 || op == 0x84 || op == 0x85
  | none => false

/-- LDG, STG and ATOMG alone have gang opcodes (R258, R326). -/
theorem gang_of_isGangLane {i : Instr} (h : isGangLane (laneOf i) = true) :
    ∃ w, i = .ldg w ∨ i = .stg w ∨ i = .atomg w := by
  cases i
  case ldg w => exact ⟨w, .inl rfl⟩
  case stg w => exact ⟨w, .inr (.inl rfl)⟩
  case atomg w => exact ⟨w, .inr (.inr rfl)⟩
  all_goals exact absurd h Bool.false_ne_true

theorem exec_laneMemory {i : Instr} {op : Nat} {w : LaneWord} (h : laneOf i = some (op, w))
    (hop : op = 0x83 ∨ op = 0x84 ∨ op = 0x85) (s : State) : exec i s = laneMemory op w s := by
  have hgang : isGangLane (laneOf i) = true := by
    rw [h]
    rcases hop with rfl | rfl | rfl
    · rfl
    · rfl
    · rfl
  obtain ⟨w', rfl | rfl | rfl⟩ := gang_of_isGangLane hgang
  · obtain ⟨rfl, rfl⟩ := Prod.mk.inj (Option.some.inj h)
    rfl
  · obtain ⟨rfl, rfl⟩ := Prod.mk.inj (Option.some.inj h)
    rfl
  · obtain ⟨rfl, rfl⟩ := Prod.mk.inj (Option.some.inj h)
    rfl

/-- A gang instruction that nothing holds back, nor an access before it: its accesses are sent, or its elements claimed. -/
theorem gang_passes {s : State} {c sl : Nat} {t : Team} {u : UnitRec} {e : LaneEntry} {rest : List LaneEntry} {i : Instr}
    {op : Nat} {w : LaneWord} (ha : Acting s c sl t u) (hi : laneOf i = some (op, w))
    (hop : op = 0x83 ∨ op = 0x84 ∨ op = 0x85) (h : HeadPasses s (passOf s c sl t u e op w) rest)
    (hm : (passOf s c sl t u e op w).memWait s = none) :
    ((passOf s c sl t u e op w).portSrc = none → exec i s = .next (passGang s (passOf s c sl t u e op w))) ∧
      ∀ p, (passOf s c sl t u e op w).portSrc = some p → ∃ (off : List Nat) (takes : Nat → Bool) (store : Row → Option PortStore),
        exec i s = .next (passPop s (passOf s c sl t u e op w) p (off.foldl Team.switchOff t) takes store) := by
  have hgang : ¬ op < 0x83 := by omega
  rw [exec_laneMemory hi hop, laneMemory, withHead_passes ha h]
  refine ⟨fun hp => ?_, fun p hp => ⟨offRows s (passOf s c sl t u e op w) (0x83 ≤ op), ?_⟩⟩
  · simp only [hm, hp, hgang, if_false]
  · simp only [hm, hp]
    exact ⟨_, _, rfl⟩

/-! ### With a port source -/

/-- The team after the passes: the entry has left its queue, and its registers and queues are `v` and `q`. -/
def Team.passed (t : Team) (v : FMap Cell) (q : FMap (List Cell)) : Team :=
  { t with v := v, q := q, queue := t.queue.drop 1, laneWait := .none }

theorem finishPass_markEmpty (s : State) (x : Pass) (t : Team) (ids : List (Nat × Nat)) :
    ∃ V Q, finishPass s x (x.markEmpty t ids) 0 = s.setTeam x.core x.slot (t.passed V Q) := by
  obtain ⟨V, Q, h⟩ := t.deliver_same x.op x.w (ids.map fun i => (i.2, List.replicate (destRegs x.op x.sub) ⟨0, i.1⟩)) []
  rw [finishPass_none, Pass.markEmpty, h]
  exact ⟨V, Q, rfl⟩

/-- A pop changes no byte, and of its team what the passes change and the causes that poisoned elements bring (R86, R112). -/
theorem passPop_passed (s : State) (x : Pass) (p : Nat) (t : Team) (takes : Nat → Bool) (store : Row → Option PortStore)
    (hc : x.core < 0x10000) : (passPop s x p t takes store).mem = s.mem ∧ (passPop s x p t takes store).cur = s.cur ∧
      ∃ V Q P, (passPop s x p t takes store).team x.core x.slot =
        some { t.passed V Q with th := { t.th with pending := P } } := by
  unfold passPop
  extract_lets lanes rows ids ps ps' numberedState claims mine finished
  obtain ⟨V, Q, hfin⟩ : ∃ V Q, finished = numberedState.setTeam x.core x.slot (t.passed V Q) :=
    finishPass_markEmpty _ _ _ _
  have hmem : finished.mem = s.mem := by rw [hfin, State.setTeam_mem]
  have hcur : finished.cur = s.cur := by rw [hfin, State.setTeam_cur]
  have hteam : finished.teams.find (teamKey x.core x.slot) = some (t.passed V Q) := by
    rw [hfin, ← State.team_low _ _ hc, State.team_setTeam_same _ _ _ hc]
  have hdone {y : State} (hfed : ElementsFed finished y) : y.mem = s.mem ∧ y.cur = s.cur ∧
      ∃ V Q P, y.team x.core x.slot = some { t.passed V Q with th := { t.th with pending := P } } := by
    obtain ⟨hfmem, hfcur, hfteams⟩ := hfed
    obtain ⟨P, hy⟩ := hfteams _ _ hteam
    exact ⟨hfmem.trans hmem, hfcur.trans hcur, V, Q, P, (State.team_low _ _ hc).trans hy⟩
  split
  · refine hdone (.trans ?_ (.feedP2 _ _))
    exact .of_teams rfl rfl rfl
  · refine hdone (.trans ?_ (.feedPipe _ _ _))
    obtain ⟨U, hU⟩ := finished.onUnit_same x.t.unit fun r => { r with
      pipeClaims := r.pipeClaims.put (pipeOf x.t p 0) (r.pipeClaims.look [] (pipeOf x.t p 0) ++ claims) }
    rw [hU]
    exact .of_teams rfl rfl rfl

/-! ### Without a port source -/

/-- The access of a lane whose gang address passes (R326). -/
def gangSent (s : State) (x : Pass) (i : Nat × Nat × List Nat × Nat × Nat) : GangAccess :=
  { core := x.core, slot := x.slot, instr := s.nextId, lane := i.2.1, op := x.op, sub := x.sub,
    gaddr := laneAddress x.w (i.2.2.1.headD 0), addr := i.2.2.2.2, target := i.2.2.2.1,
    data := (i.2.2.1[1]?).getD 0, compare := BitVec.ofNat 32 ((i.2.2.1[2]?).getD 0),
    pend := if x.op == 0x84 then 0 else i.1,
    acq := if x.op == 0x84 then auxOrder x.w.aux == 4 else ordAcq (auxOrder x.w.aux),
    fence := false, seq := x.e.seq, launch := x.u.launch }

/-- The accesses of an instruction with their numbers. -/
def gangIds (s : State) (x : Pass) : List (Nat × Nat × List Nat × Nat × Nat) :=
  (gangRows s x).zipIdx.map fun r => (s.nextId + 1 + r.2, r.1)

/-- What the passes of a gang instruction without a port leave: one access sent for each lane that passes, the other lanes
switched off, and the destinations empty (R222, R326). -/
theorem passGang_sends (s : State) (x : Pass) : ∃ V Q P n, passGang s x =
    ({ s with
      gangAcc := (gangIds s x).foldl (fun m i => m.put i.1 (gangSent s x i)) s.gangAcc,
      pendings := P, nextId := n } : State).setTeam x.core x.slot
        (((offRows s x true).foldl Team.switchOff x.t).passed V Q) := by
  unfold passGang
  extract_lets rows n ids stores acc ps off team
  have hteam : ∃ V Q, ∀ y : State, finishPass y x team 0 = y.setTeam x.core x.slot (off.passed V Q) := by
    simp only [team]
    split
    · exact ⟨_, _, fun y => finishPass_none y x off⟩
    · obtain ⟨V, Q, h⟩ := off.deliver_same x.op x.w
        ((ids.map fun i => (i.1, i.2.1)).map fun i => (i.2, List.replicate (destRegs x.op x.sub) ⟨0, i.1⟩)) []
      refine ⟨V, Q, fun y => ?_⟩
      rw [finishPass_none, Pass.markEmpty, h]
      rfl
  obtain ⟨V, Q, hteam⟩ := hteam
  exact ⟨V, Q, ps, _, hteam _⟩

theorem gangIds_find {s : State} {x : Pass} {l v off : Nat} {vs : List Nat} (h : (l, vs, v, off) ∈ gangRows s x)
    (m : FMap GangAccess) : ∃ id, FMap.find ((gangIds s x).foldl (fun m i => m.put i.1 (gangSent s x i)) m) id =
      some (gangSent s x (id, l, vs, v, off)) := by
  obtain ⟨n, hn⟩ := List.mem_iff_getElem?.1 h
  refine ⟨s.nextId + 1 + n, FMap.find_foldl_put (key := Prod.fst) ?_ (fun i hi hk => ?_) m⟩
  · exact ⟨_, List.mem_map.2 ⟨((l, vs, v, off), n), List.mem_zipIdx_iff_getElem?.2 hn, rfl⟩, rfl⟩
  · obtain ⟨⟨row, k⟩, hr, rfl⟩ := List.mem_map.1 hi
    have hkn : k = n := by simpa using hk
    subst hkn
    have hrow : some row = some (l, vs, v, off) := (List.mem_zipIdx_iff_getElem?.1 hr).symm.trans hn
    rw [Option.some.inj hrow]

/-- Only a launched lane is active, so only such a lane is switched off. -/
theorem offRows_lt {s : State} {x : Pass} {gang : Bool} {l : Nat} (h : l ∈ offRows s x gang) : l < 1024 := by
  obtain ⟨r, hr, rfl⟩ := List.mem_map.1 h
  obtain ⟨l, hl, rfl⟩ := List.mem_map.1 (List.mem_filter.1 hr).1
  have hactive : x.active l = true := (List.mem_filter.1 hl).2
  exact BitVec.lt_of_getLsbD (Bool.and_eq_true_iff.1 hactive).1

/-- LDG, STG and ATOMG complete their passes, and send what their lanes ask for (R43, R44, R326). -/
theorem gang_issues {s : State} {c sl : Nat} {t : Team} {u : UnitRec} {e : LaneEntry} {rest : List LaneEntry} {i : Instr}
    {op : Nat} {w : LaneWord} (ha : Acting s c sl t u) (hi : laneOf i = some (op, w))
    (hop : op = 0x83 ∨ op = 0x84 ∨ op = 0x85) (h : HeadPasses s (passOf s c sl t u e op w) rest)
    (hm : (passOf s c sl t u e op w).memWait s = none) :
    ∃ x y, exec i s = .next x ∧ Passed s x c sl t y rest ∧ x.mem = s.mem ∧
      ((passOf s c sl t u e op w).portSrc = none →
        (∀ l vs v off, (l, vs, v, off) ∈ gangRows s (passOf s c sl t u e op w) → ∃ id g, x.gangAcc.find id = some g ∧
          g.lane = l ∧ g.target = v ∧ g.addr = off ∧ g.op = op ∧ g.core = c ∧ g.slot = sl ∧ g.data = (vs[1]?).getD 0) ∧
        (∀ l, (y.mask 0).getLsbD l =
          ((t.mask 0).getLsbD l && !(offRows s (passOf s c sl t u e op w) true).contains l)) ∧
        (∀ l, y.fmask.getLsbD l = (t.fmask.getLsbD l || (offRows s (passOf s c sl t u e op w) true).contains l))) := by
  obtain ⟨hsend, hpop⟩ := gang_passes ha hi hop h hm
  obtain ⟨_, ⟨hc, _⟩, _, _⟩ := ha
  have hrest : t.queue.drop 1 = rest := by
    have hqueue : t.queue = e :: rest := h.2.1
    rw [hqueue]; rfl
  generalize hx : passOf s c sl t u e op w = x at hsend hpop
  have hcore : x.core = c := by rw [← hx]; rfl
  have hslot : x.slot = sl := by rw [← hx]; rfl
  have hxt : x.t = t := by rw [← hx]; rfl
  have hxop : x.op = op := by rw [← hx]; rfl
  cases hsrc : x.portSrc with
  | some p =>
    obtain ⟨off, takes, store, hexec⟩ := hpop p hsrc
    obtain ⟨hmem, hcur, V, Q, P, hteam⟩ := passPop_passed s x p (off.foldl Team.switchOff t) takes store (hcore ▸ hc)
    obtain ⟨K, F, hoff⟩ := t.switchOffs_same off
    rw [hcore, hslot] at hteam
    refine ⟨_, _, hexec, ⟨hteam, ?_, rfl, ?_, ?_, hcur⟩, hmem, fun hnone => by cases hnone⟩
    · rw [hoff]; exact hrest
    · rw [hoff]; rfl
    · rw [hoff]
  | none =>
    obtain ⟨V, Q, P, n, hgang⟩ := passGang_sends s x
    rw [hcore, hslot, hxt] at hgang
    obtain ⟨K, F, hoff⟩ := t.switchOffs_same (offRows s x true)
    have hbits := t.switchOffs_bits (ls := offRows s x true) fun l => offRows_lt
    refine ⟨_, ((offRows s x true).foldl Team.switchOff t).passed V Q, hsend hsrc, ⟨?_, ?_, rfl, ?_, ?_, ?_⟩, ?_,
      fun _ => ⟨fun l vs v off hrow => ?_, fun l => (hbits l).1, fun l => (hbits l).2⟩⟩
    · rw [hgang]
      exact State.team_setTeam_same _ _ _ hc
    · rw [hoff]; exact hrest
    · rw [hoff]; rfl
    · rw [hoff]; rfl
    · rw [hgang, State.setTeam_cur]
    · rw [hgang, State.setTeam_mem]
    · obtain ⟨id, hid⟩ := gangIds_find hrow s.gangAcc
      refine ⟨id, gangSent s x (id, l, vs, v, off), ?_, rfl, rfl, rfl, hxop, hcore, hslot, rfl⟩
      rw [hgang, State.setTeam_gangAcc]
      exact hid

end Sys2Proof.Machine
end

/-! ## A gang access at its target (R82, R256, R326). -/

section
namespace Sys2Proof.Machine
open Sys2Proof Sys2Proof.Claims

/-! ### Poison after a clean write -/

theorem mem_setDel_iff {l : List Nat} (h : setSorted l = true) {k x : Nat} : x ∈ setDel l k ↔ x ∈ l ∧ x ≠ k := by
  induction l with
  | nil => simp [setDel]
  | cons j l ih =>
    obtain ⟨ha, hs⟩ := (setSorted_cons j l).1 h
    cases hj : j == k
    · have hjk : j ≠ k := by simpa using hj
      simp only [setDel, hj, cond_false, List.mem_cons, ih hs]
      constructor
      · rintro (rfl | ⟨hx, hk⟩)
        · exact ⟨.inl rfl, hjk⟩
        · exact ⟨.inr hx, hk⟩
      · rintro ⟨rfl | hx, hk⟩
        · exact .inl rfl
        · exact .inr ⟨hx, hk⟩
    · have hjk : j = k := by simpa using hj
      subst hjk
      simp only [setDel, hj, cond_true, List.mem_cons]
      constructor
      · exact fun hx => ⟨.inr hx, (ha x hx).ne'⟩
      · rintro ⟨rfl | hx, hk⟩
        · exact absurd rfl hk
        · exact hx

/-- A word that bytes cover whole is among those that they touch. -/
theorem mem_wordsOf {k n v : Nat} (h : k ≤ 8 * v ∧ 8 * v + 8 ≤ k + n) : v ∈ wordsOf k n := by
  unfold wordsOf
  rw [if_neg (by simp only [beq_iff_eq]; omega), List.mem_range'_1]
  omega

/-- A clean write clears the words that it covers whole, and no other (R82). -/
theorem mem_poisonAfter_clean {p : List Nat} (h : setSorted p = true) (k n v : Nat) :
    v ∈ poisonAfter p k n false ↔ v ∈ p ∧ ¬(k ≤ 8 * v ∧ 8 * v + 8 ≤ k + n) := by
  have hwords (ws : List Nat) (q : List Nat) (hq : setSorted q = true) :
      v ∈ ws.foldl (fun q w => if k ≤ 8 * w && 8 * w + 8 ≤ k + n then setDel q w else q) q ↔
        v ∈ q ∧ ¬(v ∈ ws ∧ k ≤ 8 * v ∧ 8 * v + 8 ≤ k + n) := by
    induction ws generalizing q with
    | nil => simp
    | cons w ws ih =>
      rw [List.foldl_cons]
      split
      · next hw =>
        have hw' : k ≤ 8 * w ∧ 8 * w + 8 ≤ k + n := by simpa using hw
        rw [ih _ (setSorted_setDel q w hq), mem_setDel_iff hq, List.mem_cons]
        by_cases hv : v = w
        · subst hv; simp [hw']
        · simp [hv]
      · next hw =>
        have hw' : ¬(k ≤ 8 * w ∧ 8 * w + 8 ≤ k + n) := by simpa using hw
        rw [ih q hq, List.mem_cons]
        by_cases hv : v = w
        · subst hv; simp [hw']
        · simp [hv]
  refine (hwords (wordsOf k n) p h).trans (and_congr_right fun _ => not_congr ?_)
  exact ⟨fun hc => hc.2, fun hc => ⟨mem_wordsOf hc, hc⟩⟩

/-- A clean write stores its bytes (R82, R325). -/
theorem spadWrite_stored (s : State) (core off : Nat) (bs : List Byte) :
    BytesStored s (spadWrite s core off bs false) (spadKey core off) bs :=
  ⟨spadWrite_byte s core off bs false, fun h v => mem_poisonAfter_clean h _ _ v⟩

/-- Noting damage on a read before the write is no change of the bytes or their poison (R81). -/
theorem spadWrite_eccRead_stored (s : State) (core off n : Nat) (bs : List Byte) :
    BytesStored s (spadWrite (eccRead s core off n) core off bs false) (spadKey core off) bs := by
  obtain ⟨E, h⟩ := eccRead_same s core off n
  rw [h]
  exact spadWrite_stored { s with mem := { s.mem with ecc := E } } core off bs

/-! ### An access that its target takes -/

/-- The machine after the bytes of a gang load or atomic have been read, and the atomic's value stored (R256, R326). -/
def gangActed (s : State) (g : GangAccess) (r : UnitRec) : State :=
  let n := accessBytes g.op g.sub
  let off := r.spadOff g.addr
  let read := eccRead s r.core off n
  if g.op == 0x85 && g.sub != 0xC then
    spadWrite read r.core off (bytesOfNum 4
      (atomicOp 32 g.sub (numOfBytes (spadRead s r.core off n)) (g.data % 2 ^ 32) g.compare.toNat)) false
  else read

theorem gangActed_same (s : State) (g : GangAccess) (r : UnitRec) : ∃ M, gangActed s g r = { s with mem := M } := by
  obtain ⟨E, h⟩ := eccRead_same s r.core (r.spadOff g.addr) (accessBytes g.op g.sub)
  unfold gangActed
  simp only [h]
  split
  · exact ⟨_, rfl⟩
  · exact ⟨_, rfl⟩

/-- A load, and LD of ATOMG, change no byte (R256). -/
theorem gangActed_load {g : GangAccess} (h : g.op = 0x83 ∨ (g.op = 0x85 ∧ g.sub = 0xC)) (s : State) (r : UnitRec) (j : Nat) :
    byteAt (gangActed s g r).mem.spad j = byteAt s.mem.spad j := by
  have hload : ¬ (g.op == 0x85 && g.sub != 0xC) = true := by
    rcases h with h | ⟨_, h⟩
    · simp [h]
    · simp [h]
  obtain ⟨E, he⟩ := eccRead_same s r.core (r.spadOff g.addr) (accessBytes g.op g.sub)
  rw [gangActed, if_neg hload, he]

/-- Another ATOMG stores the table's value (R256). -/
theorem gangActed_atomic {g : GangAccess} (h : g.op = 0x85) (hs : g.sub ≠ 0xC) (s : State) (r : UnitRec) :
    BytesStored s (gangActed s g r) (spadKey r.core (r.spadOff g.addr)) (bytesOfNum 4 (atomicOp 32 g.sub
      (numOfBytes (spadRead s r.core (r.spadOff g.addr) (accessBytes g.op g.sub))) (g.data % 2 ^ 32)
      g.compare.toNat)) := by
  rw [gangActed, if_pos (by simp [h, hs])]
  exact spadWrite_eccRead_stored _ _ _ _ _

/-- The pending result after an access: of clean words what they hold, of poisoned ones zeros with POISON (R326). -/
def gangResult (s : State) (g : GangAccess) (r : UnitRec) (q : Pending) : Pending :=
  let old := spadRead s r.core (r.spadOff g.addr) (accessBytes g.op g.sub)
  if (r.poisonAt s g.addr (accessBytes g.op g.sub)).isSome then
    { q with value := some (List.replicate (destRegs g.op g.sub) 0), psn := some (poisonInfo g.gaddr 0x01) }
  else { q with value := some (loadWords (if g.op == 0x85 then 2 else g.sub) old) }

/-- An access that is no store and that its target takes acts on the bytes and gives its pending result (R326). -/
theorem performGang_result {s : State} {g : GangAccess} {r : UnitRec} (hop : g.op ≠ 0x84)
    (harmed : (r.armedAt g.addr (accessBytes g.op g.sub)).isSome = false) :
    ∃ P, performGang s g r = { gangActed s g r with pendings := P } ∧
      ∀ q, s.pendings.find g.pend = some q → P.find g.pend = some (gangResult s g r q) := by
  have hstore : (g.op == 0x84) = false := beq_eq_false_iff_ne.2 hop
  obtain ⟨M, hM⟩ := gangActed_same s g r
  have hpend : (gangActed s g r).pendings = s.pendings := by rw [hM]
  have hexec : performGang s g r = if (r.poisonAt s g.addr (accessBytes g.op g.sub)).isSome then
      (match (gangActed s g r).pendings.find g.pend with
        | some p => { gangActed s g r with pendings := (gangActed s g r).pendings.put g.pend { p with
            value := some (List.replicate (destRegs g.op g.sub) 0), psn := some (poisonInfo g.gaddr 0x01) } }
        | none => gangActed s g r)
      else setResult (gangActed s g r) g.pend (loadWords (if g.op == 0x85 then 2 else g.sub)
        (spadRead s r.core (r.spadOff g.addr) (accessBytes g.op g.sub))) := by
    unfold performGang
    simp only [harmed, hstore, Bool.false_eq_true, if_false]
    rfl
  rw [hexec]
  unfold setResult gangResult
  rw [hpend]
  cases hq : s.pendings.find g.pend with
  | none =>
    refine ⟨s.pendings, ?_, fun q h => by cases h⟩
    rw [← hpend]
    split <;> rfl
  | some p =>
    split
    · refine ⟨_, rfl, fun q h => ?_⟩
      rw [← Option.some.inj h]
      exact FMap.find_put_same _ _ _
    · refine ⟨_, rfl, fun q h => ?_⟩
      rw [← Option.some.inj h]
      exact FMap.find_put_same _ _ _

/-- A store that its target takes stores its bytes, and changes nothing else (R326). -/
theorem performGang_store {s : State} {g : GangAccess} {r : UnitRec} (hop : g.op = 0x84)
    (harmed : (r.armedAt g.addr (accessBytes g.op g.sub)).isSome = false) :
    (performGang s g r).gangAcc = s.gangAcc ∧
      BytesStored s (performGang s g r) (spadKey r.core (r.spadOff g.addr))
        (bytesOfNum (accessBytes g.op g.sub) g.data) := by
  have hexec : performGang s g r = spadWrite (if accessBytes g.op g.sub < 8 then
      eccRead s r.core (r.spadOff g.addr) (accessBytes g.op g.sub) else s) r.core (r.spadOff g.addr)
      (bytesOfNum (accessBytes g.op g.sub) g.data) false := by
    have hstore : (g.op == 0x84) = true := beq_iff_eq.2 hop
    unfold performGang
    simp only [harmed, hstore, Bool.false_eq_true, if_false, if_true]
  obtain ⟨E, he⟩ := eccRead_same s r.core (r.spadOff g.addr) (accessBytes g.op g.sub)
  rw [hexec]
  split
  · exact ⟨by rw [he]; rfl, spadWrite_eccRead_stored _ _ _ _ _⟩
  · exact ⟨rfl, spadWrite_stored _ _ _ _⟩

/-! ### An access that its target refuses -/

/-- Between `s` and `x` a result arrived in its team: streams and units may differ, and no pending result is new. -/
@[reducible] def ResultFilled (s x : State) : Prop :=
  (∃ T U P, x = { s with teams := T, units := U, pendings := P }) ∧
    ∀ k, s.pendings.find k = none → x.pendings.find k = none

theorem ResultFilled.refl (s : State) : ResultFilled s s := ⟨⟨_, _, _, rfl⟩, fun _ h => h⟩

theorem ResultFilled.trans {s x y : State} (h : ResultFilled s x) (g : ResultFilled x y) : ResultFilled s y := by
  obtain ⟨⟨_, _, _, hrest⟩, hgone⟩ := h
  obtain ⟨⟨_, _, _, grest⟩, ggone⟩ := g
  refine ⟨?_, fun k hk => ggone k (hgone k hk)⟩
  rw [grest, hrest]
  exact ⟨_, _, _, rfl⟩

/-- Pending results that only change keep their numbers. -/
theorem ResultFilled.map (s : State) {f : Nat × Pending → Nat × Pending} (hf : ∀ e, (f e).1 = e.1) :
    ResultFilled s { s with pendings := s.pendings.map f } :=
  ⟨⟨_, _, _, rfl⟩, fun k hk => by rw [FMap.find_map hf, hk]; rfl⟩

theorem ResultFilled.setTeam (s : State) (c k : Nat) (t : Team) : ResultFilled s (s.setTeam c k t) := by
  obtain ⟨T, U, h⟩ := s.setTeam_same c k t
  rw [h]
  exact ⟨⟨_, _, _, rfl⟩, fun _ h => h⟩

theorem ResultFilled.onTeam (s : State) (c k : Nat) (f : Team → Team) : ResultFilled s (s.onTeam c k f) := by
  unfold State.onTeam
  split
  · exact .setTeam _ _ _ _
  · exact .refl s

theorem ResultFilled.notePoison (s : State) (p : Pending) (info : Word64) : ResultFilled s (notePoison s p info) := by
  unfold Machine.notePoison
  split
  · exact .refl s
  · refine (ResultFilled.onTeam s p.core p.slot _).trans (.map _ fun e => ?_)
    split <;> rfl

theorem ResultFilled.fillTeam (s : State) (c k id : Nat) (p : Pending) (ws : List Word32) :
    ResultFilled s (fillTeam s c k id p ws) := by
  unfold Machine.fillTeam
  split
  · exact .refl s
  · next t _ =>
    extract_lets quieted filled
    have hquiet : ResultFilled s quieted := by
      simp only [quieted]
      split
      · refine .map s fun e => ?_
        split <;> rfl
      · exact .refl s
    have hfilled : ResultFilled s filled := hquiet.trans (.setTeam _ _ _ _)
    split
    · exact hfilled.trans (.notePoison _ _ _)
    · exact hfilled

/-- A refusal changes no byte and no access, and its pending result is gone (R326). -/
theorem gangRefused_leaves (s : State) (g : GangAccess) : (gangRefused s g).mem = s.mem ∧
    (gangRefused s g).gangAcc = s.gangAcc ∧ (gangRefused s g).pendings.find g.pend = none := by
  have hdone {x y : State} (hx : ∃ T U P, x = { s with teams := T, units := U, pendings := P })
      (hgone : x.pendings.find g.pend = none) (h : ResultFilled x y) :
      y.mem = s.mem ∧ y.gangAcc = s.gangAcc ∧ y.pendings.find g.pend = none := by
    obtain ⟨_, _, _, hx⟩ := hx
    obtain ⟨⟨_, _, _, hy⟩, hkept⟩ := h
    refine ⟨?_, ?_, hkept _ hgone⟩
    · rw [hy, hx]
    · rw [hy, hx]
  unfold gangRefused
  extract_lets off
  have hoff : ResultFilled s off := .onTeam _ _ _ _
  obtain ⟨⟨T, U, P, hrest⟩, _⟩ := hoff
  have hgone (Q : FMap Pending) : ∃ T U P, ({ off with pendings := Q } : State) =
      { s with teams := T, units := U, pendings := P } := by
    rw [hrest]
    exact ⟨_, _, _, rfl⟩
  split
  · split
    · exact hdone (hgone _) (FMap.find_del_same _ _) (.refl _)
    · exact hdone (hgone _) (FMap.find_del_same _ _) (.fillTeam _ _ _ _ _ _)
  · next hnone => exact hdone ⟨T, U, P, hrest⟩ hnone (.refl _)

end Sys2Proof.Machine
end

/-! ## A refused gang access, and the statement of gang accesses (R212, R214, R326). -/

section
namespace Sys2Proof.Machine
open Sys2Proof Sys2Proof.Claims

/-! ### Zeros that arrive -/

/-- A result of zeros fills each v register that waits for it with 0, and leaves the others (R212, R326). -/
theorem fillCells_zeros (id : Nat) {ws : List Word32} (h : ∀ w ∈ ws, w = 0) (m : FMap Cell) (k : Nat) :
    FMap.find (fillCells id ws m) k = (m.find k).map fun c => if c.pend == id then ⟨0, 0⟩ else c := by
  induction m generalizing ws with
  | nil => rfl
  | cons e m ih =>
    have hhead : ws.headD 0 = 0 := by
      cases ws with
      | nil => rfl
      | cons w ws => exact h w (List.mem_cons_self ..)
    have hrest := ih (ws := ws.drop 1) fun w hw => h w (List.mem_of_mem_drop hw)
    cases hk : e.1 == k
    · cases hp : e.2.pend == id
      · simpa [fillCells, FMap.find, hp, hk] using ih h
      · simpa [fillCells, FMap.find, hp, hk] using hrest
    · cases hp : e.2.pend == id
      · simp only [fillCells, FMap.find, hp, hk, Bool.false_eq_true, if_false, cond_true, Option.map_some]
      · simp only [fillCells, FMap.find, hp, hk, hhead, if_true, cond_true, Option.map_some]

theorem Team.raise_same (t : Team) (op : Nat) (long : Bool) (elpc : Word64) (fl : Flags) :
    ∃ F th, t.raise op long elpc fl = { t with fstat := F, th := th } := by
  unfold Team.raise
  extract_lets hit noted
  split
  · exact ⟨_, _, rfl⟩
  · exact ⟨_, _, rfl⟩

/-- A result that no port element makes leaves the masks and FMASK of its team (R214). -/
theorem Team.fill_same {p : Pending} (h : p.deferred = none) (t : Team) (id : Nat) (ws : List Word32) :
    ∃ C F th, t.fill id p ws = { t with
      v := fillCells id ws t.v, q := fillQueue id (ws.headD 0) t.q, c := C, fstat := F, th := th } := by
  unfold Team.fill
  extract_lets filled coded one settled
  have hsettled : settled = coded := by simp only [settled, h]
  obtain ⟨C, hcoded⟩ : ∃ C, coded = { filled with c := C } := by
    simp only [coded]
    split
    · exact ⟨_, rfl⟩
    · exact ⟨_, rfl⟩
  rw [hsettled, hcoded]
  split
  · exact ⟨C, _, _, rfl⟩
  · obtain ⟨F, th, hraise⟩ := Team.raise_same { filled with c := C } p.op true p.elpc p.flags
    exact ⟨C, F, th, hraise⟩

/-- Each register and queue entry of `t` that waits for result `id` is 0 and full in `y`. -/
def ZerosArrived (t y : Team) (id : Nat) : Prop :=
  (∀ l j, j < 64 → (t.vcell l j).pend = id → y.vcell l j = ⟨0, 0⟩) ∧
    ∀ l j, (t.qcell l j).pend = id → y.qcell l j = ⟨0, 0⟩

theorem Team.fill_zeros {p : Pending} (h : p.deferred = none) (t : Team) {id : Nat} (hid : id ≠ 0) (n : Nat) :
    ZerosArrived t (t.fill id p (List.replicate n 0)) id := by
  obtain ⟨C, F, th, hfill⟩ := t.fill_same h id (List.replicate n 0)
  rw [hfill]
  have hpend {o : Option Cell} (ho : (o.getD Cell.zero).pend = id) :
      (o.map fun c => if c.pend == id then (⟨0, 0⟩ : Cell) else c).getD Cell.zero = ⟨0, 0⟩ := by
    cases o with
    | none => exact absurd ho.symm hid
    | some c =>
      have hc : c.pend = id := ho
      simp [hc]
  refine ⟨fun l j _ hj => ?_, fun l j hj => ?_⟩
  · unfold Team.vcell at hj ⊢
    rw [FMap.look_eq_find] at hj ⊢
    rw [fillCells_zeros id fun w hw => List.eq_of_mem_replicate hw]
    exact hpend hj
  · have hhead : (List.replicate n (0 : Word32)).headD 0 = 0 := by cases n <;> rfl
    unfold Team.qcell at hj ⊢
    have hlook : FMap.look [] (fillQueue id 0 t.q) l =
        (FMap.look [] t.q l).map fun c => if c.pend == id then (⟨0, 0⟩ : Cell) else c := by
      have hfind : FMap.find (fillQueue id 0 t.q) l = (t.q.find l).map fun cs => cs.map fun c =>
          if c.pend == id then (⟨0, 0⟩ : Cell) else c :=
        FMap.find_map (f := fun e : Nat × List Cell =>
            (e.1, e.2.map fun c : Cell => if c.pend == id then (⟨0, 0⟩ : Cell) else c))
          (fun _ => rfl) t.q l
      rw [FMap.look_eq_find, FMap.look_eq_find, hfind]
      cases t.q.find l with
      | none => rfl
      | some cs => rfl
    show ((FMap.look [] (fillQueue id _ t.q) l)[j]?).getD Cell.zero = _
    rw [hhead, hlook, List.getElem?_map]
    exact hpend hj

/-- A result without poison is filled into the team that waits for it. -/
theorem fillTeam_team {s : State} {c k id : Nat} {t : Team} {p : Pending} (hc : c < 0x10000) (ht : s.team c k = some t)
    (hpsn : p.psn = none) (ws : List Word32) : (fillTeam s c k id p ws).team c k = some (t.fill id p ws) := by
  unfold fillTeam
  simp only [ht, hpsn]
  exact State.team_setTeam_same _ _ _ hc

/-! ### The team whose access is refused -/

/-- The lane of a refused access is switched off, and what waits for its result is 0 and full (R326). -/
theorem gangRefused_team {s : State} {g : GangAccess} {t : Team} (hc : g.core < 0x10000)
    (ht : s.team g.core g.slot = some t)
    (hpend : ∀ q, s.pendings.find g.pend = some q → q.deferred = none ∧ q.psn = none) :
    ∃ y, (gangRefused s g).team g.core g.slot = some y ∧ y.mask 0 = t.mask 0 &&& ~~~((1#1024) <<< g.lane) ∧
      y.fmask = t.fmask ||| ((1#1024) <<< g.lane) ∧
      ∀ q, s.pendings.find g.pend = some q → q.discard = false → g.pend ≠ 0 → ZerosArrived t y g.pend := by
  have hoff : s.onTeam g.core g.slot (fun t => t.switchOff g.lane) = s.setTeam g.core g.slot (t.switchOff g.lane) :=
    State.onTeam_of s _ ht
  have hteam := State.team_setTeam_same s g.slot (t.switchOff g.lane) hc
  unfold gangRefused
  rw [hoff]
  simp only [State.setTeam_pendings]
  cases hq : s.pendings.find g.pend with
  | none => exact ⟨_, hteam, t.switchOff_mask g.lane, rfl, fun q h => by cases h⟩
  | some q =>
    obtain ⟨hdef, hpsn⟩ := hpend q hq
    cases hdis : q.discard with
    | true =>
      refine ⟨t.switchOff g.lane, ?_, t.switchOff_mask g.lane, rfl, fun z h hz => ?_⟩
      · simp only [hdis, if_true]
        exact hteam
      · rw [← Option.some.inj h, hdis] at hz
        cases hz
    | false =>
      obtain ⟨C, F, th, hfill⟩ := (t.switchOff g.lane).fill_same hdef g.pend (List.replicate (destRegs g.op g.sub) 0)
      refine ⟨(t.switchOff g.lane).fill g.pend q (List.replicate (destRegs g.op g.sub) 0), ?_, ?_, ?_, fun z _ _ hz => ?_⟩
      · simp only [hdis, Bool.false_eq_true, if_false]
        exact fillTeam_team (s := { s.setTeam g.core g.slot (t.switchOff g.lane) with
          pendings := s.pendings.del g.pend }) hc hteam hpsn _
      · rw [hfill]
        exact t.switchOff_mask g.lane
      · rw [hfill]
        rfl
      · exact Team.fill_zeros hdef (t.switchOff g.lane) hz _

/-! ### The turn of an access -/

theorem gangAccess_waits {s : State} {id : Nat} {g : GangAccess} {r : UnitRec} (hg : s.gangAcc.find id = some g)
    (hu : s.unit g.target = some r) (h : gangBefore s id g = true ∨ r.away = true) :
    exec (.gangAccessAtTarget id) s = .next s := by
  show execGangAccessAtTarget id s = _
  unfold execGangAccessAtTarget
  simp only [hg, hu]
  refine if_pos ?_
  rcases h with h | h
  · simp [h]
  · simp [h]

theorem gangAccess_acts {s : State} {id : Nat} {g : GangAccess} {r : UnitRec} (hg : s.gangAcc.find id = some g)
    (hc : g.core < 0x10000) (hu : s.unit g.target = some r) (hb : gangBefore s id g = false) (ha : r.away = false)
    (hp : r.placed = true) :
    exec (.gangAccessAtTarget id) s = .next (performGang { s with gangAcc := s.gangAcc.del id } g r) := by
  have hunit : State.unit { s with gangAcc := s.gangAcc.del id } g.target = some r := hu
  have hlow : decide (0x10000 ≤ g.core) = false := by simpa using hc
  show execGangAccessAtTarget id s = _
  unfold execGangAccessAtTarget
  simp only [hg, hu, hlow, hb, ha, hunit, hp, Option.map_some, Option.getD_some, Bool.or_false, Bool.false_eq_true,
    if_false, if_true]

/-! ### What an access does in its turn -/

theorem performGang_armed {g : GangAccess} {r : UnitRec} (h : (r.armedAt g.addr (accessBytes g.op g.sub)).isSome = true)
    (s : State) : performGang s g r = gangRefused s g := by
  unfold performGang
  exact if_pos h

/-- An access in its turn leaves the other accesses. -/
theorem performGang_gangAcc (s : State) (g : GangAccess) (r : UnitRec) : (performGang s g r).gangAcc = s.gangAcc := by
  cases harmed : (r.armedAt g.addr (accessBytes g.op g.sub)).isSome with
  | true =>
    rw [performGang_armed harmed]
    exact (gangRefused_leaves s g).2.1
  | false =>
    by_cases hop : g.op = 0x84
    · exact (performGang_store hop harmed).1
    · obtain ⟨P, hacted, _⟩ := performGang_result (s := s) hop harmed
      obtain ⟨M, hM⟩ := gangActed_same s g r
      rw [hacted, hM]

theorem performGang_load {s : State} {g : GangAccess} {r : UnitRec} (h : g.op = 0x83 ∨ (g.op = 0x85 ∧ g.sub = 0xC))
    (harmed : (r.armedAt g.addr (accessBytes g.op g.sub)).isSome = false) (j : Nat) :
    byteAt (performGang s g r).mem.spad j = byteAt s.mem.spad j := by
  obtain ⟨P, hacted, _⟩ := performGang_result (s := s) (by omega) harmed
  rw [hacted]
  exact gangActed_load h s r j

theorem performGang_atomic {s : State} {g : GangAccess} {r : UnitRec} (h : g.op = 0x85) (hs : g.sub ≠ 0xC)
    (harmed : (r.armedAt g.addr (accessBytes g.op g.sub)).isSome = false) :
    BytesStored s (performGang s g r) (spadKey r.core (r.spadOff g.addr)) (bytesOfNum 4 (atomicOp 32 g.sub
      (numOfBytes (spadRead s r.core (r.spadOff g.addr) (accessBytes g.op g.sub))) (g.data % 2 ^ 32)
      g.compare.toNat)) := by
  obtain ⟨P, hacted, _⟩ := performGang_result (s := s) (by omega) harmed
  rw [hacted]
  exact gangActed_atomic h hs s r

theorem gangResult_clean {s : State} {g : GangAccess} {r : UnitRec}
    (h : r.poisonAt s g.addr (accessBytes g.op g.sub) = none) (q : Pending) :
    gangResult s g r q = { q with value := some (loadWords (if g.op = 0x85 then 2 else g.sub)
      (spadRead s r.core (r.spadOff g.addr) (accessBytes g.op g.sub))) } := by
  simp only [gangResult, h, Option.isSome_none, Bool.false_eq_true, if_false, beq_iff_eq]

theorem gangResult_poisoned {s : State} {g : GangAccess} {r : UnitRec}
    (h : r.poisonAt s g.addr (accessBytes g.op g.sub) ≠ none) (q : Pending) :
    gangResult s g r q = { q with
      value := some (List.replicate (destRegs g.op g.sub) 0), psn := some (poisonInfo g.gaddr 0x01) } := by
  unfold gangResult
  exact if_pos (Option.isSome_iff_ne_none.2 h)

/-- Settles O39: a gang instruction issues as `gang_issues` says, and at its target an access stores
(`performGang_store`), gives its result (`performGang_result`) or is refused (`gangRefused_team`). -/
theorem gangAccesses : Obligations.GangAccesses := by
  unfold Obligations.GangAccesses
  refine ⟨fun s c sl t u e rest i op w ha hi hop h hm => gang_issues ha hi hop h hm, ?_⟩
  intro s id g r hg hc hu n k old
  refine ⟨gangAccess_waits hg hu, fun hb haway hplaced => ⟨_, gangAccess_acts hg hc hu hb haway hplaced, ?_⟩⟩
  refine ⟨performGang_gangAcc _ g r, fun harmed => ⟨fun hop => (performGang_store hop harmed).2, fun hop => ?_,
    fun hop hsub => ?_, fun hop q hq => ?_⟩, fun harmed => ?_⟩
  · exact performGang_load hop harmed
  · exact performGang_atomic hop hsub harmed
  · obtain ⟨P, hacted, hresult⟩ :=
      performGang_result (s := { s with gangAcc := s.gangAcc.del id }) (by omega) harmed
    refine ⟨_, ?_, fun h => gangResult_clean (s := { s with gangAcc := s.gangAcc.del id }) h q,
      fun h => gangResult_poisoned (s := { s with gangAcc := s.gangAcc.del id }) h q⟩
    rw [hacted]
    exact hresult q hq
  · rw [performGang_armed harmed]
    obtain ⟨hmem, _, hgone⟩ := gangRefused_leaves { s with gangAcc := s.gangAcc.del id } g
    exact ⟨hmem, hgone, fun t hslot ht hpend =>
      gangRefused_team (s := { s with gangAcc := s.gangAcc.del id }) hc ht hpend⟩

end Sys2Proof.Machine
end

section
/-! ## Traps of scalar instructions, and the scratchpad accesses that fail a check (R79, R231, R278, R279). -/

namespace Sys2Proof.Machine
open Sys2Proof Sys2Proof.Claims

/-! ### Traps of the acting stream -/

/-- The acting stream is the acting team's. -/
theorem thread_of_acting {s : State} {c sl : Nat} {t : Team} {u : UnitRec} (h : Acting s c sl t u) :
    s.thread s.cur = some t.th := by
  obtain ⟨hc, -, ht, -⟩ := h
  rw [hc, State.thread_team, ht]
  rfl

theorem withTeam_acting {s : State} {c sl : Nat} {t : Team} {u : UnitRec} (h : Acting s c sl t u)
    (k : Nat → Nat → Team → UnitRec → Result) : withTeam s k = k c sl t u := by
  obtain ⟨hc, -, ht, hu⟩ := h
  exact withTeam_of hc ht hu

theorem traps_of {s : State} {i : Instr} {th : Thread} {cause : Nat} {info : Word64} (h : s.thread s.cur = some th)
    (he : exec i s = trapNow s cause info) : Traps s i th cause info :=
  he.trans (trapNow_of cause info h)

/-- ILLEGAL carries the instruction's word (R231). -/
theorem refused_of {s : State} {i : Instr} {th : Thread} {code w : Nat} (h : s.thread s.cur = some th)
    (hw : encodeScalar i = some w) (he : exec i s = illegalWord s i code) : Refused s i th code := by
  have henc : encode i = [w] := by
    unfold encode
    rw [hw]
  have hill : illegalWord s i code = illegal s w code := by
    unfold illegalWord
    rw [hw]
    rfl
  unfold Refused
  rw [henc]
  exact traps_of h (he.trans hill)

/-! ### The checks of an offset -/

/-- Outside b128, an access is misaligned where its offset is no multiple of its size (R79). -/
theorem misaligned_iff {off n : Nat} (hn : n ≠ 16) : misaligned off n = true ↔ off % n ≠ 0 := by
  unfold misaligned
  simp [hn]

theorem withOffset_misaligned (s : State) (u : UnitRec) {off n : Nat} (k : Result) (hn : n ≠ 16) (h : off % n ≠ 0) :
    withOffset s u off n k = illegal s off 0x22 := if_pos ((misaligned_iff hn).2 h)

theorem withOffset_aligned (s : State) (u : UnitRec) {off n : Nat} (k : Result) (hn : n ≠ 16) (h : off % n = 0) :
    withOffset s u off n k =
      if !(off < 2 ^ 21 && off + n ≤ u.need.spad) then illegal s off 0x21
      else match u.armedAt off n with
        | some (w, j) => trapNow s 0x0A (windowInfo w j 0x07)
        | none => k :=
  if_neg fun hm => (misaligned_iff hn).1 hm h

theorem withOffset_outside {s : State} {u : UnitRec} {off n : Nat} (k : Result) (hn : n ≠ 16) (h : off % n = 0)
    (ho : 2 ^ 21 ≤ off ∨ u.need.spad < off + n) : withOffset s u off n k = illegal s off 0x21 := by
  rw [withOffset_aligned s u k hn h, if_pos]
  simp only [Bool.not_eq_true', Bool.and_eq_false_iff, decide_eq_false_iff_not]
  omega

theorem withOffset_inside {s : State} {u : UnitRec} {off n : Nat} (k : Result) (hn : n ≠ 16) (h : off % n = 0)
    (hlow : off < 2 ^ 21) (hin : off + n ≤ u.need.spad) :
    withOffset s u off n k = match u.armedAt off n with
      | some (w, j) => trapNow s 0x0A (windowInfo w j 0x07)
      | none => k := by
  rw [withOffset_aligned s u k hn h, decide_eq_true hlow, decide_eq_true hin]
  rfl

theorem withOffset_passes {s : State} {u : UnitRec} {off n : Nat} (k : Result) (hn : n ≠ 16)
    (h : OffsetPasses u off n) : withOffset s u off n k = k := by
  obtain ⟨halign, hlow, hin, harm⟩ := h
  rw [withOffset_inside k hn halign hlow hin, harm]

/-! ### GLD, GST and GATM reach the checks -/

theorem withScalarAccess_of {s : State} {c sl : Nat} {t : Team} {u : UnitRec} (h : Acting s c sl t u)
    (hf : fencedOut s c sl = false) (k : UnitRec → Result) : withScalarAccess s k = k u := by
  unfold withScalarAccess
  rw [withTeam_acting h, hf]
  rfl

/-- The bytes of a scalar access of size code `sz`: 1, 2, 4 or 8. -/
theorem accessBytes_ne (sz : BitVec 3) : 2 ^ (sz.toNat / 2) ≠ 16 := by
  have h : 2 ^ (sz.toNat / 2) ≤ 2 ^ 3 := Nat.pow_le_pow_right (by decide) (by omega)
  omega

/-- GATM takes the operations and orders of the tables (R256, R279). -/
theorem execGatm_taken {r : BitVec 2} {o : BitVec 4} (h : AtomicTaken r o) :
    ¬(o = 0xB || o = 0xE || o = 0xF) = true ∧ ¬(!gatmOrderOk o.toNat r.toNat) = true := by
  revert h
  unfold AtomicTaken
  revert r o
  decide

/-- A scalar access whose codes the tables give goes through the checks of its offset, and a read through that of poison. -/
theorem exec_scalarAccess {s : State} {c sl : Nat} {t : Team} {u : UnitRec} {i : Instr} {off n : Nat} {reads : Bool}
    (h : Acting s c sl t u) (hf : fencedOut s c sl = false) (ha : ScalarAccess t.th i off n reads) :
    n ≠ 16 ∧ ∃ k, exec i s = withOffset s u off n k ∧ (reads = true → ∃ k', k = withClean s u off n k') := by
  have hth := thread_of_acting h
  obtain ⟨d, a, sz, im, rfl, hsz, hr, rfl, rfl, rfl⟩ | ⟨d, a, sz, im, rfl, hsz, hr, rfl, rfl, rfl⟩ |
    ⟨d, a, b, cc, r, o, rfl, htaken, hr, rfl, rfl, rfl⟩ := ha
  · exact ⟨accessBytes_ne sz, _, (if_neg hsz).trans ((withScalarAccess_of h hf _).trans (withRegs_full hth hr)),
      fun _ => ⟨_, rfl⟩⟩
  · have hcode : ¬(sz = 1 || sz = 3 || sz = 5 || sz = 7) = true := by
      revert hsz
      clear * -
      revert sz
      decide
    exact ⟨accessBytes_ne sz, _, (if_neg hcode).trans ((withScalarAccess_of h hf _).trans (withRegs_full hth hr)),
      fun e => absurd e Bool.false_ne_true⟩
  · obtain ⟨hop, hord⟩ := execGatm_taken htaken
    exact ⟨by decide, _, (if_neg hop).trans ((if_neg hord).trans
      ((withScalarAccess_of h hf _).trans (withRegs_full hth hr))), fun _ => ⟨_, rfl⟩⟩

theorem withClean_poisoned {s : State} {u : UnitRec} {off n w : Nat} (k : List Byte → State → Result)
    (h : u.poisonAt s off n = some w) : withClean s u off n k = trapNow s 0x06 (scratchPoison w) := by
  unfold withClean
  rw [h]

/-! ### Codes that the tables do not give -/

theorem gld_refused {s : State} {th : Thread} {d a : BitVec 5} {sz : BitVec 3} {im : BitVec 13}
    (h : s.thread s.cur = some th) (hsz : sz = 7) : Refused s (.gld d a sz im) th 0x17 :=
  refused_of h rfl (if_pos hsz)

theorem gst_refused {s : State} {th : Thread} {d a : BitVec 5} {sz : BitVec 3} {im : BitVec 13}
    (h : s.thread s.cur = some th) (hsz : sz.toNat % 2 = 1) : Refused s (.gst d a sz im) th 0x17 := by
  refine refused_of h rfl (if_pos ?_)
  revert hsz
  clear * -
  revert sz
  decide

theorem gatm_refused_op {s : State} {th : Thread} {d a b cc : BitVec 5} {r : BitVec 2} {o : BitVec 4}
    (h : s.thread s.cur = some th) (ho : o = 0xB ∨ o = 0xE ∨ o = 0xF) : Refused s (.gatm d a b cc r o) th 0x10 := by
  refine refused_of h rfl (if_pos ?_)
  simpa [or_assoc] using ho

theorem gatm_refused_order {s : State} {th : Thread} {d a b cc : BitVec 5} {r : BitVec 2} {o : BitVec 4}
    (h : s.thread s.cur = some th) (ho : (o = 0xC ∧ r ≠ 0 ∧ r ≠ 1) ∨ (o = 0xD ∧ r ≠ 0 ∧ r ≠ 2)) :
    Refused s (.gatm d a b cc r o) th 0x17 := by
  have hcodes : ¬(o = 0xB || o = 0xE || o = 0xF) = true ∧ (!gatmOrderOk o.toNat r.toNat) = true := by
    revert ho
    clear * -
    revert r o
    decide
  obtain ⟨hop, hord⟩ := hcodes
  exact refused_of h rfl ((if_neg hop).trans (if_pos hord))

end Sys2Proof.Machine

namespace Sys2Proof.Machine
open Sys2Proof Sys2Proof.Claims

/-- Settles O11: a reserved code is refused at once; an access that the tables give reaches the checks of its offset
(`exec_scalarAccess`), each of which has its trap. -/
theorem accessTraps : Obligations.AccessTraps := by
  refine ⟨fun s c sl t u d a sz im h => ?_, fun s c sl t u d a b cc r o h => ?_,
    fun s c sl t u i off n reads h hf ha => ?_⟩
  · exact ⟨gld_refused (thread_of_acting h), gst_refused (thread_of_acting h)⟩
  · exact ⟨gatm_refused_op (thread_of_acting h), gatm_refused_order (thread_of_acting h)⟩
  · have hth := thread_of_acting h
    obtain ⟨hn, k, he, hk⟩ := exec_scalarAccess h hf ha
    refine ⟨fun hm => ?_, fun halign hout => ?_, fun w j halign hlow hin harm => ?_, fun w hreads hpass hp => ?_⟩
    · exact traps_of hth (he.trans (withOffset_misaligned s u k hn hm))
    · exact traps_of hth (he.trans (withOffset_outside k hn halign hout))
    · rw [withOffset_inside k hn halign hlow hin, harm] at he
      exact traps_of hth he
    · obtain ⟨k', rfl⟩ := hk hreads
      exact traps_of hth (he.trans ((withOffset_passes _ hn hpass).trans (withClean_poisoned k' hp)))

end Sys2Proof.Machine
end

section
/-! ## What a barrier number names, and the BARRIER traps (R92, R94, R98). -/

namespace Sys2Proof.Machine
open Sys2Proof Sys2Proof.Claims

theorem withReport_empty (s : State) {t : Team} (k : Result) (h : t.sfq = []) : withReport s t k = k := by
  unfold withReport
  rw [h]
  rfl

/-! ### Where the refusals of R98 stand -/

theorem withArrival_unnamed {s : State} {c sl : Nat} {t : Team} {u : UnitRec} {a : BitVec 5} {e : Nat}
    (h : Acting s c sl t u) (hq : t.sfq = []) (ha : t.th.full a = true)
    (he : barrierOf s t.unit u (barNumber (t.th.rd a)) = .error e)
    (k : Nat → Nat → Barrier → Nat → Nat → Result) :
    withArrival s a k = barrierTrap s (barNumber (t.th.rd a)) e := by
  unfold withArrival
  rw [withTeam_acting h, withRegs_full (thread_of_acting h) (by simpa using ha), withReport_empty s _ hq]
  simp only [he]

theorem withArrival_named {s : State} {c sl : Nat} {t : Team} {u q : UnitRec} {a : BitVec 5} {v i : Nat}
    (h : Acting s c sl t u) (hq : t.sfq = []) (ha : t.th.full a = true)
    (he : barrierOf s t.unit u (barNumber (t.th.rd a)) = .ok (v, q, i))
    (k : Nat → Nat → Barrier → Nat → Nat → Result) :
    withArrival s a k =
      if (q.bar i).claimed then barrierTrap s (barNumber (t.th.rd a)) 0x02
      else if (q.bar i).expected == 0 then barrierTrap s (barNumber (t.th.rd a)) 0x03
      else if !accessesDone s c sl t then .next (block s .laneStream)
      else k v i (q.bar i) (barNumber (t.th.rd a)) t.unit := by
  unfold withArrival
  rw [withTeam_acting h, withRegs_full (thread_of_acting h) (by simpa using ha), withReport_empty s _ hq]
  simp only [he]

/-- ARRIVE, and an ARRWAIT that has not arrived yet, arrive (R94). -/
theorem exec_arrives {s : State} {c sl : Nat} {t : Team} {u : UnitRec} {a : BitVec 5} {i : Instr}
    (h : Acting s c sl t u) (hf : FreshAt t.th) (hi : i = .barArrive a ∨ i = .barArrwait a) :
    ∃ k, exec i s = withArrival s a k := by
  obtain rfl | rfl := hi
  · show ∃ k, execBarArrive a s = withArrival s a k
    exact ⟨_, rfl⟩
  · show ∃ k, execBarArrwait a s = withArrival s a k
    unfold FreshAt at hf
    unfold execBarArrwait
    rw [withTeam_acting h, hf]
    exact ⟨_, rfl⟩

theorem exec_barWait_unnamed {s : State} {c sl : Nat} {t : Team} {u : UnitRec} {a : BitVec 5} {e : Nat}
    (h : Acting s c sl t u) (hq : t.sfq = []) (ha : t.th.full a = true)
    (he : barrierOf s t.unit u (barNumber (t.th.rd a)) = .error e) :
    exec (.barWait a) s = barrierTrap s (barNumber (t.th.rd a)) e := by
  refine (withTeam_acting h _).trans ?_
  rw [withRegs_full (thread_of_acting h) (by simpa using ha), withReport_empty s _ hq]
  simp only [he]

theorem exec_barInit_unnamed {s : State} {c sl : Nat} {t : Team} {u : UnitRec} {a b : BitVec 5} {e : Nat}
    (h : Acting s c sl t u) (hr : Claims.Ready s t.th [a, b])
    (he : barrierOf s t.unit u (barNumber (t.th.rd a)) = .error e) :
    exec (.barInit a b) s = barrierTrap s (barNumber (t.th.rd a)) e := by
  refine (withTeam_acting h _).trans ?_
  rw [withRegs_full hr.1 hr.2]
  simp only [he]

theorem exec_barInit_named {s : State} {c sl : Nat} {t : Team} {u q : UnitRec} {a b : BitVec 5} {v i : Nat}
    (h : Acting s c sl t u) (hr : Claims.Ready s t.th [a, b])
    (he : barrierOf s t.unit u (barNumber (t.th.rd a)) = .ok (v, q, i)) : ∃ k,
    exec (.barInit a b) s =
      if (q.bar i).claimed then barrierTrap s (barNumber (t.th.rd a)) 0x02
      else if (q.bar i).arrived != 0 || barrierWaited s v i (q.bar i).phase then
        barrierTrap s (barNumber (t.th.rd a)) 0x04
      else if (t.th.rd b).toNat == 0 || 0x7FFFFFFF < (t.th.rd b).toNat then barrierTrap s (barNumber (t.th.rd a)) 0x05
      else k := by
  have e : exec (.barInit a b) s = _ := withTeam_acting h _
  rw [withRegs_full hr.1 hr.2] at e
  simp only [he] at e
  exact ⟨_, e⟩

/-- A refusal of R98 is a BARRIER trap. -/
theorem barrierTraps_of {s : State} {i : Instr} {th : Thread} {n code : Nat} (h : s.thread s.cur = some th)
    (he : exec i s = barrierTrap s n code) : Traps s i th 0x09 (BitVec.ofNat 64 (n * 2 ^ 16 + code)) :=
  traps_of h he

/-- An arrival at a claimed barrier, and at one without a count, is refused (R98). -/
theorem arrival_traps {s : State} {c sl : Nat} {t : Team} {u q : UnitRec} {a : BitVec 5} {v i : Nat} {j : Instr}
    (h : Acting s c sl t u) (hq : t.sfq = []) (ha : t.th.full a = true) (hf : FreshAt t.th)
    (he : barrierOf s t.unit u (barNumber (t.th.rd a)) = .ok (v, q, i)) (hj : j = .barArrive a ∨ j = .barArrwait a) :
    ((q.bar i).claimed = true →
      Traps s j t.th 0x09 (BitVec.ofNat 64 (barNumber (t.th.rd a) * 2 ^ 16 + 2))) ∧
    ((q.bar i).claimed = false → (q.bar i).expected = 0 →
      Traps s j t.th 0x09 (BitVec.ofNat 64 (barNumber (t.th.rd a) * 2 ^ 16 + 3))) := by
  obtain ⟨k, hk⟩ := exec_arrives h hf hj
  rw [withArrival_named h hq ha he] at hk
  refine ⟨fun hc => ?_, fun hc hx => ?_⟩
  · rw [if_pos hc] at hk
    exact barrierTraps_of (thread_of_acting h) hk
  · rw [if_neg (hc ▸ Bool.false_ne_true), if_pos (beq_iff_eq.2 hx)] at hk
    exact barrierTraps_of (thread_of_acting h) hk

/-- INIT of a claimed, a busy barrier and with a bad count is refused, in this order (R98). -/
theorem barInit_traps {s : State} {c sl : Nat} {t : Team} {u q : UnitRec} {a b : BitVec 5} {v i : Nat}
    (h : Acting s c sl t u) (hr : Claims.Ready s t.th [a, b])
    (he : barrierOf s t.unit u (barNumber (t.th.rd a)) = .ok (v, q, i)) :
    ((q.bar i).claimed = true →
      Traps s (.barInit a b) t.th 0x09 (BitVec.ofNat 64 (barNumber (t.th.rd a) * 2 ^ 16 + 2))) ∧
    ((q.bar i).claimed = false → ((q.bar i).arrived ≠ 0 ∨ barrierWaited s v i (q.bar i).phase = true) →
      Traps s (.barInit a b) t.th 0x09 (BitVec.ofNat 64 (barNumber (t.th.rd a) * 2 ^ 16 + 4))) ∧
    ((q.bar i).claimed = false → (q.bar i).arrived = 0 → barrierWaited s v i (q.bar i).phase = false →
      ((t.th.rd b).toNat = 0 ∨ 0x7FFFFFFF < (t.th.rd b).toNat) →
      Traps s (.barInit a b) t.th 0x09 (BitVec.ofNat 64 (barNumber (t.th.rd a) * 2 ^ 16 + 5))) := by
  obtain ⟨k, hk⟩ := exec_barInit_named h hr he
  refine ⟨fun hc => ?_, fun hc hb => ?_, fun hc h0 hw hcnt => ?_⟩
  · rw [if_pos hc] at hk
    exact barrierTraps_of hr.1 hk
  · rw [if_neg (hc ▸ Bool.false_ne_true), if_pos ((Bool.or_eq_true _ _).mpr (hb.imp bne_iff_ne.2 id))] at hk
    exact barrierTraps_of hr.1 hk
  · rw [if_neg (hc ▸ Bool.false_ne_true), h0, hw, if_neg (by decide),
      if_pos ((Bool.or_eq_true _ _).mpr (hcnt.imp beq_iff_eq.2 decide_eq_true))] at hk
    exact barrierTraps_of hr.1 hk

/-! ### What a barrier number names -/

theorem barrierOf_own (s : State) (v : Nat) (u : UnitRec) {n : Nat} (h : n < 512) :
    barrierOf s v u n = if n < u.need.bars then .ok (v, u, n) else .error 0x01 := if_pos h

theorem barrierOf_no_gang (s : State) (v : Nat) {u : UnitRec} {n : Nat} (h : 512 ≤ n) (hg : u.gang = 0) :
    barrierOf s v u n = .error 0x06 := (if_neg (Nat.not_lt.2 h)).trans (if_pos (beq_iff_eq.2 hg))

/-- Settles O25: `barrierOf` is read off its definition, and each BARRIER instruction goes through its refusals in the
order of R98. -/
theorem barrierTraps : Obligations.BarrierTraps := by
  refine ⟨fun s v u n hn => barrierOf_own s v u hn, fun s v u n hn hg => barrierOf_no_gang s v hn hg,
    fun s c sl t u a b n e h hq hr hf hn he i hi => ?_, fun s c sl t u a b n v i q h hq hr hf hname => ?_⟩
  · subst hn
    have ha : t.th.full a = true := hr.2 a (List.mem_cons_self ..)
    have arrives {j : Instr} (hj : j = .barArrive a ∨ j = .barArrwait a) :
        exec j s = barrierTrap s (barNumber (t.th.rd a)) e := by
      obtain ⟨k, hk⟩ := exec_arrives h hf hj
      exact hk.trans (withArrival_unnamed h hq ha he k)
    obtain rfl | rfl | rfl | rfl := hi
    · exact barrierTraps_of hr.1 (arrives (.inl rfl))
    · exact barrierTraps_of hr.1 (exec_barWait_unnamed h hq ha he)
    · exact barrierTraps_of hr.1 (arrives (.inr rfl))
    · exact barrierTraps_of hr.1 (exec_barInit_unnamed h hr he)
  · obtain ⟨rfl, he, -⟩ := hname
    have ha : t.th.full a = true := hr.2 a (List.mem_cons_self ..)
    obtain ⟨harr, harr0⟩ := arrival_traps h hq ha hf he (.inl rfl)
    obtain ⟨hwait, hwait0⟩ := arrival_traps h hq ha hf he (.inr rfl)
    obtain ⟨hinit, hbusy, hcount⟩ := barInit_traps h hr he
    exact ⟨fun hc => ⟨harr hc, hwait hc, hinit hc⟩, fun hc hx => ⟨harr0 hc hx, hwait0 hc hx⟩, hbusy, hcount⟩

end Sys2Proof.Machine
end

section
/-! ## The TAG instructions (R88 to R91, R342). -/

namespace Sys2Proof.Machine
open Sys2Proof Sys2Proof.Claims

/-! ### The lowest tag of a mask -/

theorem firstTag_lowest {m : Word64} {p : Nat → Bool} {j : Nat}
    (h : j < 64 ∧ m.getLsbD j = true ∧ p j = true ∧ ∀ k, k < j → m.getLsbD k = true → p k = false) :
    firstTag m p = some j := by
  obtain ⟨hj, hm, hp, hlow⟩ := h
  refine List.find?_range_eq_some.2 ⟨by rw [hm, hp]; rfl, List.mem_range.2 hj, fun k hk => ?_⟩
  cases hmk : m.getLsbD k with
  | false => rfl
  | true => rw [hlow k hk hmk]; rfl

theorem firstTag_none {m : Word64} {p : Nat → Bool} (h : ∀ j, j < 64 → m.getLsbD j = true → p j = false) :
    firstTag m p = none := by
  refine List.find?_range_eq_none.2 fun k hk => ?_
  cases hmk : m.getLsbD k with
  | false => rfl
  | true => rw [h k hk hmk]; rfl

theorem tagsExist_firstTag {u : UnitRec} {m : Word64} (h : TagsExist u m) :
    firstTag m (fun j => decide (u.need.tags ≤ j)) = none :=
  firstTag_none fun j hj hm => decide_eq_false (Nat.not_le.2 (h j hj hm))

/-! ### What WALL and WANY meet -/

theorem tagTest_any_ready {u : UnitRec} {m : Word64} {j : Nat} (h : firstTag m (fun k => (u.tag k).rdy) = some j) :
    tagTest u m true = .done j := by
  unfold tagTest
  rw [if_pos rfl, h]

theorem tagTest_any_never {u : UnitRec} {m : Word64} (h : firstTag m (fun k => (u.tag k).rdy) = none)
    (ho : firstTag m (fun k => (u.tag k).out != 0) = none) : tagTest u m true = .never 0 := by
  unfold tagTest
  rw [if_pos rfl, h, ho]
  rfl

theorem tagTest_any_wait {u : UnitRec} {m : Word64} {j : Nat} (h : firstTag m (fun k => (u.tag k).rdy) = none)
    (ho : firstTag m (fun k => (u.tag k).out != 0) = some j) : tagTest u m true = .wait := by
  unfold tagTest
  rw [if_pos rfl, h, ho]
  rfl

theorem tagTest_all_idle {u : UnitRec} {m : Word64} {j : Nat}
    (h : firstTag m (fun k => (u.tag k).out == 0 && !(u.tag k).rdy) = some j) : tagTest u m false = .never j := by
  unfold tagTest
  rw [if_neg Bool.false_ne_true, h]

theorem tagTest_all_done {u : UnitRec} {m : Word64}
    (h : firstTag m (fun k => (u.tag k).out == 0 && !(u.tag k).rdy) = none)
    (hr : firstTag m (fun k => !(u.tag k).rdy) = none) : tagTest u m false = .done 0 := by
  unfold tagTest
  rw [if_neg Bool.false_ne_true, h, hr]
  rfl

theorem tagTest_all_wait {u : UnitRec} {m : Word64} {j : Nat}
    (h : firstTag m (fun k => (u.tag k).out == 0 && !(u.tag k).rdy) = none)
    (hr : firstTag m (fun k => !(u.tag k).rdy) = some j) : tagTest u m false = .wait := by
  unfold tagTest
  rw [if_neg Bool.false_ne_true, h, hr]
  rfl

/-! ### A change of a tag where nobody waits -/

theorem noTagWaits_setTeam {s : State} {v c : Nat} (h : NoTagWaits s v) (hc : c < 0x10000) (sl : Nat) {t : Team}
    (ht : t.th.wait = .none) : NoTagWaits (s.setTeam c sl t) v := by
  rw [State.setTeam_low s sl t hc]
  intro e he hv m any d hw
  obtain rfl | he := FMap.mem_put he
  · exact Wait.noConfusion (ht.symm.trans hw)
  · exact h e he hv m any d hw

theorem State.team_setUnit_low (s : State) {c : Nat} (sl v : Nat) (r : UnitRec) (hc : c < 0x10000) :
    (s.setUnit v r).team c sl = s.team c sl := by
  rw [State.team_low _ _ hc, State.team_low _ _ hc, State.setUnit_teams]

/-- A stream that retires waits for no tag. -/
theorem tagsChanged_retireWith {s : State} {c sl : Nat} {t : Team} {u : UnitRec} (h : Acting s c sl t u) (r : UnitRec)
    (d : BitVec 5) (x : Word64) (hn : NoTagWaits s t.unit) :
    tagsChanged (retireWith (s.setUnit t.unit r) d x) t.unit = retireWith (s.setUnit t.unit r) d x := by
  obtain ⟨hc, ⟨hlow, -⟩, ht, -⟩ := h
  rw [retireWith_team (s := s.setUnit t.unit r) d x hc ((s.team_setUnit_low sl _ r hlow).trans ht)]
  exact tagsChanged_quiet (noTagWaits_setTeam (s := s.setUnit t.unit r) hn hlow sl rfl)

theorem tagsChanged_retire {s : State} {c sl : Nat} {t : Team} {u : UnitRec} (h : Acting s c sl t u) (r : UnitRec)
    (hn : NoTagWaits s t.unit) :
    tagsChanged (retire (s.setUnit t.unit r)) t.unit = retire (s.setUnit t.unit r) := by
  obtain ⟨hc, ⟨hlow, -⟩, ht, -⟩ := h
  rw [retire_team (s := s.setUnit t.unit r) hc ((s.team_setUnit_low sl _ r hlow).trans ht)]
  exact tagsChanged_quiet (noTagWaits_setTeam (s := s.setUnit t.unit r) hn hlow sl rfl)

/-! ### The instructions -/

section
variable {s : State} {c sl : Nat} {t : Team} {u : UnitRec} {a d : BitVec 5}

theorem withTags_exist (h : Acting s c sl t u) {l : List (BitVec 5)} (hr : ∀ r ∈ l, t.th.full r = true)
    (he : TagsExist u (t.th.rd a)) (k : Nat → UnitRec → Word64 → Result) :
    withTags s l a k = k t.unit u (t.th.rd a) := by
  unfold withTags
  rw [withTeam_acting h, withRegs_full (thread_of_acting h) hr, tagsExist_firstTag he]

theorem withTags_missing (h : Acting s c sl t u) {l : List (BitVec 5)} (hr : ∀ r ∈ l, t.th.full r = true) {j : Nat}
    (he : firstTag (t.th.rd a) (fun j => decide (u.need.tags ≤ j)) = some j) (k : Nat → UnitRec → Word64 → Result) :
    withTags s l a k = tagTrap s j 0x01 := by
  unfold withTags
  rw [withTeam_acting h, withRegs_full (thread_of_acting h) hr, he]

theorem full_of_ready (h : Claims.Ready s t.th [a, d]) : ∀ r ∈ [a], t.th.full r = true :=
  fun _ hr => h.2 _ (List.mem_cons.2 (.inl (List.mem_singleton.1 hr)))

theorem exec_tagWall (h : Acting s c sl t u) (hr : Claims.Ready s t.th [a, d]) (he : TagsExist u (t.th.rd a)) :
    (∀ j, tagTest u (t.th.rd a) false = .done j → exec (.tagWall a) s = .next (retire s)) ∧
    (∀ j, tagTest u (t.th.rd a) false = .never j → exec (.tagWall a) s = tagTrap s j 0x03) ∧
    (tagTest u (t.th.rd a) false = .wait → exec (.tagWall a) s = .next (block s (.tags (t.th.rd a) false 0))) := by
  have hx : execTagWall a s = _ := withTags_exist h (full_of_ready hr) he _
  refine ⟨fun j e => hx.trans ?_, fun j e => hx.trans ?_, fun e => hx.trans ?_⟩ <;> rw [e]

theorem exec_tagWany (h : Acting s c sl t u) (hr : Claims.Ready s t.th [a, d]) (he : TagsExist u (t.th.rd a)) :
    (∀ j, tagTest u (t.th.rd a) true = .done j → exec (.tagWany d a) s = .next (tagsChanged (retireWith
      (s.setUnit t.unit { u with tags := u.tags.put j { u.tag j with rdy := false } }) d (BitVec.ofNat 64 j)) t.unit)) ∧
    (∀ j, tagTest u (t.th.rd a) true = .never j → exec (.tagWany d a) s = tagTrap s j 0x03) ∧
    (tagTest u (t.th.rd a) true = .wait →
      exec (.tagWany d a) s = .next (block s (.tags (t.th.rd a) true d.toNat))) := by
  have hx : execTagWany d a s = _ := withTags_exist h hr.2 he _
  refine ⟨fun j e => hx.trans ?_, fun j e => hx.trans ?_, fun e => hx.trans ?_⟩ <;> rw [e]
  show Host.Outcome.next (tagsChanged (retireWith (setTag s t.unit j _) d (BitVec.ofNat 64 j)) t.unit) = _
  rw [setTag, State.onUnit_of _ _ h.2.2.2]

theorem exec_tagFfr (h : Acting s c sl t u) (hr : Claims.Ready s t.th [a, d]) (he : TagsExist u (t.th.rd a)) :
    exec (.tagFfr d a) s = .next (retireWith s d
      ((firstTag (t.th.rd a) (fun j => (u.tag j).rdy)).elim (BitVec.allOnes 64) (BitVec.ofNat 64))) := by
  have hx : execTagFfr d a s = _ := withTags_exist h hr.2 he _
  refine hx.trans ?_
  cases firstTag (t.th.rd a) (fun j => (u.tag j).rdy) <;> rfl

/-- The tags of a unit after CLR of a mask (R89). -/
def clearedTags (u : UnitRec) (m : Word64) : FMap Tag :=
  ((List.range 64).filter (fun t => m.getLsbD t)).foldl (fun (x : FMap Tag) t =>
    x.put t { u.tag t with rdy := false, bytes := 0, psn := false, flt := false }) u.tags

theorem FMap.look_foldl_put {α : Type} (d : α) (f : Nat → α) (l : List Nat) (m : FMap α) (j : Nat) :
    FMap.look d (l.foldl (fun m k => FMap.put m k (f k)) m) j = if j ∈ l then f j else FMap.look d m j := by
  induction l using List.reverseRecOn with
  | nil => rfl
  | append_singleton l k ih =>
    rw [List.foldl_append, List.foldl_cons, List.foldl_nil]
    by_cases hk : j = k
    · rw [hk, FMap.look_put_same, if_pos (by simp)]
    · rw [FMap.look_put_other _ _ _ hk, ih]
      simp [hk]

theorem clearedTags_look (u : UnitRec) (m : Word64) {j : Nat} (hj : j < 64) :
    FMap.look Tag.zero (clearedTags u m) j =
      if m.getLsbD j then ⟨(u.tag j).out, false, 0, false, false⟩ else u.tag j := by
  refine (FMap.look_foldl_put _ _ _ _ _).trans ?_
  simp only [List.mem_filter, List.mem_range, hj, true_and]
  rfl

theorem exec_tagClr (h : Acting s c sl t u) (hr : Claims.Ready s t.th [a, d]) (he : TagsExist u (t.th.rd a)) :
    (firstTag (t.th.rd a) (fun j => (u.tag j).out != 0) = none → exec (.tagClr a) s = .next (tagsChanged (retire
      (s.setUnit t.unit { u with tags := clearedTags u (t.th.rd a) })) t.unit)) ∧
    (∀ j, firstTag (t.th.rd a) (fun j => (u.tag j).out != 0) = some j → exec (.tagClr a) s = tagTrap s j 0x02) := by
  have hx : execTagClr a s = _ := withTags_exist h (full_of_ready hr) he _
  refine ⟨fun e => hx.trans ?_, fun j e => hx.trans ?_⟩ <;> rw [e]
  rfl

theorem exec_tag_missing (h : Acting s c sl t u) (hr : Claims.Ready s t.th [a, d]) {j : Nat}
    (he : firstTag (t.th.rd a) (fun j => decide (u.need.tags ≤ j)) = some j) {i : Instr}
    (hi : i = .tagWall a ∨ i = .tagWany d a ∨ i = .tagFfr d a ∨ i = .tagClr a) : exec i s = tagTrap s j 0x01 := by
  obtain rfl | rfl | rfl | rfl := hi
  · exact (withTags_missing h (full_of_ready hr) he _ : execTagWall a s = _)
  · exact (withTags_missing h hr.2 he _ : execTagWany d a s = _)
  · exact (withTags_missing h hr.2 he _ : execTagFfr d a s = _)
  · exact (withTags_missing h (full_of_ready hr) he _ : execTagClr a s = _)

theorem exec_tagRead (h : Acting s c sl t u) (hr : Claims.Ready s t.th [a, d]) :
    exec (.tagRead d a) s = if u.need.tags ≤ (t.th.rd a).toNat % 64 then tagTrap s ((t.th.rd a).toNat % 64) 0x01
      else .next (retireWith s d (u.tag ((t.th.rd a).toNat % 64)).word) := by
  have hbits : bits (t.th.rd a).toNat 0 6 = (t.th.rd a).toNat % 64 := by simp [bits]
  show execTagRead d a s = _
  unfold execTagRead
  rw [withTeam_acting h, withRegs_full hr.1 hr.2, hbits]

end

/-- Settles O26: a TAG instruction is decided by the lowest tag of its mask that its test meets (`firstTag`), and where no
team is blocked in WALL or WANY a change of tags moves nothing more. -/
theorem tags : Obligations.Tags := by
  intro s c sl t u a d h hr
  refine ⟨fun he => ?_, fun j hj i hi => ?_, fun hlow => ?_, fun hhigh => ?_⟩
  · obtain ⟨wallDone, wallNever, wallWait⟩ := exec_tagWall h hr he
    obtain ⟨wanyDone, wanyNever, wanyWait⟩ := exec_tagWany h hr he
    obtain ⟨clr, clrBusy⟩ := exec_tagClr h hr he
    refine ⟨fun hn => ?_, fun j hj => ⟨⟨?_, ?_⟩, ?_⟩, fun hn => ?_, fun hn ho => ?_, fun j hn hj => ?_,
      fun j hn hj => ?_, fun j hj => ?_, fun ho => ?_, fun j hj => ?_⟩
    · refine wallDone 0 (tagTest_all_done (firstTag_none fun j hj hm => ?_) (firstTag_none hn))
      exact Bool.and_eq_false_iff.2 (.inr (hn j hj hm))
    · exact wanyDone j (tagTest_any_ready (firstTag_lowest hj))
    · exact tagsChanged_retireWith h _ d _
    · rw [exec_tagFfr h hr he, firstTag_lowest (p := fun j => (u.tag j).rdy) hj]
      rfl
    · rw [exec_tagFfr h hr he, firstTag_none (p := fun j => (u.tag j).rdy) hn]
      rfl
    · exact traps_of hr.1 (wanyNever 0 (tagTest_any_never (firstTag_none hn) (firstTag_none ho)))
    · exact wanyWait (tagTest_any_wait (firstTag_none hn) (firstTag_lowest hj))
    · exact wallWait (tagTest_all_wait (firstTag_none hn) (firstTag_lowest hj))
    · exact traps_of hr.1 (wallNever j (tagTest_all_idle (firstTag_lowest hj)))
    · refine ⟨_, ⟨clr (firstTag_none ho), tagsChanged_retire h _⟩, fun j hj => ?_⟩
      rw [clearedTags_look u _ hj]
      cases hm : (t.th.rd a).getLsbD j with
      | false => rfl
      | true =>
        have hout : (u.tag j).out = 0 := by simpa [UnitRec.tag] using ho j hj hm
        rw [hout]
        rfl
    · exact traps_of hr.1 (clrBusy j (firstTag_lowest hj))
  · exact traps_of hr.1 (exec_tag_missing h hr (firstTag_lowest hj) hi)
  · exact (exec_tagRead h hr).trans (if_neg (Nat.not_le.2 hlow))
  · exact traps_of hr.1 ((exec_tagRead h hr).trans (if_pos hhigh))

end Sys2Proof.Machine
end
